-- ==== Sys2Proof/Word.lean ====
section
/-! DEFINITION. The machine's plain word types (R95: scalar registers hold 64-bit integers; R88: code addresses are
32-bit values) and the widths of the instruction fields (R48). -/
namespace Sys2Proof

/-- A 64-bit scalar value (R95). -/
abbrev Word := BitVec 64

/-- One byte of memory (R4). -/
abbrev Byte := BitVec 8

/-- An instruction word (R48). -/
abbrev IWord := BitVec 32

/-- A code address: overlay number in bits 31:16, byte offset in bits 15:0 (R88). -/
abbrev CodeAddr := BitVec 32

/-- A window number, 0 to 63 (R49). -/
abbrev RegNo := BitVec 6

/-- A tile register number, 0 to 15 (R49). -/
abbrev TileNo := BitVec 4

/-- A shape register number, 0 to 3 (R49). -/
abbrev ShapeNo := BitVec 2

end Sys2Proof
end

