-- ==== Sys2Proof/Syntax.lean ====
section
/-! DEFINITION. The instruction set and the machine's further steps as syntax: ONE constructor for every row of the
opcode table. 252 constructors are instruction words (R48 to R87); the last 94 are the table's steps that are no instruction
(95_what_each_step_holds.md). What such a step acts on (a request, a core, a host's values) stands beside it in the state
(`Machine.Event`): constructors without arguments stand last. -/
namespace Sys2Proof

/-- Element formats, in the order of their 5-bit codes 0x00 to 0x12 (R58). -/
inductive Fmt where
  | i8 | z8 | i16 | z16 | i32 | z32 | i64 | z64 | i4 | z4 | f64 | f32 | f16 | bf16 | e4m3 | e5m2 | e3m2 | e2m3 | e2m1
deriving DecidableEq, Repr

/-- Rounding and flush codes RF, 0b000 to 0b111 (R59). -/
inductive Rf where
  | rne | rtz | rup | rdn | rmm | rsr | fz | nf
deriving DecidableEq, Repr

/-- The scalar floating-point format field fmt2, 0b00 to 0b11 (R67). -/
inductive Fmt2 where
  | f64 | f32 | f16 | bf16
deriving DecidableEq, Repr

/-- Destination formats of fcvt, unary codes 0x04 to 0x0C (R68). -/
inductive FcvtTo where
  | f64 | f32 | f16 | bf16 | e4m3 | e5m2 | e3m2 | e2m3 | e2m1
deriving DecidableEq, Repr

/-- Integer formats of fcvti and icvtf, in unary-code order (R68). -/
inductive IntTo where
  | i32 | i64 | z32 | z64
deriving DecidableEq, Repr

/-- Widths of ldx, sub codes 0b000 to 0b110 (R71). -/
inductive LdxWidth where
  | i8 | z8 | i16 | z16 | i32 | z32 | i64
deriving DecidableEq, Repr

/-- Scope codes 0b000 to 0b101 (R60); `thread` is the code of an absent modifier. -/
inductive Scope where
  | thread | core | clus | die | pkg | fab
deriving DecidableEq, Repr

/-- Reducing-load operations, sub codes 0b000 to 0b101 (R71). -/
inductive LdrdOp where
  | addI64 | minI64 | maxI64 | addF64 | minF64 | maxF64
deriving DecidableEq, Repr

/-- Atomic operations 0 to 13 (R167). -/
inductive AmoOp where
  | add | and | or | xor | min | max | minz | maxz | swap | fadd32 | fadd64 | badd16 | fmin | fmax
deriving DecidableEq, Repr

/-- Product formats of the matrix unit (R80). -/
inductive ProductFmt where
  | bf16 | f16 | e4m3 | e5m2 | e3m2 | e2m3 | e2m1 | i8 | z8
deriving DecidableEq, Repr

/-- Drain formats of the matrix unit (R80). -/
inductive DrainFmt where
  | f32 | f16 | bf16 | e4m3 | e5m2 | i32 | i8 | z8
deriving DecidableEq, Repr

/-- The steps of the opcode table, one constructor per row. -/
inductive Instr where
  /-- Sets d to a plus b, wrapped to 64 bits (R131). -/
  | add (d : RegNo) (a : RegNo) (b : RegNo)
  /-- Sets d to a minus b, wrapped to 64 bits (R131). -/
  | sub (d : RegNo) (a : RegNo) (b : RegNo)
  /-- Sets d to the bitwise AND of a and b (R131). -/
  | and (d : RegNo) (a : RegNo) (b : RegNo)
  /-- Sets d to the bitwise OR of a and b (R131). -/
  | or (d : RegNo) (a : RegNo) (b : RegNo)
  /-- Sets d to the bitwise XOR of a and b (R131). -/
  | xor (d : RegNo) (a : RegNo) (b : RegNo)
  /-- Sets d to a AND NOT b (R131). -/
  | andn (d : RegNo) (a : RegNo) (b : RegNo)
  /-- Sets d to a OR NOT b (R131). -/
  | orn (d : RegNo) (a : RegNo) (b : RegNo)
  /-- Sets d to NOT (a XOR b) (R131). -/
  | xnor (d : RegNo) (a : RegNo) (b : RegNo)
  /-- Shifts a left by b[5:0] (R131). -/
  | shl (d : RegNo) (a : RegNo) (b : RegNo)
  /-- Shifts a right logically by b[5:0] (R131). -/
  | shr (d : RegNo) (a : RegNo) (b : RegNo)
  /-- Shifts a right arithmetically by b[5:0] (R131). -/
  | sar (d : RegNo) (a : RegNo) (b : RegNo)
  /-- Rotates a left by b[5:0] (R131). -/
  | rol (d : RegNo) (a : RegNo) (b : RegNo)
  /-- Rotates a right by b[5:0] (R131). -/
  | ror (d : RegNo) (a : RegNo) (b : RegNo)
  /-- Sets d to 1 if a is less than b signed, else 0 (R131). -/
  | slt (d : RegNo) (a : RegNo) (b : RegNo)
  /-- Sets d to 1 if a is less than b unsigned, else 0 (R131). -/
  | sltz (d : RegNo) (a : RegNo) (b : RegNo)
  /-- Sets d to 1 if a equals b, else 0 (R131). -/
  | seq (d : RegNo) (a : RegNo) (b : RegNo)
  /-- Sets d to 1 if a differs from b, else 0 (R131). -/
  | sne (d : RegNo) (a : RegNo) (b : RegNo)
  /-- Sets d to the signed lesser of a and b (R131). -/
  | min (d : RegNo) (a : RegNo) (b : RegNo)
  /-- Sets d to the signed greater of a and b (R131). -/
  | max (d : RegNo) (a : RegNo) (b : RegNo)
  /-- Sets d to the unsigned lesser of a and b (R131). -/
  | minz (d : RegNo) (a : RegNo) (b : RegNo)
  /-- Sets d to the unsigned greater of a and b (R131). -/
  | maxz (d : RegNo) (a : RegNo) (b : RegNo)
  /-- Signed saturating add (R131). -/
  | qadd (d : RegNo) (a : RegNo) (b : RegNo)
  /-- Unsigned saturating add (R131). -/
  | qaddz (d : RegNo) (a : RegNo) (b : RegNo)
  /-- Signed saturating subtract (R131). -/
  | qsub (d : RegNo) (a : RegNo) (b : RegNo)
  /-- Unsigned saturating subtract (R131). -/
  | qsubz (d : RegNo) (a : RegNo) (b : RegNo)
  /-- Sets d to the wrapped absolute value of a (R131). -/
  | abs (d : RegNo) (a : RegNo)
  /-- Sign-extends a[7:0] into d (R131). -/
  | sextI8 (d : RegNo) (a : RegNo)
  /-- Sign-extends a[15:0] into d (R131). -/
  | sextI16 (d : RegNo) (a : RegNo)
  /-- Sign-extends a[31:0] into d (R131). -/
  | sextI32 (d : RegNo) (a : RegNo)
  /-- Zero-extends a[7:0] into d (R131). -/
  | zextZ8 (d : RegNo) (a : RegNo)
  /-- Zero-extends a[15:0] into d (R131). -/
  | zextZ16 (d : RegNo) (a : RegNo)
  /-- Zero-extends a[31:0] into d (R131). -/
  | zextZ32 (d : RegNo) (a : RegNo)
  /-- Adds a sign-extended 14-bit immediate to a (R131). -/
  | addi (d : RegNo) (a : RegNo) (imm : BitVec 14)
  /-- ANDs a with a zero-extended immediate (R131). -/
  | andi (d : RegNo) (a : RegNo) (imm : BitVec 14)
  /-- ORs a with a zero-extended immediate (R131). -/
  | ori (d : RegNo) (a : RegNo) (imm : BitVec 14)
  /-- XORs a with a zero-extended immediate (R131). -/
  | xori (d : RegNo) (a : RegNo) (imm : BitVec 14)
  /-- Shifts a left by an immediate amount (R132). -/
  | shli (d : RegNo) (a : RegNo) (n : BitVec 6)
  /-- Shifts a right logically by an immediate amount (R132). -/
  | shri (d : RegNo) (a : RegNo) (n : BitVec 6)
  /-- Shifts a right arithmetically by an immediate amount (R132). -/
  | sari (d : RegNo) (a : RegNo) (n : BitVec 6)
  /-- Rotates a right by an immediate amount (R132). -/
  | rori (d : RegNo) (a : RegNo) (n : BitVec 6)
  /-- Sets d to 1 if a is less than the signed immediate (R131). -/
  | slti (d : RegNo) (a : RegNo) (imm : BitVec 14)
  /-- Sets d to the sign-extended imm20 shifted left by 14 (R133). -/
  | lih (d : RegNo) (imm : BitVec 20)
  /-- Sets d to a code address in the PC's overlay offset by imm20 words (R134). -/
  | pcadd (d : RegNo) (imm : BitVec 20)
  /-- Sets d to the low 64 bits of a times b (R135). -/
  | mul (d : RegNo) (a : RegNo) (b : RegNo)
  /-- Sets d to the high 64 bits of the signed product (R135). -/
  | mulh (d : RegNo) (a : RegNo) (b : RegNo)
  /-- Sets d to the high 64 bits of the unsigned product (R135). -/
  | mulhz (d : RegNo) (a : RegNo) (b : RegNo)
  /-- Signed division truncated toward zero, with defined results for zero divisors (R135). -/
  | div (d : RegNo) (a : RegNo) (b : RegNo)
  /-- Unsigned division (R135). -/
  | divz (d : RegNo) (a : RegNo) (b : RegNo)
  /-- Signed remainder (R135). -/
  | rem (d : RegNo) (a : RegNo) (b : RegNo)
  /-- Unsigned remainder (R135). -/
  | remz (d : RegNo) (a : RegNo) (b : RegNo)
  /-- Low 64 bits of the carry-less product (R136). -/
  | clmul (d : RegNo) (a : RegNo) (b : RegNo)
  /-- High bits of the carry-less product (R136). -/
  | clmulh (d : RegNo) (a : RegNo) (b : RegNo)
  /-- Counts the one bits of a (R136). -/
  | pop (d : RegNo) (a : RegNo)
  /-- Counts leading zero bits of a (R136). -/
  | clz (d : RegNo) (a : RegNo)
  /-- Counts trailing zero bits of a (R136). -/
  | ctz (d : RegNo) (a : RegNo)
  /-- Extracts a bit field of a (R136). -/
  | bext (d : RegNo) (a : RegNo) (b : RegNo)
  /-- Inserts the low bits of a into a field of d (R136). -/
  | bins (d : RegNo) (a : RegNo) (b : RegNo)
  /-- Bitwise select between a and d under mask b (R136). -/
  | sel (d : RegNo) (a : RegNo) (b : RegNo)
  /-- Reverses the bits of a (R136). -/
  | brev (d : RegNo) (a : RegNo)
  /-- Reverses the bytes of a (R136). -/
  | bswap (d : RegNo) (a : RegNo)
  /-- Floating add rounded under RF (R138). -/
  | fadd (d : RegNo) (a : RegNo) (b : RegNo) (rf : Rf) (fmt : Fmt2)
  /-- Floating subtract rounded under RF (R138). -/
  | fsub (d : RegNo) (a : RegNo) (b : RegNo) (rf : Rf) (fmt : Fmt2)
  /-- Floating multiply rounded under RF (R138). -/
  | fmul (d : RegNo) (a : RegNo) (b : RegNo) (rf : Rf) (fmt : Fmt2)
  /-- Floating divide rounded under RF; result arrives later (R138). -/
  | fdiv (d : RegNo) (a : RegNo) (b : RegNo) (rf : Rf) (fmt : Fmt2)
  /-- Fused reciprocal refinement step 2 − a·b (R122). -/
  | frcps (d : RegNo) (a : RegNo) (b : RegNo) (rf : Rf) (fmt : Fmt2)
  /-- Fused reciprocal square root refinement step (3 − a·b)/2 (R122). -/
  | frsqs (d : RegNo) (a : RegNo) (b : RegNo) (rf : Rf) (fmt : Fmt2)
  /-- Floating minimum (R139). -/
  | fmin (d : RegNo) (a : RegNo) (b : RegNo) (fmt : Fmt2)
  /-- Floating maximum (R139). -/
  | fmax (d : RegNo) (a : RegNo) (b : RegNo) (fmt : Fmt2)
  /-- Copies a with b's sign (R139). -/
  | fsgnj (d : RegNo) (a : RegNo) (b : RegNo) (fmt : Fmt2)
  /-- Copies a with the inverse of b's sign (R139). -/
  | fsgnjn (d : RegNo) (a : RegNo) (b : RegNo) (fmt : Fmt2)
  /-- Copies a with its sign XOR b's sign (R139). -/
  | fsgnjx (d : RegNo) (a : RegNo) (b : RegNo) (fmt : Fmt2)
  /-- Floating equality comparison (R139). -/
  | feq (d : RegNo) (a : RegNo) (b : RegNo) (fmt : Fmt2)
  /-- Floating less-than comparison (R139). -/
  | flt (d : RegNo) (a : RegNo) (b : RegNo) (fmt : Fmt2)
  /-- Floating less-or-equal comparison (R139). -/
  | fle (d : RegNo) (a : RegNo) (b : RegNo) (fmt : Fmt2)
  /-- Floating square root; result arrives later (R138). -/
  | fsqrt (d : RegNo) (a : RegNo) (rf : Rf) (fmt : Fmt2)
  /-- Reciprocal estimate (R119). -/
  | frcp (d : RegNo) (a : RegNo) (rf : Rf) (fmt : Fmt2)
  /-- Reciprocal square root estimate (R120). -/
  | frsq (d : RegNo) (a : RegNo) (rf : Rf) (fmt : Fmt2)
  /-- Sets one bit of d naming a's class (R140). -/
  | fclass (d : RegNo) (a : RegNo) (fmt : Fmt2)
  /-- Converts between floating formats (R141). -/
  | fcvt (d : RegNo) (a : RegNo) (dst : FcvtTo) (rf : Rf) (fmt : Fmt2)
  /-- Converts a float to an integer (R141). -/
  | fcvti (d : RegNo) (a : RegNo) (dst : IntTo) (rf : Rf) (fmt : Fmt2)
  /-- Converts an integer to a float (R141). -/
  | icvtf (d : RegNo) (a : RegNo) (src : IntTo) (rf : Rf) (fmt : Fmt2)
  /-- FP64 fused multiply-add (R142). -/
  | fmaF64 (d : RegNo) (a : RegNo) (b : RegNo) (c : RegNo)
  /-- FP64 fused multiply-subtract (R142). -/
  | fmsF64 (d : RegNo) (a : RegNo) (b : RegNo) (c : RegNo)
  /-- FP32 fused multiply-add (R142). -/
  | fmaF32 (d : RegNo) (a : RegNo) (b : RegNo) (c : RegNo)
  /-- FP32 fused multiply-subtract (R142). -/
  | fmsF32 (d : RegNo) (a : RegNo) (b : RegNo) (c : RegNo)
  /-- Loads a signed byte (R157). -/
  | ldI8 (d : RegNo) (a : RegNo) (imm : BitVec 14)
  /-- Loads an unsigned byte (R157). -/
  | ldZ8 (d : RegNo) (a : RegNo) (imm : BitVec 14)
  /-- Loads a signed half-word (R157). -/
  | ldI16 (d : RegNo) (a : RegNo) (imm : BitVec 14)
  /-- Loads an unsigned half-word (R157). -/
  | ldZ16 (d : RegNo) (a : RegNo) (imm : BitVec 14)
  /-- Loads a signed word (R157). -/
  | ldI32 (d : RegNo) (a : RegNo) (imm : BitVec 14)
  /-- Loads an unsigned word (R157). -/
  | ldZ32 (d : RegNo) (a : RegNo) (imm : BitVec 14)
  /-- Loads a double-word (R157). -/
  | ldI64 (d : RegNo) (a : RegNo) (imm : BitVec 14)
  /-- Indexed load from a plus b (R157). -/
  | ldx (d : RegNo) (a : RegNo) (b : RegNo) (width : LdxWidth)
  /-- Waits at the home until the word is full, then reads it as an acquire (R159). -/
  | ldf (d : RegNo) (a : RegNo) (b : RegNo) (scope : Scope)
  /-- Waits until the word is full, reads it and sets it empty (R159). -/
  | lde (d : RegNo) (a : RegNo) (b : RegNo) (scope : Scope)
  /-- Reads and combines a word from every member of a reduce group (R165). -/
  | ldrd (d : RegNo) (a : RegNo) (b : RegNo) (op : LdrdOp)
  /-- Reads a word's full, error and state-bit status without waiting (R163). -/
  | fstat (d : RegNo) (a : RegNo) (b : RegNo)
  /-- Stores a byte (R157). -/
  | stI8 (b : RegNo) (a : RegNo) (imm : BitVec 14)
  /-- Stores a half-word (R157). -/
  | stI16 (b : RegNo) (a : RegNo) (imm : BitVec 14)
  /-- Stores a word (R157). -/
  | stI32 (b : RegNo) (a : RegNo) (imm : BitVec 14)
  /-- Stores a double-word (R157). -/
  | stI64 (b : RegNo) (a : RegNo) (imm : BitVec 14)
  /-- Atomic read-modify-write at the home returning the old value (R167). -/
  | amo (d : RegNo) (a : RegNo) (b : RegNo) (op : AmoOp) (os : BitVec 4)
  /-- Atomic update at the home with no result, counted in S (R167). -/
  | red (a : RegNo) (b : RegNo) (op : AmoOp) (os : BitVec 4)
  /-- Compare-and-swap at the home (R168). -/
  | cas (d : RegNo) (a : RegNo) (b : RegNo) (os : BitVec 4)
  /-- Writes a word and sets it full as a release (R160). -/
  | stf (a : RegNo) (b : RegNo) (scope : Scope)
  /-- Writes and fills a word only if it is empty, returning success (R161). -/
  | ste (d : RegNo) (a : RegNo) (b : RegNo) (scope : Scope)
  /-- Holds successor-set events until predecessor-set events are performed at scope (R296). -/
  | fen (pset : BitVec 6) (sset : BitVec 6) (scope : Scope)
  /-- Waits until the L, S, C and M counters fall to the given limits (R300). -/
  | wait (lcnt : BitVec 4) (scnt : BitVec 4) (ccnt : BitVec 5) (mcnt : BitVec 4)
  /-- Arrives at a barrier word and waits for its generation to complete (R203). -/
  | bar (a : RegNo)
  /-- Branches if a equals b (R144). -/
  | beq (a : RegNo) (b : RegNo) (off : BitVec 14)
  /-- Branches if a differs from b (R144). -/
  | bne (a : RegNo) (b : RegNo) (off : BitVec 14)
  /-- Branches if a is less than b signed (R144). -/
  | blt (a : RegNo) (b : RegNo) (off : BitVec 14)
  /-- Branches if a is at least b signed (R144). -/
  | bge (a : RegNo) (b : RegNo) (off : BitVec 14)
  /-- Branches if a is less than b unsigned (R144). -/
  | bltz (a : RegNo) (b : RegNo) (off : BitVec 14)
  /-- Branches if a is at least b unsigned (R144). -/
  | bgez (a : RegNo) (b : RegNo) (off : BitVec 14)
  /-- Jumps within the overlay and writes the link (R145). -/
  | jal (d : RegNo) (imm : BitVec 20)
  /-- Jumps to a register-formed code address and writes the link (R146). -/
  | jalr (d : RegNo) (a : RegNo) (imm : BitVec 14)
  /-- Creates a family from a descriptor and makes its allocation round (R196). -/
  | crt (d : RegNo) (a : RegNo)
  /-- Waits until a family has ended and returns its outcome (R199). -/
  | sync (d : RegNo) (a : RegNo)
  /-- Ends the thread and sends a break value to its family's home (R200). -/
  | brk (a : RegNo)
  /-- Gives a value to a global of a family (R197). -/
  | fput (n : BitVec 6) (a : RegNo) (b : RegNo)
  /-- Gives a value to a dependent of member 0 (R197). -/
  | fputS (n : BitVec 6) (a : RegNo) (b : RegNo)
  /-- Returns a family global (R198). -/
  | fget (d : RegNo) (a : RegNo) (n : BitVec 6)
  /-- Waits for the family to end and returns a last-member shared (R198). -/
  | fgetS (d : RegNo) (a : RegNo) (n : BitVec 6)
  /-- Waits for the family to end and returns the breaker number or end code (R198). -/
  | fgetBrk (d : RegNo) (a : RegNo)
  /-- Returns a selected thread or family property (R204). -/
  | qry (d : RegNo) (n : BitVec 6)
  /-- Enqueues a timestamped task from a continuation record (R343). -/
  | tenq (a : RegNo) (b : RegNo)
  /-- Sends a key and value to bin table 0 on the routed core (R357). -/
  | ksendB0 (a : RegNo) (b : RegNo)
  /-- Sends a key and value to bin table 1 on the routed core (R357). -/
  | ksendB1 (a : RegNo) (b : RegNo)
  /-- Sends a key and value to bin table 2 on the routed core (R357). -/
  | ksendB2 (a : RegNo) (b : RegNo)
  /-- Sends a key and value to bin table 3 on the routed core (R357). -/
  | ksendB3 (a : RegNo) (b : RegNo)
  /-- Arms a monitor-table watch on a word (R273). -/
  | wta (d : RegNo) (a : RegNo)
  /-- Takes the earliest fired watch or sleeps until one fires (R274). -/
  | wtw (d : RegNo)
  /-- Disarms the thread's watch on a word (R275). -/
  | wtd (a : RegNo)
  /-- Writes a word to every member of a multicast group (R164). -/
  | stm (a : RegNo) (b : RegNo)
  /-- Configures bin table 0 on every core of the place (R355). -/
  | rxaB0 (a : RegNo)
  /-- Configures bin table 1 on every core of the place (R355). -/
  | rxaB1 (a : RegNo)
  /-- Configures bin table 2 on every core of the place (R355). -/
  | rxaB2 (a : RegNo)
  /-- Configures bin table 3 on every core of the place (R355). -/
  | rxaB3 (a : RegNo)
  /-- Writes an engine register (R261). -/
  | ewr (e : BitVec 6) (a : RegNo)
  /-- Reads an engine register (R261). -/
  | erd (d : RegNo) (e : BitVec 6)
  /-- Binds a local register to a stream port (R268). -/
  | sbind (d : RegNo) (a : RegNo)
  /-- Unbinds a stream-bound register (R272). -/
  | sunb (d : RegNo)
  /-- Steps the slot's xorshift128+ generator into d (R279). -/
  | rnd (d : RegNo)
  /-- Issues a copy between two shape records (R262). -/
  | cpy (a : RegNo) (b : RegNo)
  /-- Issues a chain of element operations from x and y to a destination (R266). -/
  | chn (a : RegNo) (b : RegNo)
  /-- Starts loading an overlay from the caddy into an instruction memory slot (R276). -/
  | ovl (d : RegNo) (a : RegNo) (b : RegNo)
  /-- Starts a collective on the hub's collective engine (R422). -/
  | coll (a : RegNo)
  /-- Issues a dense matrix command to the core's matrix unit (R317). -/
  | mma (a : RegNo) (b : RegNo) (fmt : ProductFmt)
  /-- Issues a 2:4 structured-sparse matrix command (R331). -/
  | mmasS24 (a : RegNo) (b : RegNo) (fmt : ProductFmt)
  /-- Issues a 4:8 structured-sparse matrix command (R331). -/
  | mmasS48 (a : RegNo) (b : RegNo) (fmt : ProductFmt)
  /-- Issues one matrix command to a gang of quad cores (R320). -/
  | mmag (a : RegNo) (b : RegNo) (fmt : ProductFmt)
  /-- Sends a matrix command to another core's matrix unit (R319). -/
  | mrc (d : RegNo) (a : RegNo) (b : RegNo) (fmt : ProductFmt)
  /-- Reads accumulator rows into a tile register, optionally clearing them (R322). -/
  | macc (t : BitVec 6) (a : RegNo) (b : RegNo) (fmt : DrainFmt)
  /-- Queues a clear of the selected accumulator tiles (R323). -/
  | mclr (a : RegNo)
  /-- Drains accumulator rows to memory in a drain format (R324). -/
  | mdrn (a : RegNo) (b : RegNo) (fmt : DrainFmt)
  /-- Checks an edge descriptor and queues an edge run (R362). -/
  | edge (a : RegNo)
  /-- Multiplies a directory block row by dense B (R338). -/
  | mbs (a : RegNo) (b : RegNo) (fmt : ProductFmt)
  /-- Multiplies two directory block rows (R339). -/
  | mss (a : RegNo) (b : RegNo) (fmt : ProductFmt)
  /-- Asks the matrix unit to read ahead a directory block row (R341). -/
  | dpf (a : RegNo) (b : RegNo)
  /-- Raises cause 0x1C with detail n (R393). -/
  | trap (n : BitVec 6)
  /-- Reads a system register (R394). -/
  | sysr (d : RegNo) (n : BitVec 12)
  /-- Writes a system register that has no behaviour of its own (R394). -/
  | sysw (a : RegNo) (n : BitVec 12)
  /-- Invalidates translations package-wide and waits for engine accesses through them (R395). -/
  | tlbi (a : RegNo) (b : RegNo)
  /-- Pre-empts a context's running launches and waits for their images (R396). -/
  | ctxs (a : RegNo)
  /-- Restores a context's launches and reports the outcome (R396). -/
  | ctxr (d : RegNo) (a : RegNo)
  /-- Seals or unseals a physical core's inbound mailboxes (R397). -/
  | seal (a : RegNo)
  /-- Writes a capability table entry of a core (R397). -/
  | capw (a : RegNo) (b : RegNo)
  /-- Reads a capability table entry of a core (R397). -/
  | capr (d : RegNo) (a : RegNo)
  /-- Reads the fabric time base (R398). -/
  | tbr (d : RegNo)
  /-- Empties every instruction memory slot holding an overlay of the context (R399). -/
  | ovli (a : RegNo)
  /-- Integer tile add, wrapped (R226). -/
  | vaddInt (td : TileNo) (ta : TileNo) (tb : TileNo) (sh : ShapeNo) (mask : TileNo)
  /-- Integer tile subtract, wrapped (R226). -/
  | vsubInt (td : TileNo) (ta : TileNo) (tb : TileNo) (sh : ShapeNo) (mask : TileNo)
  /-- Integer tile multiply, wrapped (R226). -/
  | vmulInt (td : TileNo) (ta : TileNo) (tb : TileNo) (sh : ShapeNo) (mask : TileNo)
  /-- High half of the integer tile product (R226). -/
  | vmulh (td : TileNo) (ta : TileNo) (tb : TileNo) (sh : ShapeNo) (mask : TileNo)
  /-- Integer tile multiply-accumulate into td (R226). -/
  | vmacInt (td : TileNo) (ta : TileNo) (tb : TileNo) (sh : ShapeNo) (mask : TileNo)
  /-- Saturating integer tile add (R226). -/
  | vqadd (td : TileNo) (ta : TileNo) (tb : TileNo) (sh : ShapeNo) (mask : TileNo)
  /-- Saturating integer tile subtract (R226). -/
  | vqsub (td : TileNo) (ta : TileNo) (tb : TileNo) (sh : ShapeNo) (mask : TileNo)
  /-- Integer tile minimum (R226). -/
  | vminInt (td : TileNo) (ta : TileNo) (tb : TileNo) (sh : ShapeNo) (mask : TileNo)
  /-- Integer tile maximum (R226). -/
  | vmaxInt (td : TileNo) (ta : TileNo) (tb : TileNo) (sh : ShapeNo) (mask : TileNo)
  /-- Integer tile absolute value (R226). -/
  | vabsInt (td : TileNo) (ta : TileNo) (sh : ShapeNo) (mask : TileNo)
  /-- Integer tile negation (R226). -/
  | vnegInt (td : TileNo) (ta : TileNo) (sh : ShapeNo) (mask : TileNo)
  /-- Integer tile rounding average (R226). -/
  | vavg (td : TileNo) (ta : TileNo) (tb : TileNo) (sh : ShapeNo) (mask : TileNo)
  /-- Floating tile add (R227). -/
  | vaddFp (td : TileNo) (ta : TileNo) (tb : TileNo) (sh : ShapeNo) (mask : TileNo) (rf : Rf)
  /-- Floating tile subtract (R227). -/
  | vsubFp (td : TileNo) (ta : TileNo) (tb : TileNo) (sh : ShapeNo) (mask : TileNo) (rf : Rf)
  /-- Floating tile multiply (R227). -/
  | vmulFp (td : TileNo) (ta : TileNo) (tb : TileNo) (sh : ShapeNo) (mask : TileNo) (rf : Rf)
  /-- Floating tile divide (R227). -/
  | vdiv (td : TileNo) (ta : TileNo) (tb : TileNo) (sh : ShapeNo) (mask : TileNo) (rf : Rf)
  /-- Floating tile fused multiply-accumulate (R227). -/
  | vmacFp (td : TileNo) (ta : TileNo) (tb : TileNo) (sh : ShapeNo) (mask : TileNo) (rf : Rf)
  /-- Floating tile minimum (R227). -/
  | vminFp (td : TileNo) (ta : TileNo) (tb : TileNo) (sh : ShapeNo) (mask : TileNo) (rf : Rf)
  /-- Floating tile maximum (R227). -/
  | vmaxFp (td : TileNo) (ta : TileNo) (tb : TileNo) (sh : ShapeNo) (mask : TileNo) (rf : Rf)
  /-- Clears the sign bit of floating elements (R227). -/
  | vabsFp (td : TileNo) (ta : TileNo) (sh : ShapeNo) (mask : TileNo)
  /-- Inverts the sign bit of floating elements (R227). -/
  | vnegFp (td : TileNo) (ta : TileNo) (sh : ShapeNo) (mask : TileNo)
  /-- Floating tile square root (R227). -/
  | vsqrt (td : TileNo) (ta : TileNo) (sh : ShapeNo) (mask : TileNo) (rf : Rf)
  /-- Tile bitwise AND (R228). -/
  | vand (td : TileNo) (ta : TileNo) (tb : TileNo) (sh : ShapeNo) (mask : TileNo)
  /-- Tile bitwise OR (R228). -/
  | vor (td : TileNo) (ta : TileNo) (tb : TileNo) (sh : ShapeNo) (mask : TileNo)
  /-- Tile bitwise XOR (R228). -/
  | vxor (td : TileNo) (ta : TileNo) (tb : TileNo) (sh : ShapeNo) (mask : TileNo)
  /-- Tile bitwise AND NOT (R228). -/
  | vandn (td : TileNo) (ta : TileNo) (tb : TileNo) (sh : ShapeNo) (mask : TileNo)
  /-- Tile bitwise NOT (R228). -/
  | vnot (td : TileNo) (ta : TileNo) (sh : ShapeNo) (mask : TileNo)
  /-- Tile shift left (R228). -/
  | vshl (td : TileNo) (ta : TileNo) (tb : TileNo) (sh : ShapeNo) (mask : TileNo)
  /-- Tile logical shift right (R228). -/
  | vshr (td : TileNo) (ta : TileNo) (tb : TileNo) (sh : ShapeNo) (mask : TileNo)
  /-- Tile arithmetic shift right (R228). -/
  | vsar (td : TileNo) (ta : TileNo) (tb : TileNo) (sh : ShapeNo) (mask : TileNo)
  /-- Tile carry-less multiply (R228). -/
  | vclmul (td : TileNo) (ta : TileNo) (tb : TileNo) (sh : ShapeNo) (mask : TileNo)
  /-- Tile equality comparison into a mask bitmap (R229). -/
  | vceq (td : TileNo) (ta : TileNo) (tb : TileNo) (sh : ShapeNo) (mask : TileNo)
  /-- Tile less-than comparison into a mask bitmap (R229). -/
  | vclt (td : TileNo) (ta : TileNo) (tb : TileNo) (sh : ShapeNo) (mask : TileNo)
  /-- Tile less-or-equal comparison into a mask bitmap (R229). -/
  | vcle (td : TileNo) (ta : TileNo) (tb : TileNo) (sh : ShapeNo) (mask : TileNo)
  /-- Copies tile elements (R230). -/
  | vmov (td : TileNo) (ta : TileNo) (sh : ShapeNo) (mask : TileNo)
  /-- Broadcasts row 0 to every row (R230). -/
  | vbcast (td : TileNo) (ta : TileNo) (sh : ShapeNo) (mask : TileNo)
  /-- Transposes a tile (R230). -/
  | vtrn (td : TileNo) (ta : TileNo) (sh : ShapeNo) (mask : TileNo)
  /-- Permutes elements within rows by byte indices (R230). -/
  | vperm (td : TileNo) (ta : TileNo) (tb : TileNo) (sh : ShapeNo) (mask : TileNo)
  /-- Compresses selected elements to the row start (R230). -/
  | vcpr (td : TileNo) (ta : TileNo) (tb : TileNo) (sh : ShapeNo)
  /-- Expands leading elements into selected positions (R230). -/
  | vexd (td : TileNo) (ta : TileNo) (tb : TileNo) (sh : ShapeNo)
  /-- Prefix sums along rows (R231). -/
  | vscan (td : TileNo) (ta : TileNo) (sh : ShapeNo) (mask : TileNo)
  /-- Row sums into element 0 (R231). -/
  | vrsum (td : TileNo) (ta : TileNo) (sh : ShapeNo) (mask : TileNo)
  /-- Row minima into element 0 (R231). -/
  | vrmin (td : TileNo) (ta : TileNo) (sh : ShapeNo) (mask : TileNo)
  /-- Row maxima into element 0 (R231). -/
  | vrmax (td : TileNo) (ta : TileNo) (sh : ShapeNo) (mask : TileNo)
  /-- Rotates each row by a byte count (R230). -/
  | vrot (td : TileNo) (ta : TileNo) (tb : TileNo) (sh : ShapeNo) (mask : TileNo)
  /-- Loads tile rows by shape and stride (R232). -/
  | vld (td : TileNo) (b : RegNo) (sh : ShapeNo)
  /-- Stores tile rows by shape and stride (R232). -/
  | vst (td : TileNo) (b : RegNo) (sh : ShapeNo)
  /-- Gathers tile elements by 32-bit indices (R233). -/
  | vldg (td : TileNo) (ta : TileNo) (b : RegNo) (sh : ShapeNo)
  /-- Scatters tile elements by 32-bit indices (R233). -/
  | vstg (td : TileNo) (ta : TileNo) (b : RegNo) (sh : ShapeNo)
  /-- Converts tile elements between formats (R236). -/
  | vcvt (td : TileNo) (ta : TileNo) (shx : ShapeNo) (sh : ShapeNo) (mask : TileNo) (rf : Rf)
  /-- Element-wise base-2 exponential (R237). -/
  | vexp2 (td : TileNo) (ta : TileNo) (sh : ShapeNo) (mask : TileNo) (rf : Rf)
  /-- Element-wise base-2 logarithm (R237). -/
  | vlog2 (td : TileNo) (ta : TileNo) (sh : ShapeNo) (mask : TileNo) (rf : Rf)
  /-- Element-wise reciprocal estimate (R237). -/
  | vrcp (td : TileNo) (ta : TileNo) (sh : ShapeNo) (mask : TileNo) (rf : Rf)
  /-- Element-wise reciprocal square root estimate (R237). -/
  | vrsq (td : TileNo) (ta : TileNo) (sh : ShapeNo) (mask : TileNo) (rf : Rf)
  /-- Element-wise reciprocal refinement step (R237). -/
  | vrcps (td : TileNo) (ta : TileNo) (tb : TileNo) (sh : ShapeNo) (mask : TileNo) (rf : Rf)
  /-- Element-wise reciprocal square root refinement step (R237). -/
  | vrsqs (td : TileNo) (ta : TileNo) (tb : TileNo) (sh : ShapeNo) (mask : TileNo) (rf : Rf)
  /-- Fills live elements with random bits (R238). -/
  | vrnd (td : TileNo) (sh : ShapeNo) (mask : TileNo)
  /-- Zeroes live elements and clears the poison bit (R239). -/
  | vclr (td : TileNo) (sh : ShapeNo) (mask : TileNo)
  /-- Counts one bits of each integer element (R239). -/
  | vpop (td : TileNo) (ta : TileNo) (sh : ShapeNo) (mask : TileNo)
  /-- Requests a shape and writes the grant (R222). -/
  | vsh (d : RegNo) (a : RegNo) (sh : ShapeNo) (fmt : Fmt)
  /-- Reads a shape register and device maxima (R224). -/
  | vshq (d : RegNo) (sh : ShapeNo)
  /-- Builds a rectangular mask bitmap (R225). -/
  | vmsk (td : TileNo) (b : RegNo) (sh : ShapeNo)
  /-- Adds a scalar to each element (R240). -/
  | vadds (td : TileNo) (ta : TileNo) (b : RegNo) (sh : ShapeNo) (rf : Rf)
  /-- Subtracts a scalar from each element (R240). -/
  | vsubs (td : TileNo) (ta : TileNo) (b : RegNo) (sh : ShapeNo) (rf : Rf)
  /-- Multiplies each element by a scalar (R240). -/
  | vmuls (td : TileNo) (ta : TileNo) (b : RegNo) (sh : ShapeNo) (rf : Rf)
  /-- Element-wise minimum with a scalar (R240). -/
  | vmins (td : TileNo) (ta : TileNo) (b : RegNo) (sh : ShapeNo) (rf : Rf)
  /-- Element-wise maximum with a scalar (R240). -/
  | vmaxs (td : TileNo) (ta : TileNo) (b : RegNo) (sh : ShapeNo) (rf : Rf)
  /-- Writes a scalar to every granted element (R240). -/
  | vsplat (td : TileNo) (b : RegNo) (sh : ShapeNo)
  /-- Extracts element (0,0) into a scalar register (R240). -/
  | vext (ta : TileNo) (d : RegNo) (sh : ShapeNo)
  /-- Inserts a scalar into element (0,0) (R240). -/
  | vins (td : TileNo) (b : RegNo) (sh : ShapeNo)
  /-- Hint with no effect (R57). -/
  | nop (x : BitVec 26)
  /-- Hint that loads an overlay into a free slot when the conditions hold (R57). -/
  | ovlh (x : BitVec 26)
  /-- Unimplemented destination hint: writes zero full to an s or l register, else nothing (R57). -/
  | hintDest (hi : BitVec 1) (d : RegNo) (x : BitVec 20)
  /-- Waits for counters and child families, then ends the thread as a release (R201). -/
  | exit
  /-- Gives up issue until other ready threads have had a turn (R202). -/
  | yield
  /-- Ends a task's thread, leaving it uncommitted (R353). -/
  | texit
  /-- Waits until the task is non-speculative, or until the thread's tasks have committed (R352). -/
  | tirr
  /-- Ends the trap delivery, resuming or ending the held thread (R384). -/
  | eret
  /-- Stops the control core until a reset or kernel restart (R398). -/
  | halt
  /-- Suspends the control-core thread until its event queue is nonempty (R398). -/
  | idle
  /-- Records the thread's shape point (R223). -/
  | vsp
  /-- A delayed result is written full to its destination and the counter falls (R126). -/
  | resultArrival
  /-- A write is performed at its home (R294). -/
  | writeAtHome
  /-- A full/empty access reaches its home and waiting requests are served in arrival order (R162). -/
  | feAccessAtHome
  /-- A home with no room returns a waiting request, which the core resends (R162). -/
  | feRequestBounce
  /-- An atomic, red or cas is performed indivisibly at its home (R170). -/
  | atomicAtHome
  /-- A barrier arrival updates the word and a completing arrival releases waiters (R203). -/
  | barArrivalAtHome
  /-- A core of the place claims a chunk of members from the home (R190). -/
  | chunkClaim
  /-- A core starts the next member of its chunk once resources are free (R191). -/
  | memberStart
  /-- The 20-bit thread counter wraps and the epoch seed is jumped by 2^84 steps (R278). -/
  | epochAdvance
  /-- A shared write arrives as a register message and fills the successor's dependent (R181). -/
  | sharedDelivery
  /-- An unplaced fold-capable family runs its members in the creator's slot (R192). -/
  | fold
  /-- The first break reaching the home stops chunk handout and kills unfinished members (R200). -/
  | breakAtHome
  /-- A copy or chain element write is performed, setting words full (R262). -/
  | copyElementWrite
  /-- A copy or chain command finishes, resetting PROGRESS and lowering C (R262). -/
  | copyComplete
  /-- A copy or chain access fails; the command stops, later commands drop and a trap is delivered (R265). -/
  | engineFaultStop
  /-- An input port's fetched element arrives for its reader (R269). -/
  | streamElementArrival
  /-- An overlay load ends; the hash check makes the slot valid or invalid and quarantines on failure (R276). -/
  | overlayLoadComplete
  /-- A matrix command that travelled over the mesh enters the queue and its uncommitted rows become empty (R303). -/
  | matrixCommandAccept
  /-- A computed accumulator row is committed whole and set full (R310). -/
  | matrixRowCommit
  /-- A committed row is drained to memory (R312). -/
  | matrixRowDrain
  /-- A row handler starts in slot 29 or 30 for a committed row (R315). -/
  | rowHandlerStart
  /-- A matrix command completes, its flags joining the issuer's and M falling (R310). -/
  | matrixCommandComplete
  /-- A matrix command stops at a row boundary with its progress recorded (R313). -/
  | matrixCommandStop
  /-- A task record is accepted into a queue and given its key (R344). -/
  | taskAccept
  /-- A core starts the least-keyed reachable queued task (R345). -/
  | taskStart
  /-- A conflicting task and its descendants are rolled back and requeued (R348). -/
  | taskAbort
  /-- A task becomes non-speculative and its buffered stores are performed (R350). -/
  | taskNonspeculative
  /-- A non-speculative exited task commits in key order (R350). -/
  | taskCommit
  /-- The receive-and-accumulate unit applies a keyed send to its bin (R357). -/
  | ksendBinStep
  /-- A core takes a bin table configuration (R355). -/
  | rxaConfigTake
  /-- An edge run starts once no other run holds a core of its place (R362). -/
  | edgeRunStart
  /-- The engine starts a scatter, combine or apply thread when resources allow (R361). -/
  | edgeHandlerStart
  /-- A message is combined into a destination's acc (R365). -/
  | edgeCombine
  /-- After every scatter and combine ends, applies start for received vertices (R363). -/
  | edgeApplyPhase
  /-- After every apply ends, results are stored, frontiers swapped, counts measured and the log written (R363). -/
  | edgeRoundEnd
  /-- An edge run stops on a fault and reports under the engine rules (R368). -/
  | edgeRunStop
  /-- A collective signal word is filled once its range is performed (R423). -/
  | collSignal
  /-- A collective ends, writing its status word and lowering C (R422). -/
  | collComplete
  /-- A queued trap delivery starts the handler in slot 31 (R383). -/
  | trapDelivery
  /-- The arbiter copies a submitted record, checks it, writes the status and empties the port (R373). -/
  | launchRecordCopy
  /-- An eligible launch is given a free place and its root family is made (R378). -/
  | launchStart
  /-- A launch's cores are stopped and its save image written (R387). -/
  | launchPreempt
  /-- A pre-empted launch is restored from its image when its place is free (R391). -/
  | launchRestore
  /-- The root family has ended. -/
  | launchEnd
  /-- A gang-miss message makes every device abandon the gang launch (R379). -/
  | gangMiss
  /-- A residue, parity or duplicate checker disagrees and the unit reacts (R400). -/
  | checkerMismatch
  /-- A reporting site counts an error event in its window (R401). -/
  | errorEvent
  /-- A site's fourth event in a window makes its fault lasting and is acted on (R402). -/
  | lastingFault
  /-- A site's error window ends and its count returns to zero (R401). -/
  | errorWindowExpiry
  /-- Background scrubbing reads and corrects a word or line (R403). -/
  | scrub
  /-- A core is killed, its threads killed and its mailboxes sealed (R407). -/
  | coreKill
  /-- A message meeting a sealed core is answered in place of its data (R408). -/
  | sealedMailboxReply
  /-- The kernel replays a home's parked requests in arrival order (R412). -/
  | parkedQueueReplay
  /-- The kernel discards a parked request, poisoning or making it indeterminate (R412). -/
  | parkedRequestDiscard
  /-- A tagged remote request unanswered after 2 microseconds is retried, ending indeterminate after eight retries (R413). -/
  | retryTimeout
  /-- A home's tag window entry ages past 32 microseconds and may be reused (R413). -/
  | tagEntryExpiry
  /-- A flit is received, corrected, CRC-checked and acknowledged or replayed (R411). -/
  | flitReceive
  /-- Eight consecutive replays make the port retrain, or go down on failure (R411). -/
  | portRetrain
  /-- Each 1 ms window's margin predictions may step the port down a rung (R411). -/
  | eyeMarginWindow
  /-- Ten quiet minutes step the port up one rung (R411). -/
  | rateUpTimeout
  /-- A timing message slews the time base toward the master (R420). -/
  | timebaseSync
  /-- Measured power lowers or restores the arithmetic clock by 25 MHz (R23). -/
  | powerClockStep
  /-- The boot ROM starts, counts the start and awaits a stage-1 image or enters minimal mode (R424). -/
  | powerOnReset
  /-- The host's length write ends the boot wait and starts image verification (R425). -/
  | bootDoorbell
  /-- No stage-1 image within 60 s fails the start with reason 0x01 (R427). -/
  | bootImageTimeout
  /-- No kernel completion within 30 s fails the start with reason 0x06 (R427). -/
  | kernelCompletionTimeout
  /-- Message port command 0x01 checks and loads an NKI file (R416). -/
  | loadImage
  /-- Command 0x02 creates a context and returns its number and launch port (R416). -/
  | createContext
  /-- Command 0x03 ends a context with no running launches (R416). -/
  | endContext
  /-- Command 0x04 submits a launch record to the arbiter (R416). -/
  | submitLaunch
  /-- Command 0x05 maps a range of pages (R416). -/
  | mapPages
  /-- Command 0x06 unmaps pages with a tlbi per page (R416). -/
  | unmapPages
  /-- Command 0x07 writes a signed attestation report (R429). -/
  | attest
  /-- Command 0x08 writes and checks a kernel slot image (R431). -/
  | writeKernelSlot
  /-- Command 0x09 hands over the control cores to a kernel slot (R431). -/
  | restartKernel
  /-- A new kernel that does not adopt within 2 s is replaced by the old slot (R431). -/
  | handoverTimeout
  /-- An unallocated opcode completes with status 7 and no effect (R416). -/
  | unknownCommand
  /-- The host frees event ring room and held events are posted (R417). -/
  | eventHeadDoorbell
  /-- A host access through BAR 2 reaches GDDR 7 (R414); an empty data list is a read. -/
  | hostBar2Access
  /-- A host PCIe AtomicOp is performed on device memory (R414). -/
  | hostAtomic
  /-- A management command sets the power limit (R430). -/
  | mgmtPowerLimit
  /-- A management command steps a port up one rung (R411). -/
  | mgmtLinkRateUp
  /-- An out-of-band management reset (R430). -/
  | mgmtReset
  /-- A management command clears the start counter (R424). -/
  | mgmtStartCounterClear
  /-- A management request returns telemetry and logs (R430). -/
  | mgmtTelemetry
  /-- A write of ERRWIN restarts every site's window with zero counts (R438). -/
  | errwinWrite
  /-- A write of CTXCFG propagates to every core of the context (R444). -/
  | ctxcfgWrite
  /-- A seed write sets the epoch seed and zeroes the thread counter (R278). -/
  | seedWrite
  /-- A handler write of a held thread's window register sets it full and unpoisoned (R394). -/
  | heldWindowWrite
  /-- A handler write of a held thread's engine register acts as ewr (R394). -/
  | heldEngineWrite
  /-- A fetched word that is not an instruction raises the precise illegal-instruction trap 0x01 (R56). -/
  | illegalInstruction
  /-- A fetch whose PC overlay matches no slot raises 0x0C, or 0x0D when the matching slot is invalid (R89). -/
  | overlayMiss
  /-- A value given by fput or fput.s arrives at a core holding the family and fills the globals or member 0's dependents (R197). -/
  | globalDelivery
  /-- When the time base reaches a gang launch's start tick and this device cannot start its share, it sends a gang-miss message to the group (R379). -/
  | gangStartTick
deriving DecidableEq, Repr

end Sys2Proof
end

