-- ==== Sys2Proof/WellFormed.lean ====
section
/-! DEFINITION. Well-formed instructions: the conditions the encodings put on the operands beyond the widths of their
fields (R49 to R87), so that every well-formed word instruction has exactly one word. The steps that are no instruction
have no encoding: `Instr.isWord` tells the two apart, and `Instr.wf` holds of word instructions only. -/
namespace Sys2Proof

/-- RF codes allocated for the estimates and the special functions: 0b000, 0b110, 0b111 (R121, R237). -/
def Rf.isEstimate : Rf → Bool
  | .rne | .fz | .nf => true
  | .rtz | .rup | .rdn | .rmm | .rsr => false

/-- The constructor is an instruction word of R48, not one of the table's further steps. -/
def Instr.isWord : Instr → Bool
  | .add _ _ _ => true
  | .sub _ _ _ => true
  | .and _ _ _ => true
  | .or _ _ _ => true
  | .xor _ _ _ => true
  | .andn _ _ _ => true
  | .orn _ _ _ => true
  | .xnor _ _ _ => true
  | .shl _ _ _ => true
  | .shr _ _ _ => true
  | .sar _ _ _ => true
  | .rol _ _ _ => true
  | .ror _ _ _ => true
  | .slt _ _ _ => true
  | .sltz _ _ _ => true
  | .seq _ _ _ => true
  | .sne _ _ _ => true
  | .min _ _ _ => true
  | .max _ _ _ => true
  | .minz _ _ _ => true
  | .maxz _ _ _ => true
  | .qadd _ _ _ => true
  | .qaddz _ _ _ => true
  | .qsub _ _ _ => true
  | .qsubz _ _ _ => true
  | .abs _ _ => true
  | .sextI8 _ _ => true
  | .sextI16 _ _ => true
  | .sextI32 _ _ => true
  | .zextZ8 _ _ => true
  | .zextZ16 _ _ => true
  | .zextZ32 _ _ => true
  | .addi _ _ _ => true
  | .andi _ _ _ => true
  | .ori _ _ _ => true
  | .xori _ _ _ => true
  | .shli _ _ _ => true
  | .shri _ _ _ => true
  | .sari _ _ _ => true
  | .rori _ _ _ => true
  | .slti _ _ _ => true
  | .lih _ _ => true
  | .pcadd _ _ => true
  | .mul _ _ _ => true
  | .mulh _ _ _ => true
  | .mulhz _ _ _ => true
  | .div _ _ _ => true
  | .divz _ _ _ => true
  | .rem _ _ _ => true
  | .remz _ _ _ => true
  | .clmul _ _ _ => true
  | .clmulh _ _ _ => true
  | .pop _ _ => true
  | .clz _ _ => true
  | .ctz _ _ => true
  | .bext _ _ _ => true
  | .bins _ _ _ => true
  | .sel _ _ _ => true
  | .brev _ _ => true
  | .bswap _ _ => true
  | .fadd _ _ _ _ _ => true
  | .fsub _ _ _ _ _ => true
  | .fmul _ _ _ _ _ => true
  | .fdiv _ _ _ _ _ => true
  | .frcps _ _ _ _ _ => true
  | .frsqs _ _ _ _ _ => true
  | .fmin _ _ _ _ => true
  | .fmax _ _ _ _ => true
  | .fsgnj _ _ _ _ => true
  | .fsgnjn _ _ _ _ => true
  | .fsgnjx _ _ _ _ => true
  | .feq _ _ _ _ => true
  | .flt _ _ _ _ => true
  | .fle _ _ _ _ => true
  | .fsqrt _ _ _ _ => true
  | .frcp _ _ _ _ => true
  | .frsq _ _ _ _ => true
  | .fclass _ _ _ => true
  | .fcvt _ _ _ _ _ => true
  | .fcvti _ _ _ _ _ => true
  | .icvtf _ _ _ _ _ => true
  | .fmaF64 _ _ _ _ => true
  | .fmsF64 _ _ _ _ => true
  | .fmaF32 _ _ _ _ => true
  | .fmsF32 _ _ _ _ => true
  | .ldI8 _ _ _ => true
  | .ldZ8 _ _ _ => true
  | .ldI16 _ _ _ => true
  | .ldZ16 _ _ _ => true
  | .ldI32 _ _ _ => true
  | .ldZ32 _ _ _ => true
  | .ldI64 _ _ _ => true
  | .ldx _ _ _ _ => true
  | .ldf _ _ _ _ => true
  | .lde _ _ _ _ => true
  | .ldrd _ _ _ _ => true
  | .fstat _ _ _ => true
  | .stI8 _ _ _ => true
  | .stI16 _ _ _ => true
  | .stI32 _ _ _ => true
  | .stI64 _ _ _ => true
  | .amo _ _ _ _ _ => true
  | .red _ _ _ _ => true
  | .cas _ _ _ _ => true
  | .stf _ _ _ => true
  | .ste _ _ _ _ => true
  | .fen _ _ _ => true
  | .wait _ _ _ _ => true
  | .bar _ => true
  | .beq _ _ _ => true
  | .bne _ _ _ => true
  | .blt _ _ _ => true
  | .bge _ _ _ => true
  | .bltz _ _ _ => true
  | .bgez _ _ _ => true
  | .jal _ _ => true
  | .jalr _ _ _ => true
  | .crt _ _ => true
  | .sync _ _ => true
  | .brk _ => true
  | .fput _ _ _ => true
  | .fputS _ _ _ => true
  | .fget _ _ _ => true
  | .fgetS _ _ _ => true
  | .fgetBrk _ _ => true
  | .exit => true
  | .yield => true
  | .qry _ _ => true
  | .tenq _ _ => true
  | .texit => true
  | .tirr => true
  | .ksendB0 _ _ => true
  | .ksendB1 _ _ => true
  | .ksendB2 _ _ => true
  | .ksendB3 _ _ => true
  | .wta _ _ => true
  | .wtw _ => true
  | .wtd _ => true
  | .stm _ _ => true
  | .rxaB0 _ => true
  | .rxaB1 _ => true
  | .rxaB2 _ => true
  | .rxaB3 _ => true
  | .ewr _ _ => true
  | .erd _ _ => true
  | .sbind _ _ => true
  | .sunb _ => true
  | .rnd _ => true
  | .cpy _ _ => true
  | .chn _ _ => true
  | .ovl _ _ _ => true
  | .coll _ => true
  | .mma _ _ _ => true
  | .mmasS24 _ _ _ => true
  | .mmasS48 _ _ _ => true
  | .mmag _ _ _ => true
  | .mrc _ _ _ _ => true
  | .macc _ _ _ _ => true
  | .mclr _ => true
  | .mdrn _ _ _ => true
  | .edge _ => true
  | .mbs _ _ _ => true
  | .mss _ _ _ => true
  | .dpf _ _ => true
  | .trap _ => true
  | .eret => true
  | .sysr _ _ => true
  | .sysw _ _ => true
  | .tlbi _ _ => true
  | .halt => true
  | .ctxs _ => true
  | .ctxr _ _ => true
  | .seal _ => true
  | .capw _ _ => true
  | .capr _ _ => true
  | .tbr _ => true
  | .idle => true
  | .ovli _ => true
  | .vaddInt _ _ _ _ _ => true
  | .vsubInt _ _ _ _ _ => true
  | .vmulInt _ _ _ _ _ => true
  | .vmulh _ _ _ _ _ => true
  | .vmacInt _ _ _ _ _ => true
  | .vqadd _ _ _ _ _ => true
  | .vqsub _ _ _ _ _ => true
  | .vminInt _ _ _ _ _ => true
  | .vmaxInt _ _ _ _ _ => true
  | .vabsInt _ _ _ _ => true
  | .vnegInt _ _ _ _ => true
  | .vavg _ _ _ _ _ => true
  | .vaddFp _ _ _ _ _ _ => true
  | .vsubFp _ _ _ _ _ _ => true
  | .vmulFp _ _ _ _ _ _ => true
  | .vdiv _ _ _ _ _ _ => true
  | .vmacFp _ _ _ _ _ _ => true
  | .vminFp _ _ _ _ _ _ => true
  | .vmaxFp _ _ _ _ _ _ => true
  | .vabsFp _ _ _ _ => true
  | .vnegFp _ _ _ _ => true
  | .vsqrt _ _ _ _ _ => true
  | .vand _ _ _ _ _ => true
  | .vor _ _ _ _ _ => true
  | .vxor _ _ _ _ _ => true
  | .vandn _ _ _ _ _ => true
  | .vnot _ _ _ _ => true
  | .vshl _ _ _ _ _ => true
  | .vshr _ _ _ _ _ => true
  | .vsar _ _ _ _ _ => true
  | .vclmul _ _ _ _ _ => true
  | .vceq _ _ _ _ _ => true
  | .vclt _ _ _ _ _ => true
  | .vcle _ _ _ _ _ => true
  | .vmov _ _ _ _ => true
  | .vbcast _ _ _ _ => true
  | .vtrn _ _ _ _ => true
  | .vperm _ _ _ _ _ => true
  | .vcpr _ _ _ _ => true
  | .vexd _ _ _ _ => true
  | .vscan _ _ _ _ => true
  | .vrsum _ _ _ _ => true
  | .vrmin _ _ _ _ => true
  | .vrmax _ _ _ _ => true
  | .vrot _ _ _ _ _ => true
  | .vld _ _ _ => true
  | .vst _ _ _ => true
  | .vldg _ _ _ _ => true
  | .vstg _ _ _ _ => true
  | .vcvt _ _ _ _ _ _ => true
  | .vexp2 _ _ _ _ _ => true
  | .vlog2 _ _ _ _ _ => true
  | .vrcp _ _ _ _ _ => true
  | .vrsq _ _ _ _ _ => true
  | .vrcps _ _ _ _ _ _ => true
  | .vrsqs _ _ _ _ _ _ => true
  | .vrnd _ _ _ => true
  | .vclr _ _ _ => true
  | .vpop _ _ _ _ => true
  | .vsh _ _ _ _ => true
  | .vsp => true
  | .vshq _ _ => true
  | .vmsk _ _ _ => true
  | .vadds _ _ _ _ _ => true
  | .vsubs _ _ _ _ _ => true
  | .vmuls _ _ _ _ _ => true
  | .vmins _ _ _ _ _ => true
  | .vmaxs _ _ _ _ _ => true
  | .vsplat _ _ _ => true
  | .vext _ _ _ => true
  | .vins _ _ _ => true
  | .nop _ => true
  | .ovlh _ => true
  | .hintDest _ _ _ => true
  | .resultArrival => false
  | .writeAtHome => false
  | .feAccessAtHome => false
  | .feRequestBounce => false
  | .atomicAtHome => false
  | .barArrivalAtHome => false
  | .chunkClaim => false
  | .memberStart => false
  | .epochAdvance => false
  | .sharedDelivery => false
  | .fold => false
  | .breakAtHome => false
  | .copyElementWrite => false
  | .copyComplete => false
  | .engineFaultStop => false
  | .streamElementArrival => false
  | .overlayLoadComplete => false
  | .matrixCommandAccept => false
  | .matrixRowCommit => false
  | .matrixRowDrain => false
  | .rowHandlerStart => false
  | .matrixCommandComplete => false
  | .matrixCommandStop => false
  | .taskAccept => false
  | .taskStart => false
  | .taskAbort => false
  | .taskNonspeculative => false
  | .taskCommit => false
  | .ksendBinStep => false
  | .rxaConfigTake => false
  | .edgeRunStart => false
  | .edgeHandlerStart => false
  | .edgeCombine => false
  | .edgeApplyPhase => false
  | .edgeRoundEnd => false
  | .edgeRunStop => false
  | .collSignal => false
  | .collComplete => false
  | .trapDelivery => false
  | .launchRecordCopy => false
  | .launchStart => false
  | .launchPreempt => false
  | .launchRestore => false
  | .launchEnd => false
  | .gangMiss => false
  | .checkerMismatch => false
  | .errorEvent => false
  | .lastingFault => false
  | .errorWindowExpiry => false
  | .scrub => false
  | .coreKill => false
  | .sealedMailboxReply => false
  | .parkedQueueReplay => false
  | .parkedRequestDiscard => false
  | .retryTimeout => false
  | .tagEntryExpiry => false
  | .flitReceive => false
  | .portRetrain => false
  | .eyeMarginWindow => false
  | .rateUpTimeout => false
  | .timebaseSync => false
  | .powerClockStep => false
  | .powerOnReset => false
  | .bootDoorbell => false
  | .bootImageTimeout => false
  | .kernelCompletionTimeout => false
  | .loadImage => false
  | .createContext => false
  | .endContext => false
  | .submitLaunch => false
  | .mapPages => false
  | .unmapPages => false
  | .attest => false
  | .writeKernelSlot => false
  | .restartKernel => false
  | .handoverTimeout => false
  | .unknownCommand => false
  | .eventHeadDoorbell => false
  | .hostBar2Access => false
  | .hostAtomic => false
  | .mgmtPowerLimit => false
  | .mgmtLinkRateUp => false
  | .mgmtReset => false
  | .mgmtStartCounterClear => false
  | .mgmtTelemetry => false
  | .errwinWrite => false
  | .ctxcfgWrite => false
  | .seedWrite => false
  | .heldWindowWrite => false
  | .heldEngineWrite => false
  | .illegalInstruction => false
  | .overlayMiss => false
  | .globalDelivery => false
  | .gangStartTick => false

/-- The operand conditions of the encodings: `amo` with destination z is the `red` with the same operation (R72); the
restricted RF codes (R121, R237); an n of 63 in fput and fget is no instruction (R75); the selectors of qry end at
0x0E (R204); engine register numbers end at 31 (R78); tile numbers of macc end at 15 (R80); vcpr and vexd have no mask
(R217), which their syntax does not hold. -/
def Instr.operandsOk : Instr → Bool
  | .amo d _ _ _ _ => d != 0
  | .frcp _ _ rf _ => rf.isEstimate
  | .frsq _ _ rf _ => rf.isEstimate
  | .vexp2 _ _ _ _ rf => rf.isEstimate
  | .vlog2 _ _ _ _ rf => rf.isEstimate
  | .vrcp _ _ _ _ rf => rf.isEstimate
  | .vrsq _ _ _ _ rf => rf.isEstimate
  | .fput n _ _ => n != 63
  | .fputS n _ _ => n != 63
  | .fget _ _ n => n != 63
  | .fgetS _ _ n => n != 63
  | .qry _ n => decide (n.toNat ≤ 14)
  | .ewr e _ => decide (e.toNat < 32)
  | .erd _ e => decide (e.toNat < 32)
  | .macc t _ _ _ => decide (t.toNat < 16)
  | _ => true

/-- A well-formed instruction word. -/
def Instr.wf (i : Instr) : Bool := i.isWord && i.operandsOk

end Sys2Proof
end

