-- ==== Sys2Proof/Decode.lean ====
section
/-! DEFINITION. Decoding of instruction words (R48 to R87), total, with each refusal named, and the encoder of
well-formed instructions written from the same tables. A word that is not an instruction raises the illegal-instruction
trap 0x01 when it is executed (R51, R56); the hint majors never refuse (R57). -/
namespace Sys2Proof

/-- Why a word is not an instruction. -/
inductive DecodeError where
  /-- fewer than four bytes were given -/
  | truncated
  /-- a reserved major opcode (R55, R56) -/
  | reservedMajor (maj : Nat)
  /-- major 0x3F (R56) -/
  | permanentlyIllegal
  /-- a function, selector, group or unary code not allocated (R56) -/
  | unallocated (maj : Nat) (code : Nat)
  /-- a field that must hold zero does not (R51) -/
  | nonzeroField (maj : Nat)
  /-- a reserved scope code (R60) -/
  | reservedScope
  /-- a rounding code that the instruction does not allocate (R121) -/
  | reservedRf
  /-- a format code outside the instruction's column (R58, R80) -/
  | reservedFormat
  /-- an immediate or a number that the instruction excludes (R75, R78, R80, R204) -/
  | excludedNumber
deriving DecidableEq, Repr

/-- The code of a Fmt (R58). -/
def Fmt.code : Fmt → BitVec 5
  | .i8 => 0
  | .z8 => 1
  | .i16 => 2
  | .z16 => 3
  | .i32 => 4
  | .z32 => 5
  | .i64 => 6
  | .z64 => 7
  | .i4 => 8
  | .z4 => 9
  | .f64 => 10
  | .f32 => 11
  | .f16 => 12
  | .bf16 => 13
  | .e4m3 => 14
  | .e5m2 => 15
  | .e3m2 => 16
  | .e2m3 => 17
  | .e2m1 => 18

/-- The Fmt of a code, none where the code is not allocated (R58). -/
def Fmt.ofCode (c : BitVec 5) : Option Fmt :=
  match c.toNat with
  | 0 => some .i8
  | 1 => some .z8
  | 2 => some .i16
  | 3 => some .z16
  | 4 => some .i32
  | 5 => some .z32
  | 6 => some .i64
  | 7 => some .z64
  | 8 => some .i4
  | 9 => some .z4
  | 10 => some .f64
  | 11 => some .f32
  | 12 => some .f16
  | 13 => some .bf16
  | 14 => some .e4m3
  | 15 => some .e5m2
  | 16 => some .e3m2
  | 17 => some .e2m3
  | 18 => some .e2m1
  | _ => none

/-- The code of a Rf (R59). -/
def Rf.code : Rf → BitVec 3
  | .rne => 0
  | .rtz => 1
  | .rup => 2
  | .rdn => 3
  | .rmm => 4
  | .rsr => 5
  | .fz => 6
  | .nf => 7

/-- The Rf of a code, none where the code is not allocated (R59). -/
def Rf.ofCode (c : BitVec 3) : Option Rf :=
  match c.toNat with
  | 0 => some .rne
  | 1 => some .rtz
  | 2 => some .rup
  | 3 => some .rdn
  | 4 => some .rmm
  | 5 => some .rsr
  | 6 => some .fz
  | 7 => some .nf
  | _ => none

/-- The code of a Fmt2 (R67). -/
def Fmt2.code : Fmt2 → BitVec 2
  | .f64 => 0
  | .f32 => 1
  | .f16 => 2
  | .bf16 => 3

/-- The Fmt2 of a code, none where the code is not allocated (R67). -/
def Fmt2.ofCode (c : BitVec 2) : Option Fmt2 :=
  match c.toNat with
  | 0 => some .f64
  | 1 => some .f32
  | 2 => some .f16
  | 3 => some .bf16
  | _ => none

/-- The code of a FcvtTo (R68). -/
def FcvtTo.code : FcvtTo → BitVec 6
  | .f64 => 4
  | .f32 => 5
  | .f16 => 6
  | .bf16 => 7
  | .e4m3 => 8
  | .e5m2 => 9
  | .e3m2 => 10
  | .e2m3 => 11
  | .e2m1 => 12

/-- The FcvtTo of a code, none where the code is not allocated (R68). -/
def FcvtTo.ofCode (c : BitVec 6) : Option FcvtTo :=
  match c.toNat with
  | 4 => some .f64
  | 5 => some .f32
  | 6 => some .f16
  | 7 => some .bf16
  | 8 => some .e4m3
  | 9 => some .e5m2
  | 10 => some .e3m2
  | 11 => some .e2m3
  | 12 => some .e2m1
  | _ => none

/-- The code of a IntTo (R68). -/
def IntTo.code : IntTo → BitVec 2
  | .i32 => 0
  | .i64 => 1
  | .z32 => 2
  | .z64 => 3

/-- The IntTo of a code, none where the code is not allocated (R68). -/
def IntTo.ofCode (c : BitVec 2) : Option IntTo :=
  match c.toNat with
  | 0 => some .i32
  | 1 => some .i64
  | 2 => some .z32
  | 3 => some .z64
  | _ => none

/-- The code of a LdxWidth (R71). -/
def LdxWidth.code : LdxWidth → BitVec 3
  | .i8 => 0
  | .z8 => 1
  | .i16 => 2
  | .z16 => 3
  | .i32 => 4
  | .z32 => 5
  | .i64 => 6

/-- The LdxWidth of a code, none where the code is not allocated (R71). -/
def LdxWidth.ofCode (c : BitVec 3) : Option LdxWidth :=
  match c.toNat with
  | 0 => some .i8
  | 1 => some .z8
  | 2 => some .i16
  | 3 => some .z16
  | 4 => some .i32
  | 5 => some .z32
  | 6 => some .i64
  | _ => none

/-- The code of a Scope (R60). -/
def Scope.code : Scope → BitVec 3
  | .thread => 0
  | .core => 1
  | .clus => 2
  | .die => 3
  | .pkg => 4
  | .fab => 5

/-- The Scope of a code, none where the code is not allocated (R60). -/
def Scope.ofCode (c : BitVec 3) : Option Scope :=
  match c.toNat with
  | 0 => some .thread
  | 1 => some .core
  | 2 => some .clus
  | 3 => some .die
  | 4 => some .pkg
  | 5 => some .fab
  | _ => none

/-- The code of a LdrdOp (R71). -/
def LdrdOp.code : LdrdOp → BitVec 3
  | .addI64 => 0
  | .minI64 => 1
  | .maxI64 => 2
  | .addF64 => 3
  | .minF64 => 4
  | .maxF64 => 5

/-- The LdrdOp of a code, none where the code is not allocated (R71). -/
def LdrdOp.ofCode (c : BitVec 3) : Option LdrdOp :=
  match c.toNat with
  | 0 => some .addI64
  | 1 => some .minI64
  | 2 => some .maxI64
  | 3 => some .addF64
  | 4 => some .minF64
  | 5 => some .maxF64
  | _ => none

/-- The code of a AmoOp (R167). -/
def AmoOp.code : AmoOp → BitVec 4
  | .add => 0
  | .and => 1
  | .or => 2
  | .xor => 3
  | .min => 4
  | .max => 5
  | .minz => 6
  | .maxz => 7
  | .swap => 8
  | .fadd32 => 9
  | .fadd64 => 10
  | .badd16 => 11
  | .fmin => 12
  | .fmax => 13

/-- The AmoOp of a code, none where the code is not allocated (R167). -/
def AmoOp.ofCode (c : BitVec 4) : Option AmoOp :=
  match c.toNat with
  | 0 => some .add
  | 1 => some .and
  | 2 => some .or
  | 3 => some .xor
  | 4 => some .min
  | 5 => some .max
  | 6 => some .minz
  | 7 => some .maxz
  | 8 => some .swap
  | 9 => some .fadd32
  | 10 => some .fadd64
  | 11 => some .badd16
  | 12 => some .fmin
  | 13 => some .fmax
  | _ => none

/-- The element format of a ProductFmt (R80). -/
def ProductFmt.toFmt : ProductFmt → Fmt
  | .bf16 => .bf16
  | .f16 => .f16
  | .e4m3 => .e4m3
  | .e5m2 => .e5m2
  | .e3m2 => .e3m2
  | .e2m3 => .e2m3
  | .e2m1 => .e2m1
  | .i8 => .i8
  | .z8 => .z8

/-- The code of a ProductFmt (R80, R58). -/
def ProductFmt.code (f : ProductFmt) : BitVec 5 := f.toFmt.code

/-- The ProductFmt of a code, none outside its column (R80). -/
def ProductFmt.ofCode (c : BitVec 5) : Option ProductFmt :=
  match c.toNat with
  | 13 => some .bf16
  | 12 => some .f16
  | 14 => some .e4m3
  | 15 => some .e5m2
  | 16 => some .e3m2
  | 17 => some .e2m3
  | 18 => some .e2m1
  | 0 => some .i8
  | 1 => some .z8
  | _ => none

/-- The element format of a DrainFmt (R80). -/
def DrainFmt.toFmt : DrainFmt → Fmt
  | .f32 => .f32
  | .f16 => .f16
  | .bf16 => .bf16
  | .e4m3 => .e4m3
  | .e5m2 => .e5m2
  | .i32 => .i32
  | .i8 => .i8
  | .z8 => .z8

/-- The code of a DrainFmt (R80, R58). -/
def DrainFmt.code (f : DrainFmt) : BitVec 5 := f.toFmt.code

/-- The DrainFmt of a code, none outside its column (R80). -/
def DrainFmt.ofCode (c : BitVec 5) : Option DrainFmt :=
  match c.toNat with
  | 11 => some .f32
  | 12 => some .f16
  | 13 => some .bf16
  | 14 => some .e4m3
  | 15 => some .e5m2
  | 4 => some .i32
  | 0 => some .i8
  | 1 => some .z8
  | _ => none

/-! ### Field layouts (R48) -/

/-- R format. -/
def packR (maj : BitVec 6) (d a b : BitVec 6) (fn : BitVec 8) : IWord := maj ++ d ++ a ++ b ++ fn
/-- I format. -/
def packI (maj : BitVec 6) (d a : BitVec 6) (imm : BitVec 14) : IWord := maj ++ d ++ a ++ imm
/-- L format. -/
def packL (maj : BitVec 6) (d : BitVec 6) (imm : BitVec 20) : IWord := maj ++ d ++ imm
/-- J format. -/
def packJ (maj : BitVec 6) (off : BitVec 26) : IWord := maj ++ off
/-- F format. -/
def packF (d a b c : BitVec 6) (op : BitVec 2) : IWord := (0x0C : BitVec 6) ++ d ++ a ++ b ++ c ++ op
/-- T format. -/
def packT (maj : BitVec 6) (td ta tb : BitVec 4) (sh : BitVec 2) (mask : BitVec 4) (fn : BitVec 8) : IWord :=
  maj ++ td ++ ta ++ tb ++ sh ++ mask ++ fn
/-- X format. -/
def packX (maj : BitVec 6) (td ta : BitVec 4) (sb : BitVec 6) (sh : BitVec 2) (fn : BitVec 10) : IWord :=
  maj ++ td ++ ta ++ sb ++ sh ++ fn
/-- S format. -/
def packS (d a : BitVec 6) (sh : BitVec 2) (fmt : BitVec 5) (sel : BitVec 7) : IWord :=
  (0x36 : BitVec 6) ++ d ++ a ++ sh ++ fmt ++ sel
/-- FN format. -/
def packFN (p s : BitVec 6) (scope : BitVec 3) (z : BitVec 3) (fn : BitVec 8) : IWord :=
  (0x1D : BitVec 6) ++ p ++ s ++ scope ++ z ++ fn
/-- W format. -/
def packW (l s : BitVec 4) (c : BitVec 5) (m : BitVec 4) (z : BitVec 1) (fn : BitVec 8) : IWord :=
  (0x1D : BitVec 6) ++ l ++ s ++ c ++ m ++ z ++ fn
/-- N format. -/
def packN (d : BitVec 6) (num : BitVec 12) (fn : BitVec 8) : IWord := (0x2F : BitVec 6) ++ d ++ num ++ fn

/-- Field hi:lo of a word, as its low bit and width. -/
def fld (w : IWord) (lo n : Nat) : BitVec n := w.extractLsb' lo n

/-- Major 0x00. -/
def decodeMajor00 (d a b : BitVec 6) (fn : BitVec 8) : Except DecodeError Instr :=
  match fn.toNat with
  | 1 => .ok (.add d a b)
  | 2 => .ok (.sub d a b)
  | 3 => .ok (.and d a b)
  | 4 => .ok (.or d a b)
  | 5 => .ok (.xor d a b)
  | 6 => .ok (.andn d a b)
  | 7 => .ok (.orn d a b)
  | 8 => .ok (.xnor d a b)
  | 9 => .ok (.shl d a b)
  | 10 => .ok (.shr d a b)
  | 11 => .ok (.sar d a b)
  | 12 => .ok (.rol d a b)
  | 13 => .ok (.ror d a b)
  | 14 => .ok (.slt d a b)
  | 15 => .ok (.sltz d a b)
  | 16 => .ok (.seq d a b)
  | 17 => .ok (.sne d a b)
  | 18 => .ok (.min d a b)
  | 19 => .ok (.max d a b)
  | 20 => .ok (.minz d a b)
  | 21 => .ok (.maxz d a b)
  | 22 => .ok (.qadd d a b)
  | 23 => .ok (.qaddz d a b)
  | 24 => .ok (.qsub d a b)
  | 25 => .ok (.qsubz d a b)
  | 26 => if b = 0 then .ok (.abs d a) else .error (.nonzeroField 0)
  | 27 => if b = 0 then .ok (.sextI8 d a) else .error (.nonzeroField 0)
  | 28 => if b = 0 then .ok (.sextI16 d a) else .error (.nonzeroField 0)
  | 29 => if b = 0 then .ok (.sextI32 d a) else .error (.nonzeroField 0)
  | 30 => if b = 0 then .ok (.zextZ8 d a) else .error (.nonzeroField 0)
  | 31 => if b = 0 then .ok (.zextZ16 d a) else .error (.nonzeroField 0)
  | 32 => if b = 0 then .ok (.zextZ32 d a) else .error (.nonzeroField 0)
  | k => .error (.unallocated 0 k)

/-- Major 0x09. -/
def decodeMajor09 (d a b : BitVec 6) (fn : BitVec 8) : Except DecodeError Instr :=
  match fn.toNat with
  | 1 => .ok (.mul d a b)
  | 2 => .ok (.mulh d a b)
  | 3 => .ok (.mulhz d a b)
  | 4 => .ok (.div d a b)
  | 5 => .ok (.divz d a b)
  | 6 => .ok (.rem d a b)
  | 7 => .ok (.remz d a b)
  | k => .error (.unallocated 9 k)

/-- Major 0x0A. -/
def decodeMajor0A (d a b : BitVec 6) (fn : BitVec 8) : Except DecodeError Instr :=
  match fn.toNat with
  | 1 => .ok (.clmul d a b)
  | 2 => .ok (.clmulh d a b)
  | 3 => if b = 0 then .ok (.pop d a) else .error (.nonzeroField 10)
  | 4 => if b = 0 then .ok (.clz d a) else .error (.nonzeroField 10)
  | 5 => if b = 0 then .ok (.ctz d a) else .error (.nonzeroField 10)
  | 6 => .ok (.bext d a b)
  | 7 => .ok (.bins d a b)
  | 8 => .ok (.sel d a b)
  | 9 => if b = 0 then .ok (.brev d a) else .error (.nonzeroField 10)
  | 10 => if b = 0 then .ok (.bswap d a) else .error (.nonzeroField 10)
  | k => .error (.unallocated 10 k)

/-- Major 0x28. -/
def decodeMajor28 (d a b : BitVec 6) (fn : BitVec 8) : Except DecodeError Instr :=
  match fn.toNat with
  | 1 => if b = 0 then .ok (.crt d a) else .error (.nonzeroField 40)
  | 2 => if b = 0 then .ok (.sync d a) else .error (.nonzeroField 40)
  | 3 => if d = 0 ∧ b = 0 then .ok (.brk a) else .error (.nonzeroField 40)
  | 4 => if d = 63 then .error .excludedNumber else .ok (.fput d a b)
  | 5 => if d = 63 then .error .excludedNumber else .ok (.fputS d a b)
  | 6 => if b = 63 then .error .excludedNumber else .ok (.fget d a b)
  | 7 => if b = 63 then .error .excludedNumber else .ok (.fgetS d a b)
  | 8 => if b = 0 then .ok (.fgetBrk d a) else .error (.nonzeroField 40)
  | 9 => if d = 0 ∧ a = 0 ∧ b = 0 then .ok (.exit) else .error (.nonzeroField 40)
  | 10 => if d = 0 ∧ a = 0 ∧ b = 0 then .ok (.yield) else .error (.nonzeroField 40)
  | 11 => if a = 0 then if b.toNat ≤ 14 then .ok (.qry d b) else .error .excludedNumber else .error (.nonzeroField 40)
  | k => .error (.unallocated 40 k)

/-- Major 0x29. -/
def decodeMajor29 (d a b : BitVec 6) (fn : BitVec 8) : Except DecodeError Instr :=
  match fn.toNat with
  | 1 => if d = 0 then .ok (.tenq a b) else .error (.nonzeroField 41)
  | 2 => if d = 0 ∧ a = 0 ∧ b = 0 then .ok (.texit) else .error (.nonzeroField 41)
  | 3 => if d = 0 ∧ a = 0 ∧ b = 0 then .ok (.tirr) else .error (.nonzeroField 41)
  | k => .error (.unallocated 41 k)

/-- Major 0x2A. -/
def decodeMajor2A (d a b : BitVec 6) (fn : BitVec 8) : Except DecodeError Instr :=
  match fn.toNat with
  | 1 => if d = 0 then .ok (.ksendB0 a b) else .error (.nonzeroField 42)
  | 2 => if d = 0 then .ok (.ksendB1 a b) else .error (.nonzeroField 42)
  | 3 => if d = 0 then .ok (.ksendB2 a b) else .error (.nonzeroField 42)
  | 4 => if d = 0 then .ok (.ksendB3 a b) else .error (.nonzeroField 42)
  | 5 => if b = 0 then .ok (.wta d a) else .error (.nonzeroField 42)
  | 6 => if a = 0 ∧ b = 0 then .ok (.wtw d) else .error (.nonzeroField 42)
  | 7 => if d = 0 ∧ b = 0 then .ok (.wtd a) else .error (.nonzeroField 42)
  | 8 => if d = 0 then .ok (.stm a b) else .error (.nonzeroField 42)
  | 9 => if d = 0 ∧ b = 0 then .ok (.rxaB0 a) else .error (.nonzeroField 42)
  | 10 => if d = 0 ∧ b = 0 then .ok (.rxaB1 a) else .error (.nonzeroField 42)
  | 11 => if d = 0 ∧ b = 0 then .ok (.rxaB2 a) else .error (.nonzeroField 42)
  | 12 => if d = 0 ∧ b = 0 then .ok (.rxaB3 a) else .error (.nonzeroField 42)
  | k => .error (.unallocated 42 k)

/-- Major 0x2B. -/
def decodeMajor2B (d a b : BitVec 6) (fn : BitVec 8) : Except DecodeError Instr :=
  match fn.toNat with
  | 1 => if b = 0 then if d.toNat < 32 then .ok (.ewr d a) else .error .excludedNumber else .error (.nonzeroField 43)
  | 2 => if b = 0 then if a.toNat < 32 then .ok (.erd d a) else .error .excludedNumber else .error (.nonzeroField 43)
  | 3 => if b = 0 then .ok (.sbind d a) else .error (.nonzeroField 43)
  | 4 => if a = 0 ∧ b = 0 then .ok (.sunb d) else .error (.nonzeroField 43)
  | 5 => if a = 0 ∧ b = 0 then .ok (.rnd d) else .error (.nonzeroField 43)
  | k => .error (.unallocated 43 k)

/-- Major 0x2C. -/
def decodeMajor2C (d a b : BitVec 6) (fn : BitVec 8) : Except DecodeError Instr :=
  match fn.toNat with
  | 1 => if d = 0 then .ok (.cpy a b) else .error (.nonzeroField 44)
  | 2 => if d = 0 then .ok (.chn a b) else .error (.nonzeroField 44)
  | 3 => .ok (.ovl d a b)
  | 4 => if d = 0 ∧ b = 0 then .ok (.coll a) else .error (.nonzeroField 44)
  | k => .error (.unallocated 44 k)

/-- Major 0x30. -/
def decodeMajor30 (td ta tb : BitVec 4) (sh : BitVec 2) (mask : BitVec 4) (fn : BitVec 8) : Except DecodeError Instr :=
  match fn.toNat with
  | 1 => .ok (.vaddInt td ta tb sh mask)
  | 2 => .ok (.vsubInt td ta tb sh mask)
  | 3 => .ok (.vmulInt td ta tb sh mask)
  | 4 => .ok (.vmulh td ta tb sh mask)
  | 5 => .ok (.vmacInt td ta tb sh mask)
  | 6 => .ok (.vqadd td ta tb sh mask)
  | 7 => .ok (.vqsub td ta tb sh mask)
  | 8 => .ok (.vminInt td ta tb sh mask)
  | 9 => .ok (.vmaxInt td ta tb sh mask)
  | 10 => if tb = 0 then .ok (.vabsInt td ta sh mask) else .error (.nonzeroField 48)
  | 11 => if tb = 0 then .ok (.vnegInt td ta sh mask) else .error (.nonzeroField 48)
  | 12 => .ok (.vavg td ta tb sh mask)
  | k => .error (.unallocated 48 k)

/-- Major 0x32. -/
def decodeMajor32 (td ta tb : BitVec 4) (sh : BitVec 2) (mask : BitVec 4) (fn : BitVec 8) : Except DecodeError Instr :=
  match fn.toNat with
  | 1 => .ok (.vand td ta tb sh mask)
  | 2 => .ok (.vor td ta tb sh mask)
  | 3 => .ok (.vxor td ta tb sh mask)
  | 4 => .ok (.vandn td ta tb sh mask)
  | 5 => if tb = 0 then .ok (.vnot td ta sh mask) else .error (.nonzeroField 50)
  | 6 => .ok (.vshl td ta tb sh mask)
  | 7 => .ok (.vshr td ta tb sh mask)
  | 8 => .ok (.vsar td ta tb sh mask)
  | 9 => .ok (.vclmul td ta tb sh mask)
  | 10 => .ok (.vceq td ta tb sh mask)
  | 11 => .ok (.vclt td ta tb sh mask)
  | 12 => .ok (.vcle td ta tb sh mask)
  | k => .error (.unallocated 50 k)

/-- Major 0x33. -/
def decodeMajor33 (td ta tb : BitVec 4) (sh : BitVec 2) (mask : BitVec 4) (fn : BitVec 8) : Except DecodeError Instr :=
  match fn.toNat with
  | 1 => if tb = 0 then .ok (.vmov td ta sh mask) else .error (.nonzeroField 51)
  | 2 => if tb = 0 then .ok (.vbcast td ta sh mask) else .error (.nonzeroField 51)
  | 3 => if tb = 0 then .ok (.vtrn td ta sh mask) else .error (.nonzeroField 51)
  | 4 => .ok (.vperm td ta tb sh mask)
  | 5 => if mask = 0 then .ok (.vcpr td ta tb sh) else .error (.nonzeroField 51)
  | 6 => if mask = 0 then .ok (.vexd td ta tb sh) else .error (.nonzeroField 51)
  | 7 => if tb = 0 then .ok (.vscan td ta sh mask) else .error (.nonzeroField 51)
  | 8 => if tb = 0 then .ok (.vrsum td ta sh mask) else .error (.nonzeroField 51)
  | 9 => if tb = 0 then .ok (.vrmin td ta sh mask) else .error (.nonzeroField 51)
  | 10 => if tb = 0 then .ok (.vrmax td ta sh mask) else .error (.nonzeroField 51)
  | 11 => .ok (.vrot td ta tb sh mask)
  | k => .error (.unallocated 51 k)

/-- Major 0x31: fn = op[7:3] | RF[2:0] (R83). -/
def decodeMajor31 (td ta tb : BitVec 4) (sh : BitVec 2) (mask : BitVec 4) (op : BitVec 5) (rf : Rf) : Except DecodeError Instr :=
  match op.toNat with
  | 1 => .ok (.vaddFp td ta tb sh mask rf)
  | 2 => .ok (.vsubFp td ta tb sh mask rf)
  | 3 => .ok (.vmulFp td ta tb sh mask rf)
  | 4 => .ok (.vdiv td ta tb sh mask rf)
  | 5 => .ok (.vmacFp td ta tb sh mask rf)
  | 6 => .ok (.vminFp td ta tb sh mask rf)
  | 7 => .ok (.vmaxFp td ta tb sh mask rf)
  | 8 => if tb = 0 then if rf = .rne then .ok (.vabsFp td ta sh mask) else .error .reservedRf else .error (.nonzeroField 49)
  | 9 => if tb = 0 then if rf = .rne then .ok (.vnegFp td ta sh mask) else .error .reservedRf else .error (.nonzeroField 49)
  | 10 => if tb = 0 then .ok (.vsqrt td ta sh mask rf) else .error (.nonzeroField 49)
  | k => .error (.unallocated 49 k)

/-- Major 0x35: fn = op[7:3] | RF[2:0] (R83). -/
def decodeMajor35 (td ta tb : BitVec 4) (sh : BitVec 2) (mask : BitVec 4) (op : BitVec 5) (rf : Rf) : Except DecodeError Instr :=
  match op.toNat with
  | 1 => if tb.extractLsb' 2 2 = 0 then .ok (.vcvt td ta (tb.extractLsb' 0 2) sh mask rf) else .error (.nonzeroField 53)
  | 2 => if tb = 0 then if rf.isEstimate then .ok (.vexp2 td ta sh mask rf) else .error .reservedRf else .error (.nonzeroField 53)
  | 3 => if tb = 0 then if rf.isEstimate then .ok (.vlog2 td ta sh mask rf) else .error .reservedRf else .error (.nonzeroField 53)
  | 4 => if tb = 0 then if rf.isEstimate then .ok (.vrcp td ta sh mask rf) else .error .reservedRf else .error (.nonzeroField 53)
  | 5 => if tb = 0 then if rf.isEstimate then .ok (.vrsq td ta sh mask rf) else .error .reservedRf else .error (.nonzeroField 53)
  | 6 => .ok (.vrcps td ta tb sh mask rf)
  | 7 => .ok (.vrsqs td ta tb sh mask rf)
  | 8 => if tb = 0 ∧ ta = 0 then if rf = .rne then .ok (.vrnd td sh mask) else .error .reservedRf else .error (.nonzeroField 53)
  | 9 => if tb = 0 ∧ ta = 0 then if rf = .rne then .ok (.vclr td sh mask) else .error .reservedRf else .error (.nonzeroField 53)
  | 10 => if tb = 0 then if rf = .rne then .ok (.vpop td ta sh mask) else .error .reservedRf else .error (.nonzeroField 53)
  | k => .error (.unallocated 53 k)

/-- Major 0x34. -/
def decodeMajor34 (td ta : BitVec 4) (sb : BitVec 6) (sh : BitVec 2) (fn : BitVec 10) : Except DecodeError Instr :=
  match fn.toNat with
  | 1 => if ta = 0 then .ok (.vld td sb sh) else .error (.nonzeroField 52)
  | 2 => if ta = 0 then .ok (.vst td sb sh) else .error (.nonzeroField 52)
  | 3 => .ok (.vldg td ta sb sh)
  | 4 => .ok (.vstg td ta sb sh)
  | k => .error (.unallocated 52 k)

/-- Major 0x37: fn = op[9:3] | RF[2:0] (R86). -/
def decodeMajor37 (td ta : BitVec 4) (sb : BitVec 6) (sh : BitVec 2) (op : BitVec 7) (rf : Rf) : Except DecodeError Instr :=
  match op.toNat with
  | 1 => .ok (.vadds td ta sb sh rf)
  | 2 => .ok (.vsubs td ta sb sh rf)
  | 3 => .ok (.vmuls td ta sb sh rf)
  | 4 => .ok (.vmins td ta sb sh rf)
  | 5 => .ok (.vmaxs td ta sb sh rf)
  | 6 => if ta = 0 then if rf = .rne then .ok (.vsplat td sb sh) else .error .reservedRf else .error (.nonzeroField 55)
  | 7 => if td = 0 then if rf = .rne then .ok (.vext ta sb sh) else .error .reservedRf else .error (.nonzeroField 55)
  | 8 => if ta = 0 then if rf = .rne then .ok (.vins td sb sh) else .error .reservedRf else .error (.nonzeroField 55)
  | k => .error (.unallocated 55 k)

/-- Major 0x0B with op below 0b110: fn = RF | fmt2 | op (R67). -/
def decodeMajor0B (d a b : BitVec 6) (rf : Rf) (fmt : Fmt2) (op : BitVec 3) : Except DecodeError Instr :=
  match op.toNat with
  | 0 => .ok (.fadd d a b rf fmt)
  | 1 => .ok (.fsub d a b rf fmt)
  | 2 => .ok (.fmul d a b rf fmt)
  | 3 => .ok (.fdiv d a b rf fmt)
  | 4 => .ok (.frcps d a b rf fmt)
  | 5 => .ok (.frsqs d a b rf fmt)
  | 6 =>
    match rf with
    | .rne => .ok (.fmin d a b fmt)
    | .rtz => .ok (.fmax d a b fmt)
    | .rup => .ok (.fsgnj d a b fmt)
    | .rdn => .ok (.fsgnjn d a b fmt)
    | .rmm => .ok (.fsgnjx d a b fmt)
    | .rsr => .ok (.feq d a b fmt)
    | .fz => .ok (.flt d a b fmt)
    | .nf => .ok (.fle d a b fmt)
  | _ =>
    match b.toNat with
    | 0 => .ok (.fsqrt d a rf fmt)
    | 1 => if rf.isEstimate then .ok (.frcp d a rf fmt) else .error .reservedRf
    | 2 => if rf.isEstimate then .ok (.frsq d a rf fmt) else .error .reservedRf
    | 3 => if rf = .rne then .ok (.fclass d a fmt) else .error .reservedRf
    | 0x10 => .ok (.fcvti d a .i32 rf fmt)
    | 0x11 => .ok (.fcvti d a .i64 rf fmt)
    | 0x12 => .ok (.fcvti d a .z32 rf fmt)
    | 0x13 => .ok (.fcvti d a .z64 rf fmt)
    | 0x14 => .ok (.icvtf d a .i32 rf fmt)
    | 0x15 => .ok (.icvtf d a .i64 rf fmt)
    | 0x16 => .ok (.icvtf d a .z32 rf fmt)
    | 0x17 => .ok (.icvtf d a .z64 rf fmt)
    | k =>
      match FcvtTo.ofCode b with
      | some t => .ok (.fcvt d a t rf fmt)
      | none => .error (.unallocated 0x0B k)

/-- Major 0x0C, format F (R69). -/
def decodeMajor0C (d a b c : BitVec 6) (op : BitVec 2) : Except DecodeError Instr :=
  match op.toNat with
  | 0 => .ok (.fmaF64 d a b c)
  | 1 => .ok (.fmsF64 d a b c)
  | 2 => .ok (.fmaF32 d a b c)
  | _ => .ok (.fmsF32 d a b c)

/-- Major 0x05: imm14[13:12] selects the shift, imm14[11:6] is zero (R64, R132). -/
def decodeMajor05 (d a : BitVec 6) (sel : BitVec 2) (z : BitVec 6) (n : BitVec 6) : Except DecodeError Instr :=
  if z = 0 then
    match sel.toNat with
    | 0 => .ok (.shli d a n)
    | 1 => .ok (.shri d a n)
    | 2 => .ok (.sari d a n)
    | _ => .ok (.rori d a n)
  else .error (.nonzeroField 5)

/-- Major 0x17: fn = grp | sub (R71). -/
def decodeMajor17 (d a b : BitVec 6) (grp : BitVec 5) (sub : BitVec 3) : Except DecodeError Instr :=
  match grp.toNat with
  | 1 =>
    match LdxWidth.ofCode sub with
    | some w => .ok (.ldx d a b w)
    | none => .error (.unallocated 0x17 sub.toNat)
  | 2 =>
    match Scope.ofCode sub with
    | some s => .ok (.ldf d a b s)
    | none => .error .reservedScope
  | 3 =>
    match Scope.ofCode sub with
    | some s => .ok (.lde d a b s)
    | none => .error .reservedScope
  | 4 =>
    match LdrdOp.ofCode sub with
    | some o => .ok (.ldrd d a b o)
    | none => .error (.unallocated 0x17 sub.toNat)
  | 5 => if sub = 0 then .ok (.fstat d a b) else .error (.unallocated 0x17 sub.toNat)
  | k => .error (.unallocated 0x17 k)

/-- Major 0x1C: fn = op | low (R72). -/
def decodeMajor1C (d a b : BitVec 6) (op low : BitVec 4) : Except DecodeError Instr :=
  match op.toNat with
  | 14 => .ok (.cas d a b low)
  | 15 =>
    match Scope.ofCode (low.extractLsb' 0 3) with
    | some s =>
      if low.getLsbD 3 then .ok (.ste d a b s)
      else if d = 0 then .ok (.stf a b s) else .error (.nonzeroField 0x1C)
    | none => .error .reservedScope
  | k =>
    match AmoOp.ofCode op with
    | some o => if d = 0 then .ok (.red a b o low) else .ok (.amo d a b o low)
    | none => .error (.unallocated 0x1C k)

/-- Major 0x1D: fence, wait and barrier (R73, R295, R299). -/
def decodeMajor1D (w : IWord) : Except DecodeError Instr :=
  match (fld w 0 8).toNat with
  | 1 =>
    match Scope.ofCode (fld w 11 3) with
    | some s => if fld w 8 3 = 0 then .ok (.fen (fld w 20 6) (fld w 14 6) s) else .error (.nonzeroField 0x1D)
    | none => .error .reservedScope
  | 2 =>
    if fld w 8 1 = 0 then .ok (.wait (fld w 22 4) (fld w 18 4) (fld w 13 5) (fld w 9 4))
    else .error (.nonzeroField 0x1D)
  | 3 => if fld w 20 6 = 0 ∧ fld w 8 6 = 0 then .ok (.bar (fld w 14 6)) else .error (.nonzeroField 0x1D)
  | k => .error (.unallocated 0x1D k)

/-- Major 0x2D: fn = op | fmt (R80). -/
def decodeMajor2D (d a b : BitVec 6) (op : BitVec 3) (f : BitVec 5) : Except DecodeError Instr :=
  match op.toNat with
  | 5 =>
    match DrainFmt.ofCode f with
    | some f => if d.toNat < 16 then .ok (.macc d a b f) else .error .excludedNumber
    | none => .error .reservedFormat
  | 6 =>
    if f = 0 then (if d = 0 ∧ b = 0 then .ok (.mclr a) else .error (.nonzeroField 0x2D)) else .error .reservedFormat
  | 7 =>
    match DrainFmt.ofCode f with
    | some f => if d = 0 then .ok (.mdrn a b f) else .error (.nonzeroField 0x2D)
    | none => .error .reservedFormat
  | k =>
    match ProductFmt.ofCode f with
    | some f =>
      if k = 4 then .ok (.mrc d a b f)
      else if d = 0 then
        match k with
        | 0 => .ok (.mma a b f)
        | 1 => .ok (.mmasS24 a b f)
        | 2 => .ok (.mmasS48 a b f)
        | _ => .ok (.mmag a b f)
      else .error (.nonzeroField 0x2D)
    | none => .error .reservedFormat

/-- Major 0x2E: the fn layout of R80 (R81). -/
def decodeMajor2E (d a b : BitVec 6) (op : BitVec 3) (f : BitVec 5) : Except DecodeError Instr :=
  match op.toNat with
  | 1 =>
    if f = 0 then (if d = 0 ∧ b = 0 then .ok (.edge a) else .error (.nonzeroField 0x2E)) else .error .reservedFormat
  | 2 =>
    match ProductFmt.ofCode f with
    | some f => if d = 0 then .ok (.mbs a b f) else .error (.nonzeroField 0x2E)
    | none => .error .reservedFormat
  | 3 =>
    match ProductFmt.ofCode f with
    | some f => if d = 0 then .ok (.mss a b f) else .error (.nonzeroField 0x2E)
    | none => .error .reservedFormat
  | 4 => if f = 0 then (if d = 0 then .ok (.dpf a b) else .error (.nonzeroField 0x2E)) else .error .reservedFormat
  | k => .error (.unallocated 0x2E k)

/-- Major 0x2F: system (R82). -/
def decodeMajor2F (w : IWord) : Except DecodeError Instr :=
  let d := fld w 20 6
  let a := fld w 14 6
  let b := fld w 8 6
  match (fld w 0 8).toNat with
  | 1 => if d = 0 ∧ a = 0 then .ok (.trap b) else .error (.nonzeroField 0x2F)
  | 2 => if d = 0 ∧ a = 0 ∧ b = 0 then .ok .eret else .error (.nonzeroField 0x2F)
  | 3 => .ok (.sysr d (fld w 8 12))
  | 4 => .ok (.sysw d (fld w 8 12))
  | 5 => if d = 0 then .ok (.tlbi a b) else .error (.nonzeroField 0x2F)
  | 6 => if d = 0 ∧ a = 0 ∧ b = 0 then .ok .halt else .error (.nonzeroField 0x2F)
  | 7 => if d = 0 ∧ b = 0 then .ok (.ctxs a) else .error (.nonzeroField 0x2F)
  | 8 => if b = 0 then .ok (.ctxr d a) else .error (.nonzeroField 0x2F)
  | 9 => if d = 0 ∧ b = 0 then .ok (.seal a) else .error (.nonzeroField 0x2F)
  | 10 => if d = 0 then .ok (.capw a b) else .error (.nonzeroField 0x2F)
  | 11 => if b = 0 then .ok (.capr d a) else .error (.nonzeroField 0x2F)
  | 12 => if a = 0 ∧ b = 0 then .ok (.tbr d) else .error (.nonzeroField 0x2F)
  | 13 => if d = 0 ∧ a = 0 ∧ b = 0 then .ok .idle else .error (.nonzeroField 0x2F)
  | 14 => if d = 0 ∧ b = 0 then .ok (.ovli a) else .error (.nonzeroField 0x2F)
  | k => .error (.unallocated 0x2F k)

/-- Major 0x36, selected by bits 6:0 (R85). -/
def decodeMajor36 (w : IWord) : Except DecodeError Instr :=
  match (fld w 0 7).toNat with
  | 1 =>
    match Fmt.ofCode (fld w 7 5) with
    | some f => .ok (.vsh (fld w 20 6) (fld w 14 6) (fld w 12 2) f)
    | none => .error .reservedFormat
  | 2 => if fld w 7 19 = 0 then .ok .vsp else .error (.nonzeroField 0x36)
  | 3 => if fld w 14 6 = 0 ∧ fld w 7 5 = 0 then .ok (.vshq (fld w 20 6) (fld w 12 2)) else .error (.nonzeroField 0x36)
  | 4 =>
    if fld w 18 4 = 0 ∧ fld w 7 3 = 0 then .ok (.vmsk (fld w 22 4) (fld w 12 6) (fld w 10 2))
    else .error (.nonzeroField 0x36)
  | k => .error (.unallocated 0x36 k)

/-- The rounding code of a 3-bit field; all eight are allocated (R59). -/
def Rf.ofBits (c : BitVec 3) : Rf := (Rf.ofCode c).getD .rne

/-- The scalar format of a 2-bit field; all four are allocated (R67). -/
def Fmt2.ofBits (c : BitVec 2) : Fmt2 := (Fmt2.ofCode c).getD .f64

/-- Decode one instruction word: the major opcode in bits 31:26 fixes the format (R48, R55). -/
def decodeWord (w : IWord) : Except DecodeError Instr :=
  let d := fld w 20 6
  let a := fld w 14 6
  let b := fld w 8 6
  let imm := fld w 0 14
  let fn := fld w 0 8
  let td := fld w 22 4
  let ta := fld w 18 4
  let tb := fld w 14 4
  match (fld w 26 6).toNat with
  | 0x00 => decodeMajor00 d a b fn
  | 0x01 => .ok (.addi d a imm)
  | 0x02 => .ok (.andi d a imm)
  | 0x03 => .ok (.ori d a imm)
  | 0x04 => .ok (.xori d a imm)
  | 0x05 => decodeMajor05 d a (fld w 12 2) (fld w 6 6) (fld w 0 6)
  | 0x06 => .ok (.slti d a imm)
  | 0x07 => .ok (.lih d (fld w 0 20))
  | 0x08 => .ok (.pcadd d (fld w 0 20))
  | 0x09 => decodeMajor09 d a b fn
  | 0x0A => decodeMajor0A d a b fn
  | 0x0B => decodeMajor0B d a b (Rf.ofBits (fld w 5 3)) (Fmt2.ofBits (fld w 3 2)) (fld w 0 3)
  | 0x0C => decodeMajor0C d a b (fld w 2 6) (fld w 0 2)
  | 0x10 => .ok (.ldI8 d a imm)
  | 0x11 => .ok (.ldZ8 d a imm)
  | 0x12 => .ok (.ldI16 d a imm)
  | 0x13 => .ok (.ldZ16 d a imm)
  | 0x14 => .ok (.ldI32 d a imm)
  | 0x15 => .ok (.ldZ32 d a imm)
  | 0x16 => .ok (.ldI64 d a imm)
  | 0x17 => decodeMajor17 d a b (fld w 3 5) (fld w 0 3)
  | 0x18 => .ok (.stI8 d a imm)
  | 0x19 => .ok (.stI16 d a imm)
  | 0x1A => .ok (.stI32 d a imm)
  | 0x1B => .ok (.stI64 d a imm)
  | 0x1C => decodeMajor1C d a b (fld w 4 4) (fld w 0 4)
  | 0x1D => decodeMajor1D w
  | 0x20 => .ok (.beq d a imm)
  | 0x21 => .ok (.bne d a imm)
  | 0x22 => .ok (.blt d a imm)
  | 0x23 => .ok (.bge d a imm)
  | 0x24 => .ok (.bltz d a imm)
  | 0x25 => .ok (.bgez d a imm)
  | 0x26 => .ok (.jal d (fld w 0 20))
  | 0x27 => .ok (.jalr d a imm)
  | 0x28 => decodeMajor28 d a b fn
  | 0x29 => decodeMajor29 d a b fn
  | 0x2A => decodeMajor2A d a b fn
  | 0x2B => decodeMajor2B d a b fn
  | 0x2C => decodeMajor2C d a b fn
  | 0x2D => decodeMajor2D d a b (fld w 5 3) (fld w 0 5)
  | 0x2E => decodeMajor2E d a b (fld w 5 3) (fld w 0 5)
  | 0x2F => decodeMajor2F w
  | 0x30 => decodeMajor30 td ta tb (fld w 12 2) (fld w 8 4) fn
  | 0x31 => decodeMajor31 td ta tb (fld w 12 2) (fld w 8 4) (fld w 3 5) (Rf.ofBits (fld w 0 3))
  | 0x32 => decodeMajor32 td ta tb (fld w 12 2) (fld w 8 4) fn
  | 0x33 => decodeMajor33 td ta tb (fld w 12 2) (fld w 8 4) fn
  | 0x34 => decodeMajor34 td ta (fld w 12 6) (fld w 10 2) (fld w 0 10)
  | 0x35 => decodeMajor35 td ta tb (fld w 12 2) (fld w 8 4) (fld w 3 5) (Rf.ofBits (fld w 0 3))
  | 0x36 => decodeMajor36 w
  | 0x37 => decodeMajor37 td ta (fld w 12 6) (fld w 10 2) (fld w 3 7) (Rf.ofBits (fld w 0 3))
  | 0x38 => .ok (.nop (fld w 0 26))
  | 0x39 => .ok (.ovlh (fld w 0 26))
  | 0x3A => .ok (.hintDest 0 d (fld w 0 20))
  | 0x3B => .ok (.hintDest 1 d (fld w 0 20))
  | 0x3F => .error .permanentlyIllegal
  | m => .error (.reservedMajor m)

/-- Four bytes as a word, the first at the lowest address (R4). -/
def wordOfBytes (b0 b1 b2 b3 : Byte) : IWord := b3 ++ b2 ++ b1 ++ b0

/-- Decode the first instruction of a byte list, and give the bytes after it. -/
def decode : List Byte → Except DecodeError (Instr × List Byte)
  | b0 :: b1 :: b2 :: b3 :: rest =>
    match decodeWord (wordOfBytes b0 b1 b2 b3) with
    | .ok i => .ok (i, rest)
    | .error e => .error e
  | _ => .error .truncated

/-- The word of an instruction, from the encoding tables of R63 to R86. A step that is no instruction has no word and
is given the all-zero word, which is not an instruction (R56). -/
def encode : Instr → IWord
  | .add d a b => packR 0 d a b (1 : BitVec 8)
  | .sub d a b => packR 0 d a b (2 : BitVec 8)
  | .and d a b => packR 0 d a b (3 : BitVec 8)
  | .or d a b => packR 0 d a b (4 : BitVec 8)
  | .xor d a b => packR 0 d a b (5 : BitVec 8)
  | .andn d a b => packR 0 d a b (6 : BitVec 8)
  | .orn d a b => packR 0 d a b (7 : BitVec 8)
  | .xnor d a b => packR 0 d a b (8 : BitVec 8)
  | .shl d a b => packR 0 d a b (9 : BitVec 8)
  | .shr d a b => packR 0 d a b (10 : BitVec 8)
  | .sar d a b => packR 0 d a b (11 : BitVec 8)
  | .rol d a b => packR 0 d a b (12 : BitVec 8)
  | .ror d a b => packR 0 d a b (13 : BitVec 8)
  | .slt d a b => packR 0 d a b (14 : BitVec 8)
  | .sltz d a b => packR 0 d a b (15 : BitVec 8)
  | .seq d a b => packR 0 d a b (16 : BitVec 8)
  | .sne d a b => packR 0 d a b (17 : BitVec 8)
  | .min d a b => packR 0 d a b (18 : BitVec 8)
  | .max d a b => packR 0 d a b (19 : BitVec 8)
  | .minz d a b => packR 0 d a b (20 : BitVec 8)
  | .maxz d a b => packR 0 d a b (21 : BitVec 8)
  | .qadd d a b => packR 0 d a b (22 : BitVec 8)
  | .qaddz d a b => packR 0 d a b (23 : BitVec 8)
  | .qsub d a b => packR 0 d a b (24 : BitVec 8)
  | .qsubz d a b => packR 0 d a b (25 : BitVec 8)
  | .abs d a => packR 0 d a (0 : BitVec 6) (26 : BitVec 8)
  | .sextI8 d a => packR 0 d a (0 : BitVec 6) (27 : BitVec 8)
  | .sextI16 d a => packR 0 d a (0 : BitVec 6) (28 : BitVec 8)
  | .sextI32 d a => packR 0 d a (0 : BitVec 6) (29 : BitVec 8)
  | .zextZ8 d a => packR 0 d a (0 : BitVec 6) (30 : BitVec 8)
  | .zextZ16 d a => packR 0 d a (0 : BitVec 6) (31 : BitVec 8)
  | .zextZ32 d a => packR 0 d a (0 : BitVec 6) (32 : BitVec 8)
  | .addi d a imm => packI 1 d a imm
  | .andi d a imm => packI 2 d a imm
  | .ori d a imm => packI 3 d a imm
  | .xori d a imm => packI 4 d a imm
  | .shli d a n => packI 5 d a ((0 : BitVec 8) ++ n)
  | .shri d a n => packI 5 d a ((64 : BitVec 8) ++ n)
  | .sari d a n => packI 5 d a ((128 : BitVec 8) ++ n)
  | .rori d a n => packI 5 d a ((192 : BitVec 8) ++ n)
  | .slti d a imm => packI 6 d a imm
  | .lih d imm => packL 7 d imm
  | .pcadd d imm => packL 8 d imm
  | .mul d a b => packR 9 d a b (1 : BitVec 8)
  | .mulh d a b => packR 9 d a b (2 : BitVec 8)
  | .mulhz d a b => packR 9 d a b (3 : BitVec 8)
  | .div d a b => packR 9 d a b (4 : BitVec 8)
  | .divz d a b => packR 9 d a b (5 : BitVec 8)
  | .rem d a b => packR 9 d a b (6 : BitVec 8)
  | .remz d a b => packR 9 d a b (7 : BitVec 8)
  | .clmul d a b => packR 10 d a b (1 : BitVec 8)
  | .clmulh d a b => packR 10 d a b (2 : BitVec 8)
  | .pop d a => packR 10 d a (0 : BitVec 6) (3 : BitVec 8)
  | .clz d a => packR 10 d a (0 : BitVec 6) (4 : BitVec 8)
  | .ctz d a => packR 10 d a (0 : BitVec 6) (5 : BitVec 8)
  | .bext d a b => packR 10 d a b (6 : BitVec 8)
  | .bins d a b => packR 10 d a b (7 : BitVec 8)
  | .sel d a b => packR 10 d a b (8 : BitVec 8)
  | .brev d a => packR 10 d a (0 : BitVec 6) (9 : BitVec 8)
  | .bswap d a => packR 10 d a (0 : BitVec 6) (10 : BitVec 8)
  | .fadd d a b rf fmt => packR 11 d a b (rf.code ++ fmt.code ++ (0 : BitVec 3))
  | .fsub d a b rf fmt => packR 11 d a b (rf.code ++ fmt.code ++ (1 : BitVec 3))
  | .fmul d a b rf fmt => packR 11 d a b (rf.code ++ fmt.code ++ (2 : BitVec 3))
  | .fdiv d a b rf fmt => packR 11 d a b (rf.code ++ fmt.code ++ (3 : BitVec 3))
  | .frcps d a b rf fmt => packR 11 d a b (rf.code ++ fmt.code ++ (4 : BitVec 3))
  | .frsqs d a b rf fmt => packR 11 d a b (rf.code ++ fmt.code ++ (5 : BitVec 3))
  | .fmin d a b fmt => packR 11 d a b ((0 : BitVec 3) ++ fmt.code ++ (6 : BitVec 3))
  | .fmax d a b fmt => packR 11 d a b ((1 : BitVec 3) ++ fmt.code ++ (6 : BitVec 3))
  | .fsgnj d a b fmt => packR 11 d a b ((2 : BitVec 3) ++ fmt.code ++ (6 : BitVec 3))
  | .fsgnjn d a b fmt => packR 11 d a b ((3 : BitVec 3) ++ fmt.code ++ (6 : BitVec 3))
  | .fsgnjx d a b fmt => packR 11 d a b ((4 : BitVec 3) ++ fmt.code ++ (6 : BitVec 3))
  | .feq d a b fmt => packR 11 d a b ((5 : BitVec 3) ++ fmt.code ++ (6 : BitVec 3))
  | .flt d a b fmt => packR 11 d a b ((6 : BitVec 3) ++ fmt.code ++ (6 : BitVec 3))
  | .fle d a b fmt => packR 11 d a b ((7 : BitVec 3) ++ fmt.code ++ (6 : BitVec 3))
  | .fsqrt d a rf fmt => packR 11 d a (0 : BitVec 6) (rf.code ++ fmt.code ++ (7 : BitVec 3))
  | .frcp d a rf fmt => packR 11 d a (1 : BitVec 6) (rf.code ++ fmt.code ++ (7 : BitVec 3))
  | .frsq d a rf fmt => packR 11 d a (2 : BitVec 6) (rf.code ++ fmt.code ++ (7 : BitVec 3))
  | .fclass d a fmt => packR 11 d a (3 : BitVec 6) ((0 : BitVec 3) ++ fmt.code ++ (7 : BitVec 3))
  | .fcvt d a dst rf fmt => packR 11 d a (dst.code) (rf.code ++ fmt.code ++ (7 : BitVec 3))
  | .fcvti d a dst rf fmt => packR 11 d a ((4 : BitVec 4) ++ dst.code) (rf.code ++ fmt.code ++ (7 : BitVec 3))
  | .icvtf d a src rf fmt => packR 11 d a ((5 : BitVec 4) ++ src.code) (rf.code ++ fmt.code ++ (7 : BitVec 3))
  | .fmaF64 d a b c => packF d a b c (0 : BitVec 2)
  | .fmsF64 d a b c => packF d a b c (1 : BitVec 2)
  | .fmaF32 d a b c => packF d a b c (2 : BitVec 2)
  | .fmsF32 d a b c => packF d a b c (3 : BitVec 2)
  | .ldI8 d a imm => packI 16 d a imm
  | .ldZ8 d a imm => packI 17 d a imm
  | .ldI16 d a imm => packI 18 d a imm
  | .ldZ16 d a imm => packI 19 d a imm
  | .ldI32 d a imm => packI 20 d a imm
  | .ldZ32 d a imm => packI 21 d a imm
  | .ldI64 d a imm => packI 22 d a imm
  | .ldx d a b width => packR 23 d a b ((1 : BitVec 5) ++ width.code)
  | .ldf d a b scope => packR 23 d a b ((2 : BitVec 5) ++ scope.code)
  | .lde d a b scope => packR 23 d a b ((3 : BitVec 5) ++ scope.code)
  | .ldrd d a b op => packR 23 d a b ((4 : BitVec 5) ++ op.code)
  | .fstat d a b => packR 23 d a b (40 : BitVec 8)
  | .stI8 b a imm => packI 24 b a imm
  | .stI16 b a imm => packI 25 b a imm
  | .stI32 b a imm => packI 26 b a imm
  | .stI64 b a imm => packI 27 b a imm
  | .amo d a b op os => packR 28 d a b (op.code ++ os)
  | .red a b op os => packR 28 (0 : BitVec 6) a b (op.code ++ os)
  | .cas d a b os => packR 28 d a b ((14 : BitVec 4) ++ os)
  | .stf a b scope => packR 28 (0 : BitVec 6) a b ((30 : BitVec 5) ++ scope.code)
  | .ste d a b scope => packR 28 d a b ((31 : BitVec 5) ++ scope.code)
  | .fen pset sset scope => packFN pset sset (scope.code) (0 : BitVec 3) (1 : BitVec 8)
  | .wait lcnt scnt ccnt mcnt => packW lcnt scnt ccnt mcnt (0 : BitVec 1) (2 : BitVec 8)
  | .bar a => packR 29 (0 : BitVec 6) a (0 : BitVec 6) (3 : BitVec 8)
  | .beq a b off => packI 32 a b off
  | .bne a b off => packI 33 a b off
  | .blt a b off => packI 34 a b off
  | .bge a b off => packI 35 a b off
  | .bltz a b off => packI 36 a b off
  | .bgez a b off => packI 37 a b off
  | .jal d imm => packL 38 d imm
  | .jalr d a imm => packI 39 d a imm
  | .crt d a => packR 40 d a (0 : BitVec 6) (1 : BitVec 8)
  | .sync d a => packR 40 d a (0 : BitVec 6) (2 : BitVec 8)
  | .brk a => packR 40 (0 : BitVec 6) a (0 : BitVec 6) (3 : BitVec 8)
  | .fput n a b => packR 40 n a b (4 : BitVec 8)
  | .fputS n a b => packR 40 n a b (5 : BitVec 8)
  | .fget d a n => packR 40 d a n (6 : BitVec 8)
  | .fgetS d a n => packR 40 d a n (7 : BitVec 8)
  | .fgetBrk d a => packR 40 d a (0 : BitVec 6) (8 : BitVec 8)
  | .exit => packR 40 (0 : BitVec 6) (0 : BitVec 6) (0 : BitVec 6) (9 : BitVec 8)
  | .yield => packR 40 (0 : BitVec 6) (0 : BitVec 6) (0 : BitVec 6) (10 : BitVec 8)
  | .qry d n => packR 40 d (0 : BitVec 6) n (11 : BitVec 8)
  | .tenq a b => packR 41 (0 : BitVec 6) a b (1 : BitVec 8)
  | .texit => packR 41 (0 : BitVec 6) (0 : BitVec 6) (0 : BitVec 6) (2 : BitVec 8)
  | .tirr => packR 41 (0 : BitVec 6) (0 : BitVec 6) (0 : BitVec 6) (3 : BitVec 8)
  | .ksendB0 a b => packR 42 (0 : BitVec 6) a b (1 : BitVec 8)
  | .ksendB1 a b => packR 42 (0 : BitVec 6) a b (2 : BitVec 8)
  | .ksendB2 a b => packR 42 (0 : BitVec 6) a b (3 : BitVec 8)
  | .ksendB3 a b => packR 42 (0 : BitVec 6) a b (4 : BitVec 8)
  | .wta d a => packR 42 d a (0 : BitVec 6) (5 : BitVec 8)
  | .wtw d => packR 42 d (0 : BitVec 6) (0 : BitVec 6) (6 : BitVec 8)
  | .wtd a => packR 42 (0 : BitVec 6) a (0 : BitVec 6) (7 : BitVec 8)
  | .stm a b => packR 42 (0 : BitVec 6) a b (8 : BitVec 8)
  | .rxaB0 a => packR 42 (0 : BitVec 6) a (0 : BitVec 6) (9 : BitVec 8)
  | .rxaB1 a => packR 42 (0 : BitVec 6) a (0 : BitVec 6) (10 : BitVec 8)
  | .rxaB2 a => packR 42 (0 : BitVec 6) a (0 : BitVec 6) (11 : BitVec 8)
  | .rxaB3 a => packR 42 (0 : BitVec 6) a (0 : BitVec 6) (12 : BitVec 8)
  | .ewr e a => packR 43 e a (0 : BitVec 6) (1 : BitVec 8)
  | .erd d e => packR 43 d e (0 : BitVec 6) (2 : BitVec 8)
  | .sbind d a => packR 43 d a (0 : BitVec 6) (3 : BitVec 8)
  | .sunb d => packR 43 d (0 : BitVec 6) (0 : BitVec 6) (4 : BitVec 8)
  | .rnd d => packR 43 d (0 : BitVec 6) (0 : BitVec 6) (5 : BitVec 8)
  | .cpy a b => packR 44 (0 : BitVec 6) a b (1 : BitVec 8)
  | .chn a b => packR 44 (0 : BitVec 6) a b (2 : BitVec 8)
  | .ovl d a b => packR 44 d a b (3 : BitVec 8)
  | .coll a => packR 44 (0 : BitVec 6) a (0 : BitVec 6) (4 : BitVec 8)
  | .mma a b fmt => packR 45 (0 : BitVec 6) a b ((0 : BitVec 3) ++ fmt.code)
  | .mmasS24 a b fmt => packR 45 (0 : BitVec 6) a b ((1 : BitVec 3) ++ fmt.code)
  | .mmasS48 a b fmt => packR 45 (0 : BitVec 6) a b ((2 : BitVec 3) ++ fmt.code)
  | .mmag a b fmt => packR 45 (0 : BitVec 6) a b ((3 : BitVec 3) ++ fmt.code)
  | .mrc d a b fmt => packR 45 d a b ((4 : BitVec 3) ++ fmt.code)
  | .macc t a b fmt => packR 45 t a b ((5 : BitVec 3) ++ fmt.code)
  | .mclr a => packR 45 (0 : BitVec 6) a (0 : BitVec 6) (192 : BitVec 8)
  | .mdrn a b fmt => packR 45 (0 : BitVec 6) a b ((7 : BitVec 3) ++ fmt.code)
  | .edge a => packR 46 (0 : BitVec 6) a (0 : BitVec 6) (32 : BitVec 8)
  | .mbs a b fmt => packR 46 (0 : BitVec 6) a b ((2 : BitVec 3) ++ fmt.code)
  | .mss a b fmt => packR 46 (0 : BitVec 6) a b ((3 : BitVec 3) ++ fmt.code)
  | .dpf a b => packR 46 (0 : BitVec 6) a b (128 : BitVec 8)
  | .trap n => packR 47 (0 : BitVec 6) (0 : BitVec 6) n (1 : BitVec 8)
  | .eret => packR 47 (0 : BitVec 6) (0 : BitVec 6) (0 : BitVec 6) (2 : BitVec 8)
  | .sysr d n => packN d n (3 : BitVec 8)
  | .sysw a n => packN a n (4 : BitVec 8)
  | .tlbi a b => packR 47 (0 : BitVec 6) a b (5 : BitVec 8)
  | .halt => packR 47 (0 : BitVec 6) (0 : BitVec 6) (0 : BitVec 6) (6 : BitVec 8)
  | .ctxs a => packR 47 (0 : BitVec 6) a (0 : BitVec 6) (7 : BitVec 8)
  | .ctxr d a => packR 47 d a (0 : BitVec 6) (8 : BitVec 8)
  | .seal a => packR 47 (0 : BitVec 6) a (0 : BitVec 6) (9 : BitVec 8)
  | .capw a b => packR 47 (0 : BitVec 6) a b (10 : BitVec 8)
  | .capr d a => packR 47 d a (0 : BitVec 6) (11 : BitVec 8)
  | .tbr d => packR 47 d (0 : BitVec 6) (0 : BitVec 6) (12 : BitVec 8)
  | .idle => packR 47 (0 : BitVec 6) (0 : BitVec 6) (0 : BitVec 6) (13 : BitVec 8)
  | .ovli a => packR 47 (0 : BitVec 6) a (0 : BitVec 6) (14 : BitVec 8)
  | .vaddInt td ta tb sh mask => packT 48 td ta tb sh mask (1 : BitVec 8)
  | .vsubInt td ta tb sh mask => packT 48 td ta tb sh mask (2 : BitVec 8)
  | .vmulInt td ta tb sh mask => packT 48 td ta tb sh mask (3 : BitVec 8)
  | .vmulh td ta tb sh mask => packT 48 td ta tb sh mask (4 : BitVec 8)
  | .vmacInt td ta tb sh mask => packT 48 td ta tb sh mask (5 : BitVec 8)
  | .vqadd td ta tb sh mask => packT 48 td ta tb sh mask (6 : BitVec 8)
  | .vqsub td ta tb sh mask => packT 48 td ta tb sh mask (7 : BitVec 8)
  | .vminInt td ta tb sh mask => packT 48 td ta tb sh mask (8 : BitVec 8)
  | .vmaxInt td ta tb sh mask => packT 48 td ta tb sh mask (9 : BitVec 8)
  | .vabsInt td ta sh mask => packT 48 td ta (0 : BitVec 4) sh mask (10 : BitVec 8)
  | .vnegInt td ta sh mask => packT 48 td ta (0 : BitVec 4) sh mask (11 : BitVec 8)
  | .vavg td ta tb sh mask => packT 48 td ta tb sh mask (12 : BitVec 8)
  | .vaddFp td ta tb sh mask rf => packT 49 td ta tb sh mask ((1 : BitVec 5) ++ rf.code)
  | .vsubFp td ta tb sh mask rf => packT 49 td ta tb sh mask ((2 : BitVec 5) ++ rf.code)
  | .vmulFp td ta tb sh mask rf => packT 49 td ta tb sh mask ((3 : BitVec 5) ++ rf.code)
  | .vdiv td ta tb sh mask rf => packT 49 td ta tb sh mask ((4 : BitVec 5) ++ rf.code)
  | .vmacFp td ta tb sh mask rf => packT 49 td ta tb sh mask ((5 : BitVec 5) ++ rf.code)
  | .vminFp td ta tb sh mask rf => packT 49 td ta tb sh mask ((6 : BitVec 5) ++ rf.code)
  | .vmaxFp td ta tb sh mask rf => packT 49 td ta tb sh mask ((7 : BitVec 5) ++ rf.code)
  | .vabsFp td ta sh mask => packT 49 td ta (0 : BitVec 4) sh mask (64 : BitVec 8)
  | .vnegFp td ta sh mask => packT 49 td ta (0 : BitVec 4) sh mask (72 : BitVec 8)
  | .vsqrt td ta sh mask rf => packT 49 td ta (0 : BitVec 4) sh mask ((10 : BitVec 5) ++ rf.code)
  | .vand td ta tb sh mask => packT 50 td ta tb sh mask (1 : BitVec 8)
  | .vor td ta tb sh mask => packT 50 td ta tb sh mask (2 : BitVec 8)
  | .vxor td ta tb sh mask => packT 50 td ta tb sh mask (3 : BitVec 8)
  | .vandn td ta tb sh mask => packT 50 td ta tb sh mask (4 : BitVec 8)
  | .vnot td ta sh mask => packT 50 td ta (0 : BitVec 4) sh mask (5 : BitVec 8)
  | .vshl td ta tb sh mask => packT 50 td ta tb sh mask (6 : BitVec 8)
  | .vshr td ta tb sh mask => packT 50 td ta tb sh mask (7 : BitVec 8)
  | .vsar td ta tb sh mask => packT 50 td ta tb sh mask (8 : BitVec 8)
  | .vclmul td ta tb sh mask => packT 50 td ta tb sh mask (9 : BitVec 8)
  | .vceq td ta tb sh mask => packT 50 td ta tb sh mask (10 : BitVec 8)
  | .vclt td ta tb sh mask => packT 50 td ta tb sh mask (11 : BitVec 8)
  | .vcle td ta tb sh mask => packT 50 td ta tb sh mask (12 : BitVec 8)
  | .vmov td ta sh mask => packT 51 td ta (0 : BitVec 4) sh mask (1 : BitVec 8)
  | .vbcast td ta sh mask => packT 51 td ta (0 : BitVec 4) sh mask (2 : BitVec 8)
  | .vtrn td ta sh mask => packT 51 td ta (0 : BitVec 4) sh mask (3 : BitVec 8)
  | .vperm td ta tb sh mask => packT 51 td ta tb sh mask (4 : BitVec 8)
  | .vcpr td ta tb sh => packT 51 td ta tb sh (0 : BitVec 4) (5 : BitVec 8)
  | .vexd td ta tb sh => packT 51 td ta tb sh (0 : BitVec 4) (6 : BitVec 8)
  | .vscan td ta sh mask => packT 51 td ta (0 : BitVec 4) sh mask (7 : BitVec 8)
  | .vrsum td ta sh mask => packT 51 td ta (0 : BitVec 4) sh mask (8 : BitVec 8)
  | .vrmin td ta sh mask => packT 51 td ta (0 : BitVec 4) sh mask (9 : BitVec 8)
  | .vrmax td ta sh mask => packT 51 td ta (0 : BitVec 4) sh mask (10 : BitVec 8)
  | .vrot td ta tb sh mask => packT 51 td ta tb sh mask (11 : BitVec 8)
  | .vld td b sh => packX 52 td (0 : BitVec 4) b sh (1 : BitVec 10)
  | .vst td b sh => packX 52 td (0 : BitVec 4) b sh (2 : BitVec 10)
  | .vldg td ta b sh => packX 52 td ta b sh (3 : BitVec 10)
  | .vstg td ta b sh => packX 52 td ta b sh (4 : BitVec 10)
  | .vcvt td ta shx sh mask rf => packT 53 td ta ((0 : BitVec 2) ++ shx) sh mask ((1 : BitVec 5) ++ rf.code)
  | .vexp2 td ta sh mask rf => packT 53 td ta (0 : BitVec 4) sh mask ((2 : BitVec 5) ++ rf.code)
  | .vlog2 td ta sh mask rf => packT 53 td ta (0 : BitVec 4) sh mask ((3 : BitVec 5) ++ rf.code)
  | .vrcp td ta sh mask rf => packT 53 td ta (0 : BitVec 4) sh mask ((4 : BitVec 5) ++ rf.code)
  | .vrsq td ta sh mask rf => packT 53 td ta (0 : BitVec 4) sh mask ((5 : BitVec 5) ++ rf.code)
  | .vrcps td ta tb sh mask rf => packT 53 td ta tb sh mask ((6 : BitVec 5) ++ rf.code)
  | .vrsqs td ta tb sh mask rf => packT 53 td ta tb sh mask ((7 : BitVec 5) ++ rf.code)
  | .vrnd td sh mask => packT 53 td (0 : BitVec 4) (0 : BitVec 4) sh mask (64 : BitVec 8)
  | .vclr td sh mask => packT 53 td (0 : BitVec 4) (0 : BitVec 4) sh mask (72 : BitVec 8)
  | .vpop td ta sh mask => packT 53 td ta (0 : BitVec 4) sh mask (80 : BitVec 8)
  | .vsh d a sh fmt => packS d a sh (fmt.code) (1 : BitVec 7)
  | .vsp => packS (0 : BitVec 6) (0 : BitVec 6) (0 : BitVec 2) (0 : BitVec 5) (2 : BitVec 7)
  | .vshq d sh => packS d (0 : BitVec 6) sh (0 : BitVec 5) (3 : BitVec 7)
  | .vmsk td b sh => packX 54 td (0 : BitVec 4) b sh (4 : BitVec 10)
  | .vadds td ta b sh rf => packX 55 td ta b sh ((1 : BitVec 7) ++ rf.code)
  | .vsubs td ta b sh rf => packX 55 td ta b sh ((2 : BitVec 7) ++ rf.code)
  | .vmuls td ta b sh rf => packX 55 td ta b sh ((3 : BitVec 7) ++ rf.code)
  | .vmins td ta b sh rf => packX 55 td ta b sh ((4 : BitVec 7) ++ rf.code)
  | .vmaxs td ta b sh rf => packX 55 td ta b sh ((5 : BitVec 7) ++ rf.code)
  | .vsplat td b sh => packX 55 td (0 : BitVec 4) b sh (48 : BitVec 10)
  | .vext ta d sh => packX 55 (0 : BitVec 4) ta d sh (56 : BitVec 10)
  | .vins td b sh => packX 55 td (0 : BitVec 4) b sh (64 : BitVec 10)
  | .nop x => packJ 56 x
  | .ovlh x => packJ 57 x
  | .hintDest hi d x => packL ((0x1D : BitVec 5) ++ hi) d x
  | .resultArrival => 0
  | .writeAtHome => 0
  | .feAccessAtHome => 0
  | .feRequestBounce => 0
  | .atomicAtHome => 0
  | .barArrivalAtHome => 0
  | .chunkClaim => 0
  | .memberStart => 0
  | .epochAdvance => 0
  | .sharedDelivery => 0
  | .fold => 0
  | .breakAtHome => 0
  | .copyElementWrite => 0
  | .copyComplete => 0
  | .engineFaultStop => 0
  | .streamElementArrival => 0
  | .overlayLoadComplete => 0
  | .matrixCommandAccept => 0
  | .matrixRowCommit => 0
  | .matrixRowDrain => 0
  | .rowHandlerStart => 0
  | .matrixCommandComplete => 0
  | .matrixCommandStop => 0
  | .taskAccept => 0
  | .taskStart => 0
  | .taskAbort => 0
  | .taskNonspeculative => 0
  | .taskCommit => 0
  | .ksendBinStep => 0
  | .rxaConfigTake => 0
  | .edgeRunStart => 0
  | .edgeHandlerStart => 0
  | .edgeCombine => 0
  | .edgeApplyPhase => 0
  | .edgeRoundEnd => 0
  | .edgeRunStop => 0
  | .collSignal => 0
  | .collComplete => 0
  | .trapDelivery => 0
  | .launchRecordCopy => 0
  | .launchStart => 0
  | .launchPreempt => 0
  | .launchRestore => 0
  | .launchEnd => 0
  | .gangMiss => 0
  | .checkerMismatch => 0
  | .errorEvent => 0
  | .lastingFault => 0
  | .errorWindowExpiry => 0
  | .scrub => 0
  | .coreKill => 0
  | .sealedMailboxReply => 0
  | .parkedQueueReplay => 0
  | .parkedRequestDiscard => 0
  | .retryTimeout => 0
  | .tagEntryExpiry => 0
  | .flitReceive => 0
  | .portRetrain => 0
  | .eyeMarginWindow => 0
  | .rateUpTimeout => 0
  | .timebaseSync => 0
  | .powerClockStep => 0
  | .powerOnReset => 0
  | .bootDoorbell => 0
  | .bootImageTimeout => 0
  | .kernelCompletionTimeout => 0
  | .loadImage => 0
  | .createContext => 0
  | .endContext => 0
  | .submitLaunch => 0
  | .mapPages => 0
  | .unmapPages => 0
  | .attest => 0
  | .writeKernelSlot => 0
  | .restartKernel => 0
  | .handoverTimeout => 0
  | .unknownCommand => 0
  | .eventHeadDoorbell => 0
  | .hostBar2Access => 0
  | .hostAtomic => 0
  | .mgmtPowerLimit => 0
  | .mgmtLinkRateUp => 0
  | .mgmtReset => 0
  | .mgmtStartCounterClear => 0
  | .mgmtTelemetry => 0
  | .errwinWrite => 0
  | .ctxcfgWrite => 0
  | .seedWrite => 0
  | .heldWindowWrite => 0
  | .heldEngineWrite => 0
  | .illegalInstruction => 0
  | .overlayMiss => 0
  | .globalDelivery => 0
  | .gangStartTick => 0

/-- The four bytes of a word as the hardware stores them, least significant first (R4). -/
def bytesOfWord (w : IWord) : List Byte :=
  [w.extractLsb' 0 8, w.extractLsb' 8 8, w.extractLsb' 16 8, w.extractLsb' 24 8]

/-- The bytes of an instruction, as fetched. -/
def encodeBytes (i : Instr) : List Byte := bytesOfWord (encode i)

/-- The instruction the decoder reads from the bits w, numbered as the opcode table numbers them. Every instruction is
one 32-bit word, so the bits above 31 do not belong to it; bits at and above `nbits` are 0. -/
def decodeTableWord (nbits w : Nat) : Option Instr :=
  match decode (bytesOfWord (BitVec.ofNat 32 (w % 2 ^ nbits))) with
  | .ok (i, _) => some i
  | .error _ => none

end Sys2Proof
end

