-- ==== Sys2Proof/Config.lean ====
section
/-! DEFINITION. What is fixed for one device but not stated by the spec: opaque constants without a body, so that nothing
can be proved from a value of them. `freeWord` supplies the values the spec leaves open, each use with a fresh counter of
the state (log 9); the others stand for fused data (R426, R429) and for the serial number. -/
namespace Sys2Proof

/-- The value the spec leaves open at the n-th such point of a run (log 9). -/
opaque Config.freeWord : Nat → Word

/-- SHA-256 of the vendor public key, in fuses (R426, log 14). -/
opaque Config.vendorKeyHash : Nat

/-- The fused rollback counter (R426, log 14). -/
opaque Config.rollbackCounter : Nat

/-- The public part of the identity key, x then y, 512 bits (R429, log 14). -/
opaque Config.identityKey : Nat

/-- The 128-bit device serial number (R429, log 14). -/
opaque Config.serial : Nat

/-- The ECDSA signature by the fused identity key of a digest, r then s, 512 bits (R429, log 14). -/
opaque Config.identitySign : Nat → Nat

end Sys2Proof
end

