-- ==== Sys2Proof/Machine/Event.lean ====
section
/-! DEFINITION. What a step that is no instruction acts on: the request, core, command or host's values it concerns. One
constructor for each of the table's 94 such rows, with the choices the spec leaves to the outside, to timing or to the order
of agents as its arguments (log 1). -/
namespace Sys2Proof.Machine

/-- Page sizes of a leaf (R249). -/
inductive PageSize where
  | p64K | p2M | p1G
deriving DecidableEq, Repr

/-- A reporting site as ERRSEL names it (R439). -/
structure Site where
  kind  : BitVec 3
  index : BitVec 13
deriving DecidableEq, Repr

/-- Where a checker mismatch arises (R400). -/
inductive CheckUnit where
  /-- the scalar pipe or the tile ALU, at the next instruction of a thread -/
  | pipe (core : Nat) (slot : Nat)
  /-- the matrix unit, forming the next row of the running command -/
  | matrix (core : Nat)
  /-- the copy engine, at an element of the slot's first command -/
  | copy (core : Nat) (slot : Nat) (elem : Nat)
  /-- the copy engine, at an element of an output stream (R251) -/
  | stream (req : Nat)
  /-- the edge engine -/
  | edge (run : Nat)
  /-- an urn bank or receive-and-accumulate unit carrying out a request; `again` is a second mismatch -/
  | bank (req : Nat) (again : Bool)
  /-- a receive-and-accumulate unit carrying out a hardware combine of an edge run (R365); `again` is a second mismatch -/
  | combine (run : Nat) (item : Nat) (again : Bool)
  /-- a control core; `again` is a second mismatch -/
  | control (cc : Nat) (again : Bool)
  /-- a core's control logic (R406) -/
  | logic (core : Nat)
deriving DecidableEq, Repr

/-- What an error event does besides being counted (R401, R403 to R406). -/
inductive ErrorKind where
  /-- corrected in place: in a memory word or line, or in another array or a port -/
  | correctable (key : Option Nat)
  /-- an uncorrectable error in a memory word or line -/
  | memory (key : Nat)
  /-- in an instruction memory fetch of one of a core's two slots (R404) -/
  | imem (core : Nat) (islot : Nat)
  /-- in a window register of a thread -/
  | register (core : Nat) (slot : Nat) (w : RegNo)
  /-- in a tile register of a thread -/
  | tile (core : Nat) (slot : Nat) (t : TileNo)
  /-- in an accumulator row -/
  | accRow (core : Nat) (tile : BitVec 2) (row : BitVec 5)
  /-- in a core's control state (R406) -/
  | control (core : Nat)
deriving DecidableEq, Repr

/-- PCIe AtomicOps of 64 bits (R150, R414). -/
inductive HostAtomicOp where
  | fetchAdd | swap | cas
deriving DecidableEq, Repr

/-- The accesses that reach this device from another one over the fabric (R150, R418). -/
inductive RemoteAccess where
  | load | ldf | lde | fstat | store | stf | ste | stm | cas | ldrd
  | amo (op : AmoOp)
  | red (op : AmoOp)
deriving DecidableEq, Repr

/-- The registers of BAR 0 (R414). -/
inductive Bar0Reg where
  | commandBase | commandSize | commandTail | eventBase | eventSize | eventHead | bootStatus | bootDoorbell
deriving DecidableEq, Repr

/-- What the outside, or the device kernel's own policy, sets without a step of the table: the message port's registers in BAR 0
(R414, R415), BAR 2's page table by 64 KiB pages (R414), the fabric configuration (R182, R418, R419), a port's first training, the
key of the management port (R430), a kernel thread on a control core (R18), the pages of host memory on which the host's IOMMU
faults (R412), the retirement of pages (R402, R417), a request that arrives from another device (R418), and the flits that the
fabric switch forwards (R419). -/
inductive Setup where
  | commandRing (base size : Nat)
  | eventRing (base size : Nat)
  | bar2Page (page : Nat) (pa : Option Nat)
  | fabricNumber (n : Nat)
  | group (g : Nat) (members : List Nat)
  | portUp (port : Nat)
  | mgmtKey
  /-- the device kernel starts a thread on control core `cc` in a slot, for a context, from an entry address, its first locals given -/
  | kernelThread (cc : Nat) (slot : Nat) (ctx : Nat) (entry : CodeAddr) (locals : List Word)
  /-- the instruction memory of a control core holds these bytes as an overlay of the kernel's -/
  | kernelCode (cc : Nat) (islot : Nat) (ctx : Nat) (overlay : Nat) (bytes : List Byte)
  /-- the host's IOMMU faults on a 64 KiB page of host memory, or does so no longer -/
  | hostIommu (page : Nat) (ok : Bool)
  | deviceGroups (n : Nat)
  /-- the device kernel begins to retire a page -/
  | pageRetiring (page : Nat)
  /-- the page is migrated to another one and unmapped -/
  | pageRetired (page target : Nat)
  /-- the host reads a register of BAR 0 -/
  | bar0Read (x : Bar0Reg)
  /-- the command ring's tail doorbell -/
  | commandTail (tail : Nat)
  /-- a request of a core of another device, by their numbers, for an offset of this device's unicast window -/
  | remoteRequest (src : Nat) (core : Nat) (tag : Nat) (ctx : Nat) (off : Nat) (width : Nat) (b e : Word) (what : RemoteAccess)
  /-- the switch's route table: the port toward a device -/
  | switchRoute (dst : Nat) (port : Nat)
  /-- the switch takes a flit of a source and destination pair -/
  | forwardFlit (src dst : Nat)
  /-- the oldest flit of a port has been delivered -/
  | flitOut (port : Nat)
deriving DecidableEq, Repr

/-- The subject of a step that is no instruction. `none` stands before any such step. -/
inductive Event where
  /-- no such step has been taken -/
  | none
  /-- A delayed result is written full to its destination and the counter falls (R126); v is the value a remote device returns and `bad` says that its word held an uncorrectable error (R156, R405); both are ignored for every other request. -/
  | resultArrival (req : Nat) (v : Word) (bad : Bool)
  /-- The answers to an `ldrd` arrive (R126, R165): `words` are what the group's other members read, in rank order, `order` names, one pair after another, the values that the switches sum, and `bad` says that another member's word held an uncorrectable error. -/
  | ldrdArrival (req : Nat) (words : List Word) (order : List (Nat × Nat)) (bad : Bool)
  /-- A write is performed at its home (R294). -/
  | writeAtHome (req : Nat)
  /-- A full/empty access reaches its home and waiting requests are served in arrival order (R162). -/
  | feAccessAtHome (req : Nat)
  /-- The remote home of an `lde` or `ste` answers whether it accepts the request: its word has a state bit (R150, R162). -/
  | feAccepted (req : Nat) (ok : Bool)
  /-- A home with no room returns a waiting request, which the core resends (R162). -/
  | feRequestBounce (req : Nat)
  /-- An atomic, red or cas is performed indivisibly at its home (R170); merge names a second red that a router has merged with it (R155). -/
  | atomicAtHome (req : Nat) (merge : Option Nat)
  /-- A barrier arrival updates the word and a completing arrival releases waiters (R203). -/
  | barArrivalAtHome (req : Nat)
  /-- A core of the place claims a chunk of members from the home (R190). -/
  | chunkClaim (core : Nat) (fam : Nat)
  /-- A core starts the next member of its chunk once resources are free (R191); stack is the place the core chooses for its stack (R252). -/
  | memberStart (core : Nat) (fam : Nat) (stack : Nat)
  /-- The 20-bit thread counter wraps and the epoch seed is jumped by 2^84 steps (R278). -/
  | epochAdvance (ctx : Nat)
  /-- A shared write arrives as a register message and fills the successor's dependent (R181). -/
  | sharedDelivery (msg : Nat)
  /-- An unplaced fold-capable family runs its members in the creator's slot (R192). -/
  | fold (core : Nat) (slot : Nat) (stack : Nat)
  /-- The first break reaching the home stops chunk handout and kills unfinished members (R200). -/
  | breakAtHome (msg : Nat)
  /-- A copy or chain element write is performed, setting words full (R262). -/
  | copyElementWrite (core : Nat) (slot : Nat) (elem : Nat)
  /-- A copy or chain command finishes, resetting PROGRESS and lowering C (R262). -/
  | copyComplete (core : Nat) (slot : Nat)
  /-- A copy or chain access fails; the command stops, later commands drop and a trap is delivered (R265). -/
  | engineFaultStop (core : Nat) (slot : Nat) (elem : Nat)
  /-- An input port's fetched element arrives for its reader (R269). -/
  | streamElementArrival (core : Nat) (slot : Nat) (port : Nat)
  /-- An overlay load ends; the hash check makes the slot valid or invalid and quarantines on failure (R276). -/
  | overlayLoadComplete (core : Nat) (islot : Nat)
  /-- A matrix command that travelled over the mesh enters the queue and its uncommitted rows become empty (R303). -/
  | matrixCommandAccept (msg : Nat)
  /-- A computed accumulator row is committed whole and set full (R310). -/
  | matrixRowCommit (core : Nat)
  /-- A committed row is drained to memory (R312). -/
  | matrixRowDrain (core : Nat) (cmd : Nat)
  /-- A row handler starts in slot 29 or 30 for a committed row (R315). -/
  | rowHandlerStart (core : Nat) (cmd : Nat)
  /-- A matrix command completes, its flags joining the issuer's and M falling (R310). -/
  | matrixCommandComplete (core : Nat) (cmd : Nat)
  /-- A matrix command stops at a row boundary with its progress recorded (R313). -/
  | matrixCommandStop (core : Nat) (cmd : Nat)
  /-- A task record is accepted into a queue and given its key (R344). -/
  | taskAccept (req : Nat)
  /-- A core starts the least-keyed reachable queued task (R345). -/
  | taskStart (core : Nat) (task : Nat) (stack : Nat)
  /-- A conflicting task and its descendants are rolled back and requeued (R348). -/
  | taskAbort (task : Nat)
  /-- A task becomes non-speculative and its buffered stores are performed (R350). -/
  | taskNonspeculative (task : Nat)
  /-- A non-speculative exited task commits in key order (R350). -/
  | taskCommit (task : Nat)
  /-- The receive-and-accumulate unit applies a keyed send to its bin (R357); merge names a second send that a router has merged with it. -/
  | ksendBinStep (req : Nat) (merge : Option Nat)
  /-- A core takes a bin table configuration (R355). -/
  | rxaConfigTake (req : Nat) (core : Nat)
  /-- An edge run starts once no other run holds a core of its place (R362). -/
  | edgeRunStart (run : Nat)
  /-- The engine starts a scatter, combine or apply thread when resources allow (R361). -/
  | edgeHandlerStart (run : Nat) (item : Nat) (stack : Nat)
  /-- A message is combined into a destination's acc (R365). -/
  | edgeCombine (run : Nat) (item : Nat)
  /-- After every scatter and combine ends, applies start for received vertices (R363). -/
  | edgeApplyPhase (run : Nat)
  /-- After every apply ends, results are stored, frontiers swapped, counts measured and the log written (R363). -/
  | edgeRoundEnd (run : Nat)
  /-- An edge run stops on a fault and reports under the engine rules (R368). -/
  | edgeRunStop (run : Nat)
  /-- A collective signal word is filled once its range is performed (R423); others has an entry for each element of the range: what the other members of the group contribute to it, in rank order (for a copied element its value alone), and the pairs in whose order the engine sums. -/
  | collSignal (coll : Nat) (j : Nat) (others : List (List Word × List (Nat × Nat)))
  /-- A collective ends, writing its status word and lowering C (R422); others has such an entry for every element of the result, or under a status that leaves recv indeterminate what the element holds, if anything. -/
  | collComplete (coll : Nat) (status : Nat) (others : List (List Word × List (Nat × Nat)))
  /-- A queued trap delivery starts the handler in slot 31 (R383). -/
  | trapDelivery (core : Nat)
  /-- The arbiter copies a submitted record, checks it, writes the status and empties the port (R373). -/
  | launchRecordCopy (ctx : Nat)
  /-- An eligible launch is given a free place and its root family is made (R378); areas are the places the kernel chooses for default areas and their tables: save physical and virtual, spill physical and virtual, then blocks (R372). -/
  | launchStart (launch : Nat) (areas : List Nat)
  /-- A launch's cores are stopped and its save image written (R387). -/
  | launchPreempt (launch : Nat)
  /-- A pre-empted launch is restored from its image when its place is free (R391). -/
  | launchRestore (launch : Nat)
  /-- The root family has ended; cores are released and the done word written (R378). -/
  | launchEnd (launch : Nat)
  /-- A gang-miss message makes every device abandon the gang launch (R379). -/
  | gangMiss (launch : Nat)
  /-- A residue, parity or duplicate checker disagrees and the unit reacts (R400). -/
  | checkerMismatch (unit : CheckUnit)
  /-- A reporting site counts an error event in its window (R401). -/
  | errorEvent (site : Site) (what : ErrorKind)
  /-- A site's fourth event in a window makes its fault lasting and is acted on (R402). -/
  | lastingFault (site : Site)
  /-- A site's error window ends and its count returns to zero (R401). -/
  | errorWindowExpiry (site : Site)
  /-- Background scrubbing reads and corrects a word or line (R403). -/
  | scrub (key : Nat)
  /-- A core is killed, its threads killed and its mailboxes sealed (R407). -/
  | coreKill (core : Nat)
  /-- A message meeting a sealed core is answered in place of its data (R408). -/
  | sealedMailboxReply (req : Nat)
  /-- The kernel replays a home's parked requests in arrival order (R412). -/
  | parkedQueueReplay (home : Nat)
  /-- The kernel discards a parked request, poisoning or making it indeterminate (R412). -/
  | parkedRequestDiscard (req : Nat)
  /-- A tagged remote request unanswered after 2 microseconds is retried, ending indeterminate after eight retries (R413). -/
  | retryTimeout (req : Nat)
  /-- A home's tag window entry ages past 32 microseconds and may be reused (R413). -/
  | tagEntryExpiry (core : Nat) (tag : Nat)
  /-- A flit is received, corrected, CRC-checked and acknowledged or replayed (R411). -/
  | flitReceive (port : Nat) (seq : Nat) (crcOk : Bool)
  /-- Eight consecutive replays make the port retrain, or go down on failure (R411). -/
  | portRetrain (port : Nat) (ok : Bool)
  /-- Each 1 ms window's margin predictions may step the port down a rung (R411). -/
  | eyeMarginWindow (port : Nat) (margins : List Nat)
  /-- Ten quiet minutes step the port up one rung (R411). -/
  | rateUpTimeout (port : Nat)
  /-- A timing message slews the time base toward the master (R420). -/
  | timebaseSync (master : Word)
  /-- Measured power lowers or restores the arithmetic clock by 25 MHz (R23). -/
  | powerClockStep (watts : Nat)
  /-- The boot ROM starts, counts the start and awaits a stage-1 image or enters minimal mode (R424). -/
  | powerOnReset (powerCycle : Bool) (memoryOk : Bool) (diesOk : Bool)
  /-- The host's length write ends the boot wait and starts image verification (R425). -/
  | bootDoorbell (len : Word)
  /-- No stage-1 image within 60 s fails the start with reason 0x01 (R427). -/
  | bootImageTimeout
  /-- No kernel completion within 30 s fails the start with reason 0x06 (R427). -/
  | kernelCompletionTimeout
  /-- Message port command 0x01 checks and loads an NKI file (R416); places are the physical bases the kernel chooses for its sections. -/
  | loadImage (tag : BitVec 32) (ctx : Nat) (addr : Nat) (len : Nat) (places : List Nat)
  /-- Command 0x02 creates a context and returns its number and launch port (R416); tables are the places the kernel chooses for its translation root and launch port. -/
  | createContext (tag : BitVec 32) (p : Word) (q : Word) (cfg : Word) (tables : List Nat)
  /-- Command 0x03 ends a context with no running launches (R416). -/
  | endContext (tag : BitVec 32) (ctx : Nat)
  /-- Command 0x04 submits a launch record to the arbiter (R416). -/
  | submitLaunch (tag : BitVec 32) (ctx : Nat) (addr : Nat)
  /-- Command 0x05 maps a range of pages (R416), with the command's size code and permissions; tables are the blocks the kernel takes for new tables. -/
  | mapPages (tag : BitVec 32) (ctx : Nat) (va : Word) (pa : Word) (count : Nat) (size : Nat) (perm : Nat) (tables : List Nat)
  /-- Command 0x06 unmaps pages with a tlbi per page (R416). -/
  | unmapPages (tag : BitVec 32) (ctx : Nat) (va : Word) (count : Nat) (size : Nat)
  /-- Command 0x07 writes a signed attestation report (R429). -/
  | attest (tag : BitVec 32) (nonce : List Byte) (addr : Nat)
  /-- Command 0x08 writes and checks a kernel slot image (R431). -/
  | writeKernelSlot (tag : BitVec 32) (slot : Nat) (addr : Nat) (len : Nat)
  /-- Command 0x09 hands over the control cores to a kernel slot (R431). -/
  | restartKernel (tag : BitVec 32) (slot : Nat)
  /-- A new kernel that does not adopt within 2 s is replaced by the old slot (R431). -/
  | handoverTimeout
  /-- An unallocated opcode completes with status 7 and no effect (R416). -/
  | unknownCommand (tag : BitVec 32) (opcode : Nat) (ctx : Nat)
  /-- The host frees event ring room and held events are posted (R417). -/
  | eventHeadDoorbell (head : Nat)
  /-- A host access through BAR 2 reaches GDDR 7 (R414); an empty data list is a read. -/
  | hostBar2Access (off : Nat) (data : List Byte)
  /-- A host PCIe AtomicOp is performed on device memory (R414). -/
  | hostAtomic (off : Nat) (op : HostAtomicOp) (v : Word) (cmp : Word)
  /-- A management command sets the power limit (R430). -/
  | mgmtPowerLimit (hmacOk : Bool) (watts : Nat)
  /-- A management command steps a port up one rung (R411). -/
  | mgmtLinkRateUp (hmacOk : Bool) (port : Nat)
  /-- An out-of-band management reset (R430). -/
  | mgmtReset (hmacOk : Bool) (memoryOk : Bool) (diesOk : Bool)
  /-- A management command clears the start counter (R424). -/
  | mgmtStartCounterClear (hmacOk : Bool)
  /-- A management request returns telemetry and logs (R430). -/
  | mgmtTelemetry
  /-- A write of ERRWIN restarts every site's window with zero counts (R438). -/
  | errwinWrite (v : Word)
  /-- A write of CTXCFG propagates to every core of the context (R444): one core takes the value, or, with no core named, all have it and the write completes. -/
  | ctxcfgWrite (ctx : Nat) (core : Option Nat)
  /-- A seed write sets the epoch seed and zeroes the thread counter (R278). -/
  | seedWrite (ctx : Nat) (half : BitVec 1) (v : Word)
  /-- A handler write of a held thread's window register sets it full and unpoisoned (R394). -/
  | heldWindowWrite (core : Nat) (w : RegNo) (v : Word)
  /-- A handler write of a held thread's engine register acts as ewr (R394). -/
  | heldEngineWrite (core : Nat) (e : BitVec 5) (v : Word)
  /-- A fetched word that is not an instruction raises the precise illegal-instruction trap 0x01 (R56). -/
  | illegalInstruction (w : IWord)
  /-- A fetch whose PC overlay matches no slot raises 0x0C, or 0x0D when the matching slot is invalid (R89). -/
  | overlayMiss
  /-- A value given by fput or fput.s arrives at a core holding the family and fills the globals or member 0's dependents (R197). -/
  | globalDelivery (msg : Nat) (core : Nat)
  /-- When the time base reaches a gang launch's start tick and this device cannot start its share, it sends a gang-miss message to the group (R379). -/
  | gangStartTick (launch : Nat)
deriving DecidableEq, Repr

end Sys2Proof.Machine
end

