-- ==== Sys2Proof/Machine/State.lean ====
section
/-! DEFINITION. The state of the device as plain data: everything the spec gives the machine, and the model's own fields
that say which agent moves next (log 1). -/
namespace Sys2Proof.Machine

/-- Why a step can stop the run. -/
inductive Fault where
  /-- `exec` was asked to run an instruction word while no live thread stands at the focus; raised by every meaning of an
  instruction word. Safe: the spec gives an instruction no effect outside a thread. -/
  | noThread
deriving DecidableEq, Repr

/-- Why a step gives no meaning. -/
inductive Refusal where
  /-- raised by an arm of `exec` whose meaning has not been written. Safe: nothing is claimed of it. -/
  | notModelled (mnemonic : String)
deriving DecidableEq, Repr

/-- A table of values by number: keys rising, at most one entry for each (log 2). -/
abbrev SMap (α : Type) := List (Nat × α)

/-- The states of R175, and `free` for a slot that holds no thread. -/
inductive Status where
  | free | notStarted | ready | waitReg | waitHome | waitFamily | trapped | folding | killed | ended
deriving DecidableEq, Repr

/-- What a thread is (11, R447, R381). -/
inductive Kind where
  | member | task | rowHandler | trapHandler | edgeHandler | kernel
deriving DecidableEq, Repr

/-- A thread header's fields (R176) and its virtual address. -/
structure Header where
  addr  : Nat
  entry : CodeAddr
  g     : Nat
  s     : Nat
  l     : Nat
  tiles : Nat
  flags : BitVec 16
  stack : Nat
deriving DecidableEq, Repr

/-- A scalar register: value, full/empty bit, poison bit, the indeterminate state with the atomic's address and PC (R173),
and whether a result for it is outstanding (R126, R127). -/
structure Reg where
  val       : Word
  full      : Bool
  poison    : Bool
  indet     : Bool
  indetAddr : Word
  indetPc   : CodeAddr
  pend      : Bool
deriving DecidableEq, Repr

/-- A register as it stands before anything is written to it: empty. -/
def Reg.empty : Reg := ⟨0, false, false, false, 0, 0, false⟩

/-- An entry of a thread's family table (R188). -/
structure FamEntry where
  handle : Word
  fam    : Nat
  synced : Bool
  stamp  : Nat
deriving DecidableEq, Repr

/-- A shape record as checked (R257). -/
structure ShapeRec where
  addr : Word
  base : Word
  fmt  : Nat
  scale : Nat
  swz  : Nat
  rank : Nat
  ext  : List Nat
  str  : List Word
deriving DecidableEq, Repr

/-- An element an input port has fetched: its register value, or the cause of the failed fetch (R269, R271). -/
structure Fetched where
  val   : Word
  cause : Nat
  addr  : Word
deriving DecidableEq, Repr

/-- A stream port with its binding, the number of its `sbind` and its PC (R254, R268); a `stopped` output port appends nothing more
(R251). -/
structure Port where
  id       : Nat
  reg      : RegNo
  addr     : Word
  output   : Bool
  waitFull : Bool
  pc       : CodeAddr
  shape    : ShapeRec
  pos      : Nat
  stopped  : Bool
  fetched  : List Fetched
deriving DecidableEq, Repr

/-- A fence that still waits: the events before it, the successor set it holds, and its PC (R296, R297). `appends` names those of
the events that are results owed to output-bound names, whose elements it waits for too (R287). -/
structure FenceHold where
  before : List Nat
  sset   : BitVec 6
  pc     : CodeAddr
  appends : List Nat
deriving DecidableEq, Repr

/-- A trap that waits to be raised (R265, R319, R354): cause, detail, the PC of the instruction that led to it, and the PC of
the fence that was waiting for the stopped command (R297). -/
structure PendingTrap where
  cause  : Nat
  detail : Word
  pc     : CodeAddr
  fen    : Option CodeAddr
deriving DecidableEq, Repr

/-- A copy or chain command with its snapshot (R262, R266): the elements performed, those of them whose source held an error (R405), and the signal words written. -/
structure CopyCmd where
  id    : Nat
  slot  : Nat
  uid   : Nat
  ctx   : Nat
  chain : Bool
  pc    : CodeAddr
  a     : Word
  b     : Word
  src   : ShapeRec
  dst   : ShapeRec
  y     : Option ShapeRec
  regs  : SMap Word
  cfg   : Word
  start : Nat
  done  : List Nat
  bad   : List Nat
  sigs  : Nat
deriving DecidableEq, Repr

/-- A thread, in its slot. `pendQ` and `indetQ` hold what stands behind `pending` and `indetOps`. `cfgWait` says that its `sysw` to CTXCFG has begun (R444). `gangMask` is the mask of the gang whose stop FAULTED tells of, 0 where it tells of none: the
members of a reissue with the mask FAULTED arrive where those of that gang do (R321). The last five fields are those of a creator
while it stands spilled beneath a fold (R193): the registers and tiles the core gave to the fold, the tiles and stack bytes of
the pool that the fold's nest uses so far, and whether this fold took the pool. -/
structure Thread where
  status   : Status
  kind     : Kind
  uid      : Nat
  ctx      : Nat
  fam      : Nat
  member   : Nat
  work     : Nat
  item     : Nat
  hdr      : Header
  pc       : CodeAddr
  regs     : SMap Reg
  tiles    : SMap Byte
  tilePoison : BitVec 16
  shapes   : SMap (BitVec 128)
  point    : Option CodeAddr
  eng      : SMap Word
  fpStatus : BitVec 5
  cntL     : Nat
  cntS     : Nat
  cntC     : Nat
  cntM     : Nat
  genP     : Word
  genQ     : Word
  guard0   : Word
  guard1   : Word
  famTable : List FamEntry
  ports    : List Port
  stackBase : Nat
  frames   : List Nat
  fences   : List FenceHold
  pending  : Option PendingTrap
  pendQ    : List PendingTrap
  indetOps : Option PendingTrap
  indetQ   : List PendingTrap
  errSel   : Word
  ctxSel   : BitVec 9
  cfgWait  : Bool
  gangMask : Nat
  waited   : Nat
  yielded  : Bool
  yieldFor : List Nat
  touched  : List Nat
  wantFold : Nat
  foldRegs : Nat
  foldTiles : Nat
  poolTiles : Nat
  poolStack : Nat
  foldPool : Bool
deriving DecidableEq, Repr

/-- The four states of an instruction memory slot (R89). -/
inductive ImemState where
  | empty | loading | valid | invalid
deriving DecidableEq, Repr

/-- An instruction memory slot (R89, R90), and the load in progress (R276); `drop` says that `ovli` empties it when the load
ends (R399). -/
structure ImemSlot where
  state   : ImemState
  overlay : Nat
  ctx     : Nat
  bytes   : SMap Byte
  fetched : Nat
  drop    : Bool
  loadBy  : Nat
  loadId  : Nat
  loadSlot : Nat
  loadReg : Option RegNo
deriving DecidableEq, Repr

/-- The kinds of an accumulator tile (R302). -/
inductive AccKind where
  | clear | float | integer
deriving DecidableEq, Repr

/-- The commands of the matrix unit (R303, R327). -/
inductive MatOp where
  | mma | s24 | s48 | mmag | mrc | mclr | mdrn | mbs | mss
deriving DecidableEq, Repr

/-- A directory descriptor as read at issue (R333). -/
structure Dir where
  rowptr : Word
  elist  : Word
  nrows  : Nat
  ncols  : Nat
deriving DecidableEq, Repr

/-- A directory entry that has passed its check (R334). -/
structure DirEnt where
  pos    : Nat
  bitmap : Word
  values : Word
deriving DecidableEq, Repr

/-- A matrix command with its snapshot, its issuer and its row progress (R305, R310). `whole` is the mask of the gang that a member
belongs to, that of a reissue's first issue too (R321). `kept` names the rows whose committed
values are held for their drains (R312), `bad` those of them that held an error, `int` their kind; `gang` is 0 outside a
gang. `dirVals` are the fields of directory entries read so far (R342), `hands` the row handlers started (R326). -/
structure MatCmd where
  id    : Nat
  op    : MatOp
  fmt   : Nat
  a     : Word
  b     : Word
  regs  : SMap Word
  cfg   : Word
  ctx   : Nat
  core  : Nat
  slot  : Nat
  uid   : Nat
  pc    : CodeAddr
  d     : RegNo
  p     : Nat
  q     : Nat
  mask  : Nat
  whole : Nat
  gang  : Nat
  row   : Nat
  drn   : Nat
  ended : Bool
  flags : BitVec 5
  header : Header
  fam   : Nat
  dirA  : Dir
  dirB  : Dir
  ents  : Option (List DirEnt × List DirEnt)
  dirVals : List Nat
  hands : List Nat
  held  : SMap (BitVec 32)
  kept  : BitVec 32
  bad   : BitVec 32
  int   : Bool
deriving DecidableEq, Repr

/-- A gang command that has not ended (R320, R321): whether it writes to memory, the mask of the members whose barrier words its members
arrive at, members still running, the first stop's cause, reason and FADDR, the members that have stopped with their ROW and DRN, and
whether a row handler of a member was ended without resuming (R314). -/
structure Gang where
  id      : Nat
  core    : Nat
  slot    : Nat
  uid     : Nat
  ctx     : Nat
  pc      : CodeAddr
  whole   : Nat
  writes  : Bool
  left    : List Nat
  cause   : Nat
  reason  : Nat
  faddr   : Word
  stopped : List (Nat × Nat × Nat)
  ended   : Bool
deriving DecidableEq, Repr

/-- A monitor table entry (R273): the word, its virtual address, its thread, and when it fired (0 not yet). -/
structure Monitor where
  key   : Nat
  va    : Word
  slot  : Nat
  uid   : Nat
  fired : Nat
deriving DecidableEq, Repr

/-- A bin table (R355). -/
structure BinTable where
  ctx   : Nat
  base  : Nat
  nbins : Nat
  op    : Nat
  typ   : Nat
deriving DecidableEq, Repr

/-- An entry of the allocation table (R252). -/
structure Alloc where
  ctx   : Nat
  entry : Nat
  off   : Nat
  size  : Nat
deriving DecidableEq, Repr

/-- A trap delivery (R383): the held thread, what `l1` to `l3` receive, and the copy of the guard record (R254). -/
structure Delivery where
  slot   : Nat
  uid    : Nat
  cause  : Nat
  pc     : CodeAddr
  detail : Word
  guard0 : Word
  guard1 : Word
deriving DecidableEq, Repr

/-- A cached translation (R250): the page of a context, its size, and the leaf entry used. -/
structure TlbEntry where
  ctx  : Nat
  page : Nat
  size : Nat
  leaf : Word
deriving DecidableEq, Repr

/-- A core: 0 to 1,087 are the physical cores (R392), 1,088 + i is control core CCi. -/
structure Core where
  killed  : Bool
  sealed  : Bool
  retired : Bool
  halted  : Bool
  launch  : Nat
  handler : Nat
  im0     : ImemSlot
  im1     : ImemSlot
  acc     : SMap (BitVec 32)
  accKind : SMap AccKind
  rowEmpty  : BitVec 128
  rowPend   : BitVec 128
  rowPoison : BitVec 128
  mq      : List MatCmd
  drains  : List MatCmd
  copies  : List CopyCmd
  caps    : SMap Word
  mons    : List Monitor
  bins    : SMap BinTable
  allocs  : List Alloc
  queue   : List Delivery
  current : Option Delivery
  saveBase : Nat
  poolBy  : Nat
  lastScalar : Nat
  lastEngine : Nat
  tlb     : List TlbEntry
  events  : List Word
  cfg     : SMap Word
deriving DecidableEq, Repr

/-- An overlay in the caddy (R92, R276). -/
structure Overlay where
  num   : Nat
  image : Nat
  hash  : Nat
  bytes : List Byte
  bad   : Bool
deriving DecidableEq, Repr

/-- A `.scratch` section of an image (R41, R252). -/
structure Scratch where
  off   : Nat
  size  : Nat
  bytes : List Byte
deriving DecidableEq, Repr

/-- A live context (R24, R442, R443). `spares` holds the spare cores mapped under the identity core table (R10); `portBy` is the core
whose thread filled the launch port last (R374). `rootNow` is the TROOT in force for pages that no `tlbi` has covered since TROOT was
written, `rootAt` the one in force for those it has, by an address in each, the latest first (R444). -/
structure Context where
  cfg      : Word
  pendCfg  : Option Word
  troot    : Word
  rootNow  : Word
  rootAt   : List (Nat × Word)
  seedP    : Word
  seedQ    : Word
  epochP   : Word
  epochQ   : Word
  threads  : Nat
  coreTbl  : Word
  routeTbl : Word
  expTbl   : Word
  caddy    : List Overlay
  scratch  : List Scratch
  portVa   : Word
  portKey  : Nat
  portBy   : Nat
  taskSeq  : Nat
  taskMax  : Nat
  images   : Nat
  spares   : SMap Nat
deriving DecidableEq, Repr

/-- How a family stands (R187, R199 to R201). -/
inductive Outcome where
  | running | completed | broke (member : Nat) (v : Word) | failed (code : Nat)
deriving DecidableEq, Repr

/-- A chunk of members at a core (R190); `stamp` orders the claims of a core (R191). -/
structure Chunk where
  core    : Nat
  first   : Nat
  size    : Nat
  started : Nat
  ended   : List Nat
  stamp   : Nat
deriving DecidableEq, Repr

/-- A family at its home (R184 to R201). `back` holds chunks returned by killed cores and `again` those that run again, as
first member and size (R205). `killed` names the killed members and what they created (R200). `place` and `index` are the hardware domain, `lvl` the logical level that named it
(R371). -/
structure Family where
  ctx     : Nat
  home    : Nat
  creator : Nat
  launch  : Nat
  start   : Int
  limit   : Int
  step    : Int
  ext     : List Nat
  block   : Nat
  place   : Nat
  index   : Nat
  scope   : Nat
  lvl     : Nat
  hdr     : Header
  count   : Nat
  claimed : Nat
  chunks  : List Chunk
  back    : List (Nat × Nat)
  again   : List (Nat × Nat)
  granted : List Nat
  placed  : Bool
  folded  : Bool
  outcome : Outcome
  globals : SMap Word
  deps    : SMap Word
  shareds : SMap Reg
  arrived : SMap Reg
  ended   : Nat
  killed  : List Nat
deriving DecidableEq, Repr

/-- A timestamped task (R343 to R350); `addr` is the record that `tenq` named, `uid` the thread that runs it or ran it last. -/
structure Task where
  id     : Nat
  addr   : Word
  ctx    : Nat
  t      : Nat
  q      : Nat
  record : List Byte
  hdr    : Header
  place  : Nat
  index  : Nat
  scope  : Nat
  lvl    : Nat
  launch : Nat
  root   : Nat
  parent : Nat
  core   : Option (Nat × Nat)
  uid    : Nat
  spec   : Bool
  exited : Bool
  abort  : Bool
  reads  : BitVec 1024
  writes : BitVec 1024
  buf    : SMap Byte
deriving DecidableEq, Repr

/-- Reading operations of a memory request whose answer comes later, and the other accesses and messages that leave a
core (R151, R280). -/
inductive ReqKind where
  /-- a plain or indexed load -/
  | load (signed : Bool)
  | ldf | lde | fstat
  | ldrd (op : LdrdOp)
  | store
  | stf | ste | stm
  | amo (op : AmoOp)
  | red (op : AmoOp)
  | cas
  | bar
  /-- a division, square root or other delayed result (R126) -/
  | delayed
  /-- `vld` or `vldg`: the destination tile and its byte places, one by one -/
  | tileLoad (t : TileNo) (parts : List (Nat × Nat × Nat × Nat))
  /-- `vst` or `vstg`: where bytes go, how many (0: a low nibble), their value, and whether the next part is of the same step -/
  | tileStore (parts : List (Nat × Nat × Nat × Bool))
  /-- `fput` or `fput.s` on its way to the family's home (R197) -/
  | famPut (fam : Nat) (n : Nat) (dep : Bool)
  /-- a value given by `fput` or `fput.s` on its way to cores that hold the family -/
  | famGive (fam : Nat) (n : Nat) (dep : Bool) (cores : List Nat)
  /-- a shared on its way to another core (R191) -/
  | shared (fam : Nat) (member : Nat) (n : Nat)
  /-- a break value on its way to the home (R200) -/
  | brk (fam : Nat) (member : Nat)
  /-- a keyed send over a place: `b` the value, `e` the key (R357) -/
  | ksend (table : Nat) (times : Nat) (level : Nat) (index : Nat)
  | rxa (table : Nat) (cfg : BinTable) (cores : List Nat)
  | tenq (task : Task)
  /-- `macc`: tile register, format, accumulator tile, first row, rounding code, clearing -/
  | macc (t : TileNo) (fmt : DrainFmt) (acc row rf : Nat) (clr : Bool)
  /-- an element appended to output port `port` (R270) -/
  | streamOut (port : Nat) (rec : ShapeRec) (pos : Nat)
  /-- output port `port` unbound after so many elements (R272) -/
  | streamEnd (port : Nat) (rec : ShapeRec) (count : Nat)
  /-- an access of engine command `cmd` that a home has parked (R412) -/
  | engine (cmd : Nat)
deriving DecidableEq, Repr

/-- An access or message in flight. `arrived` is 0 until it has reached its home, where it then waits in arrival order; `resp`
is the answer once the home has served it; `parked` and `replayed` are R412's, `turn` its place in the home's fault queue. A
release or fence of narrow scope performed before the access gives it a shield: the scope, and the number from which on later
requests of agents in that scope find it performed (R292). -/
structure Request where
  id     : Nat
  core   : Nat
  slot   : Nat
  uid    : Nat
  ctx    : Nat
  pc     : CodeAddr
  kind   : ReqKind
  va     : Word
  key    : Nat
  width  : Nat
  drop   : Bool
  d      : RegNo
  b      : Word
  e      : Word
  scope  : Nat
  acq    : Bool
  rel    : Bool
  arrived : Nat
  resp   : Option Word
  poison : Bool
  indet  : Bool
  tag    : Nat
  tries  : Nat
  parked : Bool
  replayed : Bool
  turn   : Nat
  shields : List (Nat × Nat)
deriving DecidableEq, Repr

/-- The checked fields of an edge descriptor (R359). -/
structure EdgeDesc where
  addr  : Word
  n     : Nat
  out   : Bool
  inn   : Bool
  hcomb : Bool
  wgt   : Bool
  cop   : Nat
  alpha : Nat
  beta  : Nat
  outOff : Word
  outTgt : Word
  outWgt : Word
  inOff  : Word
  inSrc  : Word
  inWgt  : Word
  values : Word
  frontA : Word
  frontB : Word
  doneBm : Word
  finish : Nat
  limit  : Nat
  scatter : Header
  combine : Header
  apply   : Header
  fin    : Word
  work   : Nat
  log    : Word
deriving DecidableEq, Repr

/-- One thread the edge engine owes or runs (R361, R363). -/
inductive EdgeItem where
  /-- scatter for edge `e` from `src` to `dst`; `owner` is true in a pull round, where `dst` owns the scan -/
  | scatter (src : Nat) (e : Nat) (dst : Nat)
  /-- combine message `m` into `dst` -/
  | combine (dst : Nat) (m : Word)
  /-- apply for vertex `v` -/
  | apply (v : Nat)
  /-- the scan of `dst` goes on from edge `e` once its reads can be performed (R412) -/
  | scan (dst : Nat) (e : Nat)
deriving DecidableEq, Repr

/-- An item of a run, with the thread that runs it (0: none yet). -/
structure EdgeWork where
  id   : Nat
  item : EdgeItem
  uid  : Nat
deriving DecidableEq, Repr

/-- An edge run (R362 to R368). `stage` is 0 in a round, 1 once a round's results are stored and its counts are still to be measured and
logged, 2 while the next round is still to begin. -/
structure EdgeRun where
  id     : Nat
  core   : Nat
  slot   : Nat
  uid    : Nat
  ctx    : Nat
  fam    : Nat
  place  : Nat
  index  : Nat
  scope  : Nat
  lvl    : Nat
  pc     : CodeAddr
  desc   : EdgeDesc
  started : Bool
  push   : Bool
  curA   : Bool
  rounds : Nat
  applyPhase : Bool
  stage  : Nat
  work   : List EdgeWork
  scans  : List (Nat × Nat)
  applied : List (Nat × Option Word × Word)
  snap   : SMap Word
  fail   : Option (Nat × Word)
deriving DecidableEq, Repr

/-- A running collective (R421 to R423). -/
structure Coll where
  id     : Nat
  core   : Nat
  slot   : Nat
  uid    : Nat
  ctx    : Nat
  pc     : CodeAddr
  op     : Nat
  fmt    : Nat
  rop    : Nat
  group  : Nat
  count  : Nat
  send   : Word
  recv   : Word
  signals : Word
  tile   : Nat
  root   : Nat
  status : Word
  done   : List Nat
deriving DecidableEq, Repr

/-- How a launch stands at the arbiter (R375 to R378, R387). -/
inductive LaunchState where
  | queued | running | preempted | ended
deriving DecidableEq, Repr

/-- A core of a pre-empted launch as it was stopped: what the save image holds of it, and what this device keeps beside the
image (R387 to R390). `below` holds the creators that stood spilled beneath a fold, with their slots and frames. -/
structure SavedCore where
  logical : Nat
  phys    : Nat
  core    : Core
  threads : List (Nat × Thread)
  below   : List (Nat × Nat × Thread)
deriving DecidableEq, Repr

/-- A launch (R370). `owner` 0 is the host, 1 a thread, 2 the device kernel; `preempt` marks one that `ctxs` stops (R396); `closing` is
the done status that one that was ended early still owes, with its cores, until what its threads accessed is performed (R285). -/
structure Launch where
  id      : Nat
  ctx     : Nat
  prio    : Nat
  gang    : Bool
  noPreempt : Bool
  owner   : Nat
  level   : Nat
  index   : Nat
  header  : Word
  family  : Word
  awaits  : List Word
  tick    : Nat
  handler : Nat
  saveBase : Word
  saveSize : Nat
  spillBase : Word
  spillSize : Nat
  binds   : List Nat
  status  : Word
  done    : Word
  group   : Nat
  recAddr : Word
  state   : LaunchState
  cores   : List Nat
  rootFam : Nat
  missed  : Bool
  preempt : Bool
  closing : Option Nat
  defSave : Bool
  defSpill : Bool
  saved   : List SavedCore
  savedReqs : List Request
  savedRuns : List EdgeRun
deriving DecidableEq, Repr

/-- A remote-atomic tag window entry (R413): its result, which may be poisoned. -/
structure TagEntry where
  core : Nat
  tag  : Nat
  resp : Word
  bad  : Bool
  old  : Bool
deriving DecidableEq, Repr

/-- A reporting site's counters (R401, R440); for a module memory site also the 64 KiB pages that took errors (R402). -/
structure SiteCount where
  win     : Nat
  lasting : Bool
  total   : Nat
  acted   : Bool
  pages   : List Nat
deriving DecidableEq, Repr

/-- A Umaip port (R411, R441): `replays` of the flit it is receiving, and for each lane the windows in a row below 12 percent; `quietMs` counts the windows since the last one with such a lane, or retrain. -/
structure Link where
  rung    : Nat
  up      : Bool
  margin  : Nat
  low     : Nat
  retrains : Nat
  replays : Nat
  lowRuns : List Nat
  next    : Nat
  retrain : Bool
  quietMs : Nat
deriving DecidableEq, Repr

/-- An event of the message port, before it stands in the host's ring (R415, R417). -/
structure HostEvent where
  code   : Nat
  ctx    : Nat
  tag    : BitVec 32
  status : Nat
  args   : List Nat
deriving DecidableEq, Repr

/-- An entry of the management port's logs (R401, R411). -/
structure LogEntry where
  code : Nat
  a    : Nat
  b    : Nat
deriving DecidableEq, Repr

/-- The hub die and the device as a whole (29, 31). `slewed` is the correction of the time base still owed, `slewNs` the time since its last
nanosecond (R420). `hostFaults` and `retiring` are the 64 KiB pages on which the host's IOMMU
faults and which are being retired (R412); `moved` gives the page that has taken a retired page's place (R417); `groups6` is how
many device groups the fabric configuration sets for L6 (R182, log 112). `cmdHead` counts the command ring's entries taken in order and
`cmdDone` those behind it that have been taken (R415); `routes` is the switch's table and `transit` the flits in it, each as source,
destination and port (R419). -/
structure Device where
  stage   : Nat
  reason  : Nat
  last    : Nat
  kslot   : Nat
  starts  : Nat
  htbase  : Nat
  trained : Bool
  cleared : Bool
  posted  : Bool
  stage1  : List Byte
  slotA   : List Byte
  slotB   : List Byte
  kernelHash : Nat
  handover : Option (Nat × BitVec 32)
  generation : Nat
  enabled : List Nat
  mhz     : Nat
  limit   : Nat
  timebase : Word
  slewed  : Int
  slewNs  : Nat
  errwin  : Nat
  sites   : SMap SiteCount
  links   : SMap Link
  cmdBase : Nat
  cmdSize : Nat
  cmdTail : Nat
  cmdHead : Nat
  cmdDone : List Nat
  evBase  : Nat
  evSize  : Nat
  evHead  : Nat
  evTail  : Nat
  groups6 : Nat
  held    : List HostEvent
  dropped : Nat
  bar2    : SMap Nat
  bar2Read : List Byte
  bar0Read : Word
  devNum  : Nat
  groups  : SMap (List Nat)
  gangMsgs : List Nat
  hostFaults : List Nat
  retiring : List Nat
  moved    : SMap Nat
  routes   : SMap Nat
  transit  : List (Nat × Nat × Nat)
  mgmtKey : Bool
  errLog  : List LogEntry
  linkLog : List LogEntry
  report  : List LogEntry
deriving DecidableEq, Repr

/-- Which agent takes the next step (log 1). -/
inductive Turn where
  /-- a core issues one instruction of a class (R15, R380); `engine` picks the tile, matrix and engine class -/
  | issue (core : Nat) (engine : Bool)
  /-- a step of the table that is no instruction, with its subject -/
  | event (i : Instr) (e : Event)
  /-- time passes: the fabric time base counts nanoseconds (R21, R420) -/
  | tick (ns : Nat)
  /-- the host writes its own memory -/
  | hostWrite (off : Nat) (data : List Byte)
  /-- the outside or the device kernel sets something up -/
  | setup (x : Setup)
deriving DecidableEq, Repr

/-- The whole machine. -/
structure State where
  agenda   : List Turn
  core     : Nat
  slot     : Nat
  event    : Event
  nextId   : Nat
  freeCtr  : Nat
  mem      : List Host.Cell
  empties  : List Nat
  marks    : List Nat
  threads  : SMap Thread
  spilled  : SMap Thread
  cores    : SMap Core
  contexts : SMap Context
  families : SMap Family
  flights  : List Request
  tasks    : List Task
  runs     : List EdgeRun
  colls    : List Coll
  mesh     : List (Nat × MatCmd)
  gangs    : List Gang
  launches : List Launch
  deficits : SMap Nat
  lastCtx  : SMap Nat
  tags     : SMap (List TagEntry)
  dev      : Device
deriving DecidableEq, Repr

/-- A header of all zeros. -/
def Header.zero : Header := ⟨0, 0, 0, 0, 0, 0, 0, 0⟩

/-- A slot that holds no thread. -/
def Thread.free : Thread :=
  { status := .free, kind := .member, uid := 0, ctx := 0, fam := 0, member := 0, work := 0, item := 0, hdr := .zero, pc := 0,
    regs := [], tiles := [], tilePoison := 0, shapes := [], point := none, eng := [], fpStatus := 0, cntL := 0, cntS := 0,
    cntC := 0, cntM := 0, genP := 0, genQ := 0, guard0 := 0, guard1 := 0, famTable := [], ports := [], stackBase := 0,
    frames := [], fences := [], pending := none, pendQ := [], indetOps := none,
    indetQ := [], errSel := 0, ctxSel := 0, cfgWait := false, gangMask := 0, waited := 0, yielded := false, yieldFor := [],
    touched := [], wantFold := 0, foldRegs := 0, foldTiles := 0, poolTiles := 0, poolStack := 0, foldPool := false }

/-- An empty instruction memory slot (R89, R90). -/
def ImemSlot.init : ImemSlot := ⟨.empty, 0, 0, [], 0, false, 0, 0, 0, none⟩

/-- A core after reset: no thread, instruction memory empty, every accumulator element +0 and every row full (R302). -/
def Core.init : Core :=
  { killed := false, sealed := false, retired := false, halted := false, launch := 0, handler := 0, im0 := .init, im1 := .init,
    acc := [], accKind := [], rowEmpty := 0, rowPend := 0, rowPoison := 0, mq := [], drains := [], copies := [], caps := [], mons := [],
    bins := [], allocs := [], queue := [], current := none, saveBase := 0x100A00, poolBy := 0, lastScalar := 31,
    lastEngine := 31, tlb := [], events := [], cfg := [] }

/-- A port after reset: every field of LINKp is 0 (R441). -/
def Link.init : Link := ⟨0, false, 0, 0, 0, 0, [], 0, false, 0⟩

/-- The device after reset: the values of R436 to R441 where the spec gives one, zero elsewhere (log 5). -/
def Device.init : Device :=
  { stage := 0, reason := 0, last := 0, kslot := 0, starts := 0, htbase := 0, trained := false, cleared := false,
    posted := false, stage1 := [], slotA := [], slotB := [], kernelHash := 0, handover := none, generation := 0,
    enabled := [256, 256, 256, 256], mhz := 1750, limit := 1700, timebase := 0, slewed := 0, slewNs := 0, errwin := 10, sites := [],
    links := [], cmdBase := 0, cmdSize := 0, cmdTail := 0, cmdHead := 0, cmdDone := [], evBase := 0, evSize := 0, evHead := 0, evTail := 0, groups6 := 1, held := [],
    dropped := 0, bar2 := [], bar2Read := [], bar0Read := 0, devNum := 0, groups := [], gangMsgs := [], hostFaults := [], retiring := [], moved := [], routes := [], transit := [], mgmtKey := false, errLog := [],
    linkLog := [], report := [] }

/-- The machine right after reset. -/
def State.reset : State :=
  { agenda := [], core := 0, slot := 0, event := .none, nextId := 1, freeCtr := 0, mem := [], empties := [], marks := [],
    threads := [], spilled := [], cores := [], contexts := [], families := [], flights := [], tasks := [], runs := [],
    colls := [], mesh := [], gangs := [], launches := [], deficits := [], lastCtx := [], tags := [],
    dev := .init }

end Sys2Proof.Machine
end

