-- ==== Sys2Proof/Machine/Bits.lean ====
section
/-! DEFINITION. Bit fields, sign extension, byte order and tables by number: the plain helpers of every meaning. -/
namespace Sys2Proof

/-- Width of a format's encodings in bits (R95, R96). -/
def Fmt.width : Fmt → Nat
  | .i4 | .z4 | .e2m1 => 4
  | .e3m2 | .e2m3 => 6
  | .i8 | .z8 | .e4m3 | .e5m2 => 8
  | .i16 | .z16 | .f16 | .bf16 => 16
  | .i32 | .z32 | .f32 => 32
  | .i64 | .z64 | .f64 => 64

/-- Container width wc(F) in a tile register (R210). -/
def Fmt.container (f : Fmt) : Nat := if f.width = 6 then 8 else f.width

end Sys2Proof

namespace Sys2Proof.Machine

/-! ### Tables by number -/

/-- The entry of number k. -/
def mapFind {α : Type} : SMap α → Nat → Option α
  | [], _ => none
  | (j, v) :: r, k => if j = k then some v else mapFind r k

/-- The table without an entry of number k. -/
def mapDel {α : Type} (m : SMap α) (k : Nat) : SMap α := m.filter (fun p => !(p.1 == k))

/-- Insert an entry before the first greater number. -/
def mapIns {α : Type} : SMap α → Nat → α → SMap α
  | [], k, v => [(k, v)]
  | (j, w) :: r, k, v => if k < j then (k, v) :: (j, w) :: r else (j, w) :: mapIns r k v

/-- The table with v at number k. -/
def mapPut {α : Type} (m : SMap α) (k : Nat) (v : α) : SMap α := mapIns (mapDel m k) k v

/-- What number k reads as, d where nothing is listed. -/
def mapGet {α : Type} (d : α) (m : SMap α) (k : Nat) : α := (mapFind m k).getD d

/-- Write v at number k; the value d that an unlisted number reads as is not listed. -/
def mapSet {α : Type} [DecidableEq α] (d : α) (m : SMap α) (k : Nat) (v : α) : SMap α :=
  if v = d then mapDel m k else mapPut m k v

/-- Add k to a rising list of numbers. -/
def setIns (l : List Nat) (k : Nat) : List Nat :=
  match l with
  | [] => [k]
  | j :: r => if k < j then k :: j :: r else if k = j then j :: r else j :: setIns r k

/-- Remove k from a list of numbers. -/
def setDel (l : List Nat) (k : Nat) : List Nat := l.filter (fun j => !(j == k))

/-! ### Numbers and bits -/

/-- Field hi:lo of a 64-bit value as a number. -/
def bits (w : Word) (hi lo : Nat) : Nat := (w.toNat >>> lo) % 2 ^ (hi + 1 - lo)

/-- Field of a number. -/
def nbits (w hi lo : Nat) : Nat := (w >>> lo) % 2 ^ (hi + 1 - lo)

/-- Word of a number, modulo 2^64. -/
def word (n : Nat) : Word := BitVec.ofNat 64 n

/-- A number of n bits read as two's complement. -/
def toSigned (n v : Nat) : Int := if v % 2 ^ n < 2 ^ (n - 1) then (v % 2 ^ n : Nat) else (v % 2 ^ n : Nat) - (2 ^ n : Nat)

/-- An integer modulo 2^n. -/
def wrapNat (n : Nat) (v : Int) : Nat := (v % (2 ^ n : Nat)).toNat

/-- Sign-extend the low n bits of a word to 64 bits. -/
def sextWord (n : Nat) (w : Word) : Word := BitVec.ofInt 64 (toSigned n w.toNat)

/-- Keep the low n bits of a word. -/
def zextWord (n : Nat) (w : Word) : Word := word (w.toNat % 2 ^ n)

/-- 1 or 0. -/
def boolWord (b : Bool) : Word := if b then 1 else 0

/-- The value of bytes, the first the least significant (R4). -/
def leValue : List Byte → Nat
  | [] => 0
  | b :: r => b.toNat + 256 * leValue r

/-- The n bytes of a value, least significant first (R4). -/
def leBytes : Nat → Nat → List Byte
  | 0, _ => []
  | n + 1, v => BitVec.ofNat 8 v :: leBytes n (v / 256)

/-- The XOR of all w-bit fields of v (R248), over n fields. -/
def foldXor : Nat → Nat → Nat → Nat
  | 0, _, _ => 0
  | n + 1, v, w => (v % 2 ^ w) ^^^ foldXor n (v / 2 ^ w) w

/-- Round n up to a multiple of m. -/
def roundUp (n m : Nat) : Nat := (n + m - 1) / m * m

/-- The sequential successor of a code address (R50). -/
def pcNext (pc : CodeAddr) : CodeAddr := pc.extractLsb' 16 16 ++ (pc.extractLsb' 0 16 + 4)

/-- A code address in the same overlay, n words on (R50, R134). -/
def pcOffset (pc : CodeAddr) (n : BitVec 16) : CodeAddr := pc.extractLsb' 16 16 ++ (pc.extractLsb' 0 16 + (n <<< 2))

/-- A code address as a 64-bit value (R88). -/
def pcWord (pc : CodeAddr) : Word := pc.zeroExtend 64

/-! ### State codes and scopes -/

/-- The state codes of R175; a free slot has none and is given 0x08. -/
def Status.code : Status → Nat
  | .notStarted => 0 | .ready => 1 | .waitReg => 2 | .waitHome => 3 | .waitFamily => 4 | .trapped => 5 | .folding => 6
  | .killed => 7 | .ended => 8 | .free => 8

/-- A thread in this state may issue once nothing makes it wait. -/
def Status.canIssue : Status → Bool
  | .ready | .waitReg | .waitHome | .waitFamily => true
  | .free | .notStarted | .trapped | .folding | .killed | .ended => false

/-- A scope as its code (R60). -/
def scopeNum : Scope → Nat
  | .thread => 0 | .core => 1 | .clus => 2 | .die => 3 | .pkg => 4 | .fab => 5

end Sys2Proof.Machine
end

