-- ==== Sys2Proof/Machine/Mem.lean ====
section
/-! DEFINITION. Memory: its canonical form, the physical map, full/empty bits, error marks, watches, the context's tables,
translation and the classification of scratchpad bytes (15, R405). -/
namespace Sys2Proof.Machine

/-! ### Bytes

One list of cells holds every byte. Keys below 2^48 are physical addresses (R246); the byte at offset o of physical core c's
scratchpad has key 2^48 + c·2^21 + o. An unlisted key reads as `Memory.unlisted` (log 4). -/

/-- What a byte that nothing has written reads as: 0 (log 4; DESIGN CHOICE, the spec gives no contents after power-on). -/
def Memory.unlisted : Byte := 0

/-- The byte at a key. -/
def memByte (m : List Host.Cell) (k : Nat) : Byte := mapGet Memory.unlisted m k

/-- Write one byte, keeping the canonical form. -/
def memSetByte (m : List Host.Cell) (k : Nat) (v : Byte) : List Host.Cell := mapSet Memory.unlisted m k v

/-- The canonical form: keys strictly rising and no cell that reads as an unlisted one does. -/
def Memory.wf : List Host.Cell → Bool
  | [] => true
  | [(_, v)] => !(v == Memory.unlisted)
  | (j, v) :: (k, w) :: r => decide (j < k) && !(v == Memory.unlisted) && Memory.wf ((k, w) :: r)

/-- The n bytes from key k on. -/
def memBytes (m : List Host.Cell) (k : Nat) : Nat → List Byte
  | 0 => []
  | n + 1 => memByte m k :: memBytes m (k + 1) n

/-- Write bytes from key k on. -/
def memSetBytes (m : List Host.Cell) (k : Nat) : List Byte → List Host.Cell
  | [] => m
  | b :: r => memSetBytes (memSetByte m k b) (k + 1) r

/-- The little-endian value of n bytes (R4). -/
def memRead (m : List Host.Cell) (k n : Nat) : Nat := leValue (memBytes m k n)

/-- Write the n low bytes of v (R4). -/
def memWrite (m : List Host.Cell) (k n v : Nat) : List Host.Cell := memSetBytes m k (leBytes n v)

/-! ### Windows -/

/-- The windows of R245, R246 and R418. -/
inductive Win where
  | localSp | remoteSp | regWin | gddr | lpddr | urn | host | unicast | multicast | reduce
deriving DecidableEq, Repr

/-- First key of a core's scratchpad. -/
def spKey (core : Nat) : Nat := 2 ^ 48 + core * 2 ^ 21

/-- Physical base of the urn (R246). -/
def urnBase : Nat := 0x020000000000

/-- Physical base of host memory (R246). -/
def hostBase : Nat := 0x400000000000

/-- The window of a physical address, none outside every range of R246 and for the window R418 leaves out. -/
def physWin (pa : Nat) : Option Win :=
  if pa ≤ 0x002CB4177FFF then some .gddr
  else if 0x004000000000 ≤ pa ∧ pa ≤ 0x013FFFFFFFFF then some .lpddr
  else if 0x020000000000 ≤ pa ∧ pa ≤ 0x02001FFFFFFF then some .urn
  else if 0x400000000000 ≤ pa ∧ pa ≤ 0x7FFFFFFFFFFF then some .host
  else if 0x800000000000 ≤ pa ∧ pa ≤ 0xFFFFFFFFFFFF then
    match nbits pa 46 45 with
    | 0 => some .unicast
    | 1 => some .multicast
    | 2 => some .reduce
    | _ => none
  else none

/-- Words of this window carry a full/empty bit (R246, R255); whether a remote word does is known at its device. -/
def Win.hasState : Win → Bool
  | .localSp | .remoteSp | .urn => true
  | .regWin | .gddr | .lpddr | .host | .unicast | .multicast | .reduce => false

/-- The default scope of a window for full/empty accesses (R158), as a code of R60. -/
def Win.defaultScope : Win → Nat
  | .localSp => 1
  | .unicast | .multicast | .reduce => 5
  | .remoteSp | .regWin | .gddr | .lpddr | .urn | .host => 4

/-- A key that carries a full/empty bit: scratchpad or urn. -/
def keyHasState (k : Nat) : Bool := decide (2 ^ 48 ≤ k) || decide (urnBase ≤ k ∧ k < urnBase + 2 ^ 29)

/-- Host memory, where no error mark is kept (R405 marks SRAM words and module lines). -/
def keyIsHost (k : Nat) : Bool := decide (hostBase ≤ k ∧ k < 2 ^ 48)

/-! ### Full/empty bits and error marks -/

/-- The word that holds a key. -/
def wordOf (k : Nat) : Nat := k / 8 * 8

/-- The word's state bit; a word without one counts as full. -/
def isFull (s : State) (k : Nat) : Bool := !(keyHasState k && s.empties.contains (wordOf k))

/-- Set the word full. -/
def setFull (s : State) (k : Nat) : State := { s with empties := setDel s.empties (wordOf k) }

/-- Set the word empty, where it carries state. -/
def setEmpty (s : State) (k : Nat) : State :=
  if keyHasState k then { s with empties := setIns s.empties (wordOf k) } else s

/-- The unit an error mark covers: an 8-byte SRAM word or a 64-byte module line (R405). -/
def markUnit (k : Nat) : Nat := if keyHasState k then k / 8 * 8 else k / 64 * 64

/-- The size of that unit. -/
def markSize (k : Nat) : Nat := if keyHasState k then 8 else 64

/-- The key's word or line holds an uncorrectable error. -/
def isMarked (s : State) (k : Nat) : Bool := s.marks.contains (markUnit k)

/-- Some byte of the range lies in a marked word or line. -/
def rangeMarked (s : State) (k n : Nat) : Bool := isMarked s k || isMarked s (k + n - 1)

/-- Mark a word or line; host memory is never marked. -/
def setMark (s : State) (k : Nat) : State :=
  if keyIsHost k then s else { s with marks := setIns s.marks (markUnit k) }

/-- Clear the mark of a word or line. -/
def clearMark (s : State) (k : Nat) : State := { s with marks := setDel s.marks (markUnit k) }

/-- The range covers the whole unit of its first byte. -/
def coversUnit (k n : Nat) : Bool := decide (k = markUnit k ∧ markSize k ≤ n)

/-! ### Cores and threads -/

/-- The thread in a slot. -/
def getThread (s : State) (c t : Nat) : Thread := mapGet Thread.free s.threads (c * 32 + t)

/-- Put a thread into a slot. -/
def putThread (s : State) (c t : Nat) (th : Thread) : State :=
  { s with threads := mapSet Thread.free s.threads (c * 32 + t) th }

/-- The thread at the focus. -/
def cur (s : State) : Thread := getThread s s.core s.slot

/-- Replace the thread at the focus. -/
def setCur (s : State) (th : Thread) : State := putThread s s.core s.slot th

/-- A core. -/
def getCore (s : State) (c : Nat) : Core := mapGet Core.init s.cores c

/-- Replace a core. -/
def putCore (s : State) (c : Nat) (co : Core) : State := { s with cores := mapSet Core.init s.cores c co }

/-- The thread of this number in its slot, or as it stands spilled beneath a fold there (R193); a free one where it is gone. -/
def threadOf (s : State) (c t uid : Nat) : Thread :=
  let th := getThread s c t
  if th.uid = uid ∧ th.status ≠ .free then th
  else match s.spilled.find? (fun p => p.2.uid == uid) with | some p => p.2 | none => Thread.free

/-- Change the thread of this number, in its slot or spilled beneath a fold there; nothing where it is gone. -/
def onThread (s : State) (c t uid : Nat) (f : Thread → Thread) : State :=
  let th := getThread s c t
  if th.uid = uid ∧ th.status ≠ .free then putThread s c t (f th)
  else { s with spilled := s.spilled.map (fun p => (p.1, if p.2.uid = uid then f p.2 else p.2)) }

/-- Every slot that holds a thread, as core, slot and thread. -/
def liveThreads (s : State) : List (Nat × Nat × Thread) :=
  (s.threads.filter (fun p => !(p.2.status == .free))).map (fun p => (p.1 / 32, p.1 % 32, p.2))

/-- A context that is live. -/
def getCtx (s : State) (n : Nat) : Option Context := mapFind s.contexts n

/-- Change a live context. -/
def onCtx (s : State) (n : Nat) (f : Context → Context) : State :=
  match getCtx s n with
  | some c => { s with contexts := mapPut s.contexts n (f c) }
  | none => s

/-- The configuration word of a context, 0 while it is not live. -/
def ctxCfg (s : State) (n : Nat) : Word := match getCtx s n with | some c => c.cfg | none => 0

/-- The configuration a core holds for a context: its own copy while a CTXCFG write spreads (R444). -/
def coreCfg (s : State) (c n : Nat) : Word := mapGet (ctxCfg s n) (getCore s c).cfg n

/-- A family. -/
def getFam (s : State) (f : Nat) : Option Family := mapFind s.families f

/-- Change a family. -/
def onFam (s : State) (f : Nat) (g : Family → Family) : State :=
  match getFam s f with
  | some x => { s with families := mapPut s.families f (g x) }
  | none => s

/-- A fresh number. -/
def fresh (s : State) : Nat × State := (s.nextId, { s with nextId := s.nextId + 1 })

/-- A value the spec leaves open (log 9). -/
def freeVal (s : State) : Word × State := (Config.freeWord s.freeCtr, { s with freeCtr := s.freeCtr + 1 })

/-! ### Core tables -/

/-- The physical core of a logical number under the identity table (R11, R392). -/
def identityCore (l : Nat) : Nat :=
  let x := l % 32
  let y := l / 32
  (y / 16 * 2 + x / 16) * 272 + (y % 16) * 17 + x % 16

/-- An entry of a table of two-byte entries: valid and the number (R434). One whose bits 14:12 are not zero counts as invalid: no rule
states what it does (R6, log 8). -/
def tableEntry (s : State) (base : Word) (i : Nat) : Option Nat :=
  let e := memRead s.mem (base.toNat + 2 * i) 2
  if e / 2 ^ 15 = 1 ∧ e / 2 ^ 12 % 8 = 0 then some (e % 2 ^ 12) else none

/-- The physical core a context's core table gives a logical core; a base of 0 is the
identity table, with a spare in place of a retired core (R10, R11, R378, log 8). -/
def physCore (s : State) (ctx l : Nat) : Option Nat :=
  if 1024 ≤ l then none
  else
    match getCtx s ctx with
    | some c => if c.coreTbl = 0 then some (mapGet (identityCore l) c.spares l) else tableEntry s c.coreTbl l
    | none => some (identityCore l)

/-- The logical number that a context's core table gives a physical core. -/
def logicalOf (s : State) (ctx p : Nat) : Option Nat :=
  let y := p / 272 / 2 * 16 + p % 272 / 17
  let x := p / 272 % 2 * 16 + p % 272 % 17
  if physCore s ctx (32 * y + x) = some p ∧ p % 272 % 17 < 16 ∧ p < 1088 then some (32 * y + x)
  else (List.range 1024).find? (fun l => physCore s ctx l == some p)

/-- The logical number of a physical core in a context, 0 where the table gives none. -/
def logicalCore (s : State) (ctx p : Nat) : Nat := (logicalOf s ctx p).getD 0

/-- The physical device a context's route table gives a logical device (R434). -/
def physDevice (s : State) (ctx d : Nat) : Option Nat := (getCtx s ctx).bind (fun c => tableEntry s c.routeTbl d)

/-! ### Places (R182, R183) -/

/-- The logical cores of place level:index, levels as numbers 1 to 7. -/
def placeLogical (level index : Nat) : List Nat :=
  (List.range 1024).filter (fun l =>
    let x := l % 32
    let y := l / 32
    match level with
    | 1 => l == index
    | 2 => x / 2 == index % 16 && y / 2 == index / 16
    | 3 => x / 4 == index % 8 && y / 4 == index / 8
    | 4 => y / 16 * 2 + x / 16 == index
    | _ => true)

/-- How many places a level has inside the device. -/
def levelCount (level : Nat) : Nat :=
  match level with
  | 1 => 1024 | 2 => 256 | 3 => 64 | 4 => 4 | _ => 1

/-- How many places a launch record can name at a level: for L6 what the fabric configuration sets (R182). -/
def indexRange (s : State) (level : Nat) : Nat := if level = 6 then s.dev.groups6 else levelCount level

/-- The family scope of a level (R182), as a code of R60. -/
def levelScope (level : Nat) : Nat :=
  match level with
  | 0 | 1 => 1 | 2 | 3 => 2 | 4 => 3 | 5 => 4 | _ => 5

/-- The cores of a place for a context, as logical and physical numbers in ascending logical number: mapped, not killed and
not retired (R182). -/
def placeCores (s : State) (ctx level index : Nat) : List (Nat × Nat) :=
  (placeLogical level index).filterMap (fun l =>
    match physCore s ctx l with
    | some p => if (getCore s p).killed || (getCore s p).retired then none else some (l, p)
    | none => none)

/-- Two logical cores lie in one L3 cluster, or on one die (R182). -/
def sameCluster (l1 l2 : Nat) : Bool := l1 % 32 / 4 == l2 % 32 / 4 && l1 / 32 / 4 == l2 / 32 / 4
def sameDie (l1 l2 : Nat) : Bool := l1 % 32 / 16 == l2 % 32 / 16 && l1 / 32 / 16 == l2 / 32 / 16

/-- A control core, or another agent of the hub die (R9, R18). -/
def onHub (c : Nat) : Bool := decide (1088 ≤ c ∧ c < 4096)

/-- Two cores lie in one instance of a scope (R282): clusters and dies are those of the logical cores of the context whose access
it is, so that a mapped spare stands for the core it replaces (R11, R182); the control cores lie on the hub die. -/
def sharesScope (s : State) (ctx scope c1 c2 : Nat) : Bool :=
  if c1 = c2 then decide (1 ≤ scope)
  else if onHub c1 && onHub c2 then decide (3 ≤ scope)
  else
    match scope, logicalOf s ctx c1, logicalOf s ctx c2 with
    | 2, some l1, some l2 => sameCluster l1 l2
    | 3, some l1, some l2 => sameDie l1 l2
    | 4, _, _ | 5, _, _ => true
    | _, _, _ => false

/-! ### Translation (R249) -/

/-- A failed walk, a page that does not allow the access, or the physical address. -/
inductive Walk where
  | fail | deny | pa (a : Nat)
deriving DecidableEq, Repr

/-- Bytes of a leaf at a level. -/
def pageBytes (level : Nat) : Nat := match level with | 0 => 2 ^ 16 | 1 => 2 ^ 21 | _ => 2 ^ 30

/-- The index of an address at a level. -/
def walkIndex (va level : Nat) : Nat :=
  match level with
  | 0 => nbits va 20 16 | 1 => nbits va 29 21 | 2 => nbits va 38 30 | _ => nbits va 51 39

/-- Walk the tables from a level's table down; the leaf entry and its page size. -/
def walkTables (m : List Host.Cell) (va : Nat) : Nat → Nat → Option (Word × Nat)
  | level, table =>
    let e := word (memRead m (table + 8 * walkIndex va level) 8)
    if bits e 0 0 = 0 ∨ bits e 15 5 ≠ 0 ∨ bits e 63 48 ≠ 0 then none
    else
      let pa := bits e 47 16 * 2 ^ 16
      if bits e 1 1 = 1 then
        if level = 3 ∨ pa % pageBytes level ≠ 0 ∨ (physWin pa).isNone then none else some (e, pageBytes level)
      else
        match level with
        | 0 => none
        | l + 1 => walkTables m va l pa

/-- Check the leaf for an access of n bytes at va and give its physical address. -/
def leafAccess (e : Word) (size va n : Nat) (rd wr priv : Bool) : Walk :=
  let pa := bits e 47 16 * 2 ^ 16 + va % size
  if (rd && bits e 2 2 == 0) || (wr && bits e 3 3 == 0) || (bits e 4 4 == 1 && !priv) then .deny
  else if (physWin pa).isSome && physWin pa == physWin (pa + n - 1) then .pa pa else .fail

/-- The addresses lie in one page of a root's tables (R249): its leaf's page where the walk finds one, else 64 KiB. -/
def samePage (m : List Host.Cell) (root : Word) (x y : Nat) : Bool :=
  let size := match walkTables m x 3 root.toNat with | some (_, n) => n | none => 2 ^ 16
  x / size == y / size

/-- The root in force for an address: a TROOT write takes effect with a `tlbi` that covers the page (R250, R444). -/
def rootFor (s : State) (x : Context) (va : Nat) : Word :=
  match x.rootAt.find? (fun p => samePage s.mem p.2 va p.1) with
  | some p => p.2
  | none => x.rootNow

/-- Translate an address of a context on a core, by the core's cached translations (R250, log 7) or a walk. The state gains
the cached translation. -/
def translate (s : State) (c ctx va n : Nat) (rd wr priv : Bool) : Walk × State :=
  match (getCore s c).tlb.find? (fun e => e.ctx == ctx && e.page == va / e.size) with
  | some e => (leafAccess e.leaf e.size va n rd wr priv, s)
  | none =>
    match getCtx s ctx with
    | none => (.fail, s)
    | some x =>
      match walkTables s.mem va 3 (rootFor s x va).toNat with
      | none => (.fail, s)
      | some (e, size) =>
        let co := getCore s c
        (leafAccess e size va n rd wr priv, putCore s c { co with tlb := co.tlb ++ [⟨ctx, va / size, size, e⟩] })

/-! ### Cached translations -/

/-- An entry is covered by a `tlbi` of a kind (R395). -/
def tlbCovered (kind ctx va : Nat) (e : TlbEntry) : Bool :=
  match kind with
  | 0 => e.ctx == ctx && e.page == va / e.size
  | 1 => e.ctx == ctx
  | _ => true

/-- What a `tlbi` does to a context whose TROOT has been written: the written root is in force for the page that holds va (kind
0b00), or for the whole context (R444). -/
def rootCovered (kind ctx va n : Nat) (x : Context) : Context :=
  match kind with
  | 0 => if n = ctx ∧ ¬ (x.rootNow = x.troot ∧ x.rootAt = []) then { x with rootAt := (va, x.troot) :: x.rootAt } else x
  | 1 => if n = ctx then { x with rootNow := x.troot, rootAt := [] } else x
  | _ => { x with rootNow := x.troot, rootAt := [] }

/-- Invalidate translations in every core (R395); a written TROOT comes into force for what is covered (R444). -/
def tlbInvalidate (s : State) (kind ctx va : Nat) : State :=
  { s with
    contexts := s.contexts.map (fun p => (p.1, rootCovered kind ctx va p.1 p.2))
    cores := s.cores.map (fun p => (p.1, { p.2 with tlb := p.2.tlb.filter (fun e => !tlbCovered kind ctx va e) })) }

/-- The level whose leaves have a page size. -/
def PageSize.level : PageSize → Nat | .p64K => 0 | .p2M => 1 | .p1G => 2

/-- Clear the leaf at a level, where the walk reaches it. -/
def dropEntry (s : State) (va target : Nat) : Nat → Nat → State
  | level, table =>
    let k := table + 8 * walkIndex va level
    let e := memRead s.mem k 8
    if e % 2 = 0 then s
    else if level = target then (if e / 2 % 2 = 1 then { s with mem := memSetBytes s.mem k (leBytes 8 0) } else s)
    else
      match level with
      | 0 => s
      | l + 1 => if e / 2 % 2 = 1 then s else dropEntry s va target l (nbits e 47 16 * 2 ^ 16)

/-- Unmap pages, with a `tlbi` of kind 0b00 for each (R416). -/
def unmapRange (ctx root : Nat) (size : PageSize) : Nat → Nat → State → State
  | 0, _, s => s
  | n + 1, va, s =>
    unmapRange ctx root size n (va + pageBytes size.level) (tlbInvalidate (dropEntry s va size.level 3 root) 0 ctx va)

/-! ### Scratchpad bytes (R252, R253) -/

/-- What a scratchpad byte is to an access. -/
inductive SpByte where
  | inside (entry : Nat) | granule | outside
deriving DecidableEq, Repr

/-- Classify one offset for a context's access. `own` names the stack entry the access may use; `priv` reaches the save
region (R448). A stack that is set aside beneath a fold has no entry (R193). -/
def spByte (co : Core) (ctx : Nat) (own : Option Nat) (priv : Bool) (off : Nat) : SpByte :=
  if 0x120000 ≤ off then .outside
  else
    let mine := co.allocs.filter (fun a => a.ctx == ctx && (decide (a.entry < 32) || own == some a.entry))
    match mine.find? (fun a => decide (a.off ≤ off ∧ off < a.off + a.size)) with
    | some a => .inside a.entry
    | none =>
      if (co.allocs.filter (fun a => a.ctx == ctx && decide (a.entry < 64))).any
          (fun a => decide ((a.off ≤ off + 256 ∧ off < a.off) ∨ (a.off + a.size ≤ off ∧ off < a.off + a.size + 256))) then .granule
      else if priv && decide (co.saveBase ≤ off) then .inside 64
      else .outside

/-- Classify the n bytes from an offset on: performed, a guard touch, or outside (R253). -/
def spRange (co : Core) (ctx : Nat) (own : Option Nat) (priv : Bool) (off n : Nat) : SpByte :=
  let bs := (List.range n).map (fun i => spByte co ctx own priv (off + i))
  if bs.any (· == .outside) then .outside
  else if bs.any (· == .granule) then .granule
  else bs.head?.getD .outside

/-! ### Writes at their homes -/

/-- A write fires the armed entries on its words that other threads watch (R273), in the order of their firing. -/
def fireMonitors (stamp k n uid : Nat) (ms : List Monitor) : List Monitor :=
  ms.map (fun m => if m.fired = 0 ∧ m.uid ≠ uid ∧ m.key < k + n ∧ k < m.key + 8 then { m with fired := stamp } else m)

/-- Fire the watches on a range in every core. -/
def fireWatches (s : State) (k n uid : Nat) : State :=
  if s.cores.any (fun p => !p.2.mons.isEmpty) then
    { s with cores := s.cores.map (fun p => (p.1, { p.2 with mons := fireMonitors s.nextId k n uid p.2.mons }))
             nextId := s.nextId + 1 }
  else s

/-- A write of n bytes is performed at its home (R405, R294): a marked word or line takes only a write that covers it. -/
def storeAt (s : State) (k n v uid : Nat) : State :=
  if rangeMarked s k n && !coversUnit k n then s
  else fireWatches { clearMark s k with mem := memWrite s.mem k n v } k n uid

/-- A write that wakes no watch: a receive-and-accumulate unit's step on a bin (R357). -/
def storeQuiet (s : State) (k n v : Nat) : State :=
  if rangeMarked s k n && !coversUnit k n then s else { clearMark s k with mem := memWrite s.mem k n v }

/-- Write bytes without regard to marks: what the device itself writes. -/
def pokeBytes (s : State) (k : Nat) (bs : List Byte) : State := { s with mem := memSetBytes s.mem k bs }

/-- Read n bytes as a number. -/
def peek (s : State) (k n : Nat) : Nat := memRead s.mem k n

end Sys2Proof.Machine
end

