-- ==== Sys2Proof/Machine/Threads.lean ====
section
/-! DEFINITION. Threads and families: the generator of R277 and R278, the resources of a core, thread start and end, members,
breaks and failures, folding, and the events posted to the host (11, R278, R417). -/
namespace Sys2Proof.Machine

/-! ### Random numbers (R277, R278) -/

/-- One step of a generator: the output and the next p and q. -/
def genStep (p q : Word) : Word × Word × Word :=
  let u := p ^^^ (p <<< 23)
  (p + q, q, u ^^^ q ^^^ (u >>> 18) ^^^ (q >>> 5))

/-- The loop of jump over the bits of j from bit i on, n bits left. -/
def genJumpLoop (j : Nat) : Nat → Nat → Word × Word → Word × Word → Word × Word
  | 0, _, acc, _ => acc
  | n + 1, i, acc, (p, q) =>
    let acc := if j.testBit i then (acc.1 ^^^ p, acc.2 ^^^ q) else acc
    genJumpLoop j n (i + 1) acc (genStep p q).2

/-- jump(J): the state 2^k·2^64 steps on, J as q-word then p-word. -/
def genJump (j : Nat) (pq : Word × Word) : Word × Word := genJumpLoop j 128 0 (0, 0) pq

/-- The twenty vectors J_0 to J_19: x^(2^(64+k)) modulo the characteristic polynomial of the step, J_0 as R278 gives it. -/
def jumpVectors : List Nat := [
  0x121fd2155c472f968a5cd789635d2dff,
  0xb591a267abca1f82cfba5793ae5c2d7d,
  0xf4bad81fb94c6ad9f4488a7aa44d3075,
  0x29468a71f05781328af5fcdd27492755,
  0x1bef996c218437de712bd6d1898fbf3f,
  0x210a0143fbc63b9123c3b4025b223ac9,
  0x51142e4998183cd757b193c35f4b5501,
  0x7b2f82f840cd59e851325f48770447e6,
  0xc2d87c4a091752c4511fb6437fced249,
  0x8de1efc6e7c73e41709e90a2b9261783,
  0xa451565fa91368150d1224c34880ea2d,
  0xce9f7550e0e58c60c589b463147ea653,
  0xc68bb32b0f32045417f1bb04edbc4bb0,
  0x179a74b8928ec157aeb7c041d0400ecc,
  0xee4329c721e947c479e28a7aabbdf774,
  0xcc3710eed646707cf8ebeba0cd7950ab,
  0x5490180579fcae25b0b05b1496e6cb15,
  0x7443cedbad8cfc273bd3d062c8022529,
  0x3cec87b4fd24b7acf53bdbc7782024a9,
  0x0713ad197e8f3650f3d04d0029b761cb]

/-- Jump by n·2^64 steps, n of 20 bits. -/
def genJumpTo (n : Nat) (pq : Word × Word) : Word × Word :=
  ((List.range 20).zip jumpVectors).foldl (fun st kj => if n.testBit kj.1 then genJump kj.2 st else st) pq

/-- The seed as it is used: an all-zero seed is p = 1, q = 0. -/
def seedOf (p q : Word) : Word × Word := if p = 0 ∧ q = 0 then (1, 0) else (p, q)

/-- The epoch seed advanced by 2^84 steps. -/
def epochNext (pq : Word × Word) : Word × Word :=
  let j := jumpVectors.getLastD 0
  genJump j (genJump j pq)

/-- The wrap of a context's thread counter (R278). -/
def advanceEpoch (c : Context) : Context :=
  let pq := epochNext (seedOf c.epochP c.epochQ)
  { c with epochP := pq.1, epochQ := pq.2, threads := 0 }

/-- The generator of a thread that starts now, and the context after the start. -/
def threadSeed (c : Context) : (Word × Word) × Context :=
  let c := if 2 ^ 20 ≤ c.threads then advanceEpoch c else c
  (genJumpTo c.threads (seedOf c.epochP c.epochQ), { c with threads := c.threads + 1 })

/-! ### Events to the host (R415, R417) -/

/-- The 64 bytes of an event. -/
def hostEventBytes (e : HostEvent) : List Byte :=
  leBytes 2 e.code ++ leBytes 2 e.ctx ++ leBytes 4 e.tag.toNat ++ leBytes 4 e.status ++ leBytes 4 0 ++
    ((e.args ++ [0, 0, 0, 0, 0, 0]).take 6).flatMap (fun a => leBytes 8 a)

/-- Write an event into the ring. -/
def ringWrite (s : State) (e : HostEvent) : State :=
  let s1 := pokeBytes s (hostBase + s.dev.evBase + 64 * (s.dev.evTail % s.dev.evSize)) (hostEventBytes e)
  { s1 with dev := { s1.dev with evTail := s1.dev.evTail + 1 } }

/-- The ring has room. -/
def ringRoom (d : Device) : Bool := decide (d.evTail < d.evHead + d.evSize) && d.held.isEmpty && d.handover.isNone

/-- Post an event: into the ring, else held, else dropped and counted. -/
def postEvent (s : State) (e : HostEvent) : State :=
  if ringRoom s.dev then ringWrite s e
  else if s.dev.held.length < 4096 then { s with dev := { s.dev with held := s.dev.held ++ [e] } }
  else { s with dev := { s.dev with dropped := s.dev.dropped + 1 } }

/-- Post held events while the ring has room, and then one 0x87 for the dropped ones. -/
def postHeld : Nat → State → State
  | 0, s => s
  | n + 1, s =>
    if s.dev.handover.isSome || !decide (s.dev.evTail < s.dev.evHead + s.dev.evSize) then s
    else
      match s.dev.held with
      | e :: r =>
        let s1 := ringWrite s e
        postHeld n { s1 with dev := { s1.dev with held := r } }
      | [] =>
        if s.dev.dropped = 0 then s
        else
          let s1 := ringWrite s ⟨0x87, 0xFFFF, 0, 0, [s.dev.dropped]⟩
          { s1 with dev := { s1.dev with dropped := 0 } }

/-- Post an event to the device kernel, on control core CC0: 1 a parked request, 2 a lasting fault, 3 a halted control core,
4 a page to be retired (log 61). -/
def tellKernel (s : State) (code arg : Nat) : State :=
  let co := getCore s 1088
  putCore s 1088 { co with events := co.events ++ [word (code + 256 * arg)] }

/-! ### Resources of a core (R178, R189, R315, R383) -/

/-- round4 of R178. -/
def round4 (n : Nat) : Nat := roundUp n 4

/-- The threads of a core with their slots. -/
def coreThreads (s : State) (c : Nat) : List (Nat × Thread) :=
  ((List.range 32).map (fun t => (t, getThread s c t))).filter (fun p => !(p.2.status == .free))

/-- A family's launch runs on the core: what a family of a pre-empted launch notes of a core is nothing of the core's present (R387). -/
def standsOn (s : State) (f : Family) (c : Nat) : Bool := f.launch == (getCore s c).launch

/-- A core holds members of a family, and with them its globals (R178): a chunk of which some member has not ended. -/
def holdsGlobals (f : Family) (c : Nat) : Bool := f.chunks.any (fun k => k.core == c && decide (k.ended.length < k.size))

/-- The chunk of a member. -/
def chunkOf (f : Family) (k : Nat) : Option Chunk := f.chunks.find? (fun x => decide (x.first ≤ k ∧ k < x.first + x.size))

/-- The core that holds the chunk of a member. -/
def chunkCore (f : Family) (k : Nat) : Option Nat := (chunkOf f k).map (·.core)

/-- A member has sent its shareds on: it has written them all, or has ended, and its successor's chunk is claimed; the family's
last member sends to no core. -/
def sharedsSent (f : Family) (m : Nat) (ended : Bool) : Bool :=
  (ended || (List.range f.hdr.s).all (fun n => (mapFind f.shareds (m * 64 + n)).isSome)) &&
    (decide (f.count ≤ m + 1) || (chunkOf f (m + 1)).isSome)

/-- The shareds of an ended member of a chunk are still held (R178): until its successor ends where that runs on the same core,
else until the last member of the successor's chunk has sent its own on (R190). The model's choice: those of the family's last member,
which has no successor, are freed at its end (log 117). -/
def sharedsHeld (f : Family) (k : Chunk) (m : Nat) : Bool :=
  if f.count ≤ m + 1 then false
  else
    match chunkOf f (m + 1) with
    | none => true
    | some x =>
      let last := x.first + x.size - 1
      if x.core = k.core then !x.ended.contains (m + 1) else !sharedsSent f last (x.ended.contains last)

/-- Registers a family holds on a core beyond its running members (R178): globals, the dependents of a chunk's first member until
that ends, and the S shareds of each ended member. A folded family's come from its creator (R193). -/
def familyRegs (f : Family) (c : Nat) : Nat :=
  if f.folded || !(f.outcome == .running) then 0
  else
    (if holdsGlobals f c then f.hdr.g else 0) +
      ((f.chunks.filter (fun k => k.core == c)).map (fun k =>
        (if k.ended.contains k.first then 0 else round4 f.hdr.s) + (k.ended.filter (sharedsHeld f k)).length * f.hdr.s)).sum

/-- Members of a family that no chunk holds: never handed out, or returned by killed cores. -/
def unclaimed (f : Family) : Nat := f.count - f.claimed + (f.back.map (·.2)).sum

/-- A family holds a place on a core for its next member: a slot granted there that no claim has used yet, or a claimed chunk
whose first member has not started (R189, R207, log 88). -/
def holdsPlace (f : Family) (c : Nat) : Bool :=
  f.outcome == .running && !f.folded &&
    ((f.granted.contains c && decide (0 < unclaimed f)) || f.chunks.any (fun k => k.core == c && k.started == 0 && decide (0 < k.size)))

/-- The families other than `fam` that hold a place on a core. -/
def placeHolders (s : State) (c fam : Nat) : List Family :=
  (s.families.filter (fun p => p.1 != fam && standsOn s p.2 c && holdsPlace p.2 c)).map (·.2)

/-- Registers of a place held: a member's own, and those its family does not hold on the core yet. -/
def heldRegs (f : Family) (c : Nat) : Nat :=
  round4 (f.hdr.s + f.hdr.l) +
    (if f.chunks.any (fun k => k.core == c && k.started == 0) then 0
     else (if holdsGlobals f c then 0 else f.hdr.g) + round4 f.hdr.s)

/-- The creators that stand spilled beneath a thread's fold, the innermost first. -/
def creatorsOf (s : State) (th : Thread) : List Thread := th.frames.filterMap (mapFind s.spilled)

/-- The thread that started in the slot: the outermost creator of a fold nest, else the thread itself. -/
def slotOwner (s : State) (th : Thread) : Thread := (creatorsOf s th).getLast?.getD th

/-- Scalar registers that are free: 1,024 less the reserves of slots 29 to 31 and the fold pool, what the threads and families
hold, and what the core has given to folds (R193). -/
def freeRegs (s : State) (c : Nat) : Nat :=
  816 - (((coreThreads s c).map (fun p =>
      let o := slotOwner s p.2
      (if p.1 < 29 then round4 (o.hdr.s + o.hdr.l) else 0) + ((creatorsOf s p.2).map (·.foldRegs)).sum)).sum +
    (s.families.map (fun p => if standsOn s p.2 c then familyRegs p.2 c else 0)).sum)

/-- Tile registers that are free: the creator of a fold keeps its own (R193). -/
def freeTiles (s : State) (c : Nat) : Nat :=
  208 - ((coreThreads s c).map (fun p =>
    (if p.1 < 29 then (slotOwner s p.2).hdr.tiles else 0) + ((creatorsOf s p.2).map (·.foldTiles)).sum)).sum

/-- The lowest free slot of 0 to 28. -/
def freeSlot (s : State) (c : Nat) : Option Nat :=
  (List.range 29).find? (fun t => (getThread s c t).status == .free)

/-- A stack of the given bytes, with its granules, fits at this offset of the stack region, which the `.scratch` allocations leave
with their granules (R252). -/
def stackFits (co : Core) (bytes off : Nat) : Bool :=
  bytes == 0 ||
    (off % 256 == 0 && decide (256 ≤ off ∧ off + roundUp bytes 256 + 256 ≤ co.saveBase) &&
      co.allocs.all (fun a =>
        let gap := if a.entry < 32 then 512 else 256
        decide (a.off + a.size + gap ≤ off ∨ off + roundUp bytes 256 + gap ≤ a.off)))

/-- The stacks of these sizes fit together with what the core has, each at the first place that takes it. -/
def stacksFit (co : Core) : List Nat → Bool
  | [] => true
  | b :: r =>
    if b = 0 then stacksFit co r
    else
      match (List.range 4608).find? (fun i => stackFits co b (256 * i)) with
      | some i => stacksFit { co with allocs := co.allocs ++ [⟨0, 32, 256 * i, roundUp b 256⟩] } r
      | none => false

/-- The core with one more stack. -/
def withStack (co : Core) (bytes off : Nat) : Core :=
  if bytes = 0 then co else { co with allocs := co.allocs ++ [⟨0, 32, off, roundUp bytes 256⟩] }

/-- A slot and the registers and tiles of a header are free on a core beyond the places that families other than `fam` hold
there. -/
def spareRoom (s : State) (c : Nat) (h : Header) (regs fam : Nat) : Bool :=
  let others := placeHolders s c fam
  decide (others.length < ((List.range 29).filter (fun t => (getThread s c t).status == .free)).length) &&
    decide (regs + (others.map (fun f => heldRegs f c)).sum ≤ freeRegs s c) &&
    decide (h.tiles + (others.map (·.hdr.tiles)).sum ≤ freeTiles s c)

/-- The core has everything a thread of this header needs, its stack at `stack`, beyond the places that families other than
`fam` hold there (R189). -/
def hasRoom (s : State) (c : Nat) (h : Header) (fam stack : Nat) : Bool :=
  spareRoom s c h (round4 (h.s + h.l)) fam && stackFits (getCore s c) h.stack stack &&
    stacksFit (withStack (getCore s c) h.stack stack) ((placeHolders s c fam).map (·.hdr.stack))

/-- A core could grant a slot to a first member of family `fam` (R189). -/
def couldGrant (s : State) (c : Nat) (h : Header) (globals : Bool) (fam : Nat) : Bool :=
  spareRoom s c h (round4 (h.s + h.l) + (if globals then h.g else 0) + round4 h.s) fam &&
    stacksFit (getCore s c) (h.stack :: (placeHolders s c fam).map (·.hdr.stack))

/-! ### Starting a thread (R179) -/

/-- The plain full register of a value. -/
def fullReg (v : Word) : Reg := { Reg.empty with val := v, full := true }

/-- A window of these registers. -/
def windowOf (rs : List (Nat × Reg)) : SMap Reg := rs.foldl (fun m p => mapSet Reg.empty m p.1 p.2) []

/-- Full registers with values. -/
def fullRegs (vs : List (Nat × Word)) : SMap Reg :=
  vs.foldl (fun m p => mapSet Reg.empty m p.1 { Reg.empty with val := p.2, full := true }) []

/-- What a thread starts with besides R179's zeros. -/
structure Start where
  kind   : Kind
  ctx    : Nat
  fam    : Nat
  member : Nat
  work   : Nat
  item   : Nat
  hdr    : Header
  stack  : Nat
  regs   : List (Nat × Reg)

/-- Window number of a local. -/
def localNo (h : Header) (j : Nat) : Nat := 1 + h.g + 2 * h.s + j

/-- The locals that exist among l0, l1, … with these values. -/
def localRegs (h : Header) (vs : List Word) : List (Nat × Reg) :=
  ((List.range vs.length).zip vs).filterMap (fun p => if p.1 < h.l then some (localNo h p.1, fullReg p.2) else none)

/-- Start a thread in a slot. -/
def startThread (s : State) (c t : Nat) (st : Start) : State :=
  let (gen, s) :=
    match getCtx s st.ctx with
    | some x => ((threadSeed x).1, onCtx s st.ctx (fun x => (threadSeed x).2))
    | none => (((1 : Word), (0 : Word)), s)
  let s :=
    if st.hdr.stack = 0 then s
    else
      let co := getCore s c
      putCore s c { co with allocs := co.allocs ++ [⟨st.ctx, 32 + t, st.stack, roundUp st.hdr.stack 256⟩] }
  let (uid, s) := fresh s
  putThread s c t
    { Thread.free with
        status := .ready, kind := st.kind, uid := uid, ctx := st.ctx, fam := st.fam, member := st.member,
        work := st.work, item := st.item, hdr := st.hdr, pc := st.hdr.entry, regs := windowOf st.regs, genP := gen.1,
        genQ := gen.2, stackBase := if st.hdr.stack = 0 then 0 else st.stack }

/-- The index registers of member k (R186). -/
def indexValues (f : Family) (k : Nat) : List Word :=
  let ext := (f.ext.takeWhile (fun e => !(e == 0)))
  match ext with
  | [] => [BitVec.ofInt 64 (f.start + (k : Int) * (if f.step = 0 then 1 else f.step))]
  | _ =>
    let r := (ext.dropLast).foldl (fun (acc : List Word × Nat) e => (acc.1 ++ [word (acc.2 % e)], acc.2 / e)) ([], k)
    r.1 ++ [word r.2]

/-- The member count of R185. -/
def familyCount (start limit step : Int) : Nat :=
  let step := if step = 0 then 1 else step
  if 0 < step then ((limit - start + step - 1) / step).toNat else ((start - limit + (-step) - 1) / (-step)).toNat

/-- The registers that are full when member k starts: index registers, globals, dependents that have arrived. -/
def memberRegs (f : Family) (k : Nat) (deps : List (Nat × Reg)) : List (Nat × Reg) :=
  localRegs f.hdr (indexValues f k) ++ f.globals.map (fun p => (1 + p.1, fullReg p.2)) ++
    deps.map (fun p => (1 + f.hdr.g + f.hdr.s + p.1, p.2))

/-- The dependents of member k: those of `fput.s` for member 0, else the predecessor's shareds that have arrived. -/
def memberDeps (f : Family) (k : Nat) : List (Nat × Reg) :=
  if k = 0 then f.deps.map (fun p => (p.1, fullReg p.2))
  else f.arrived.filterMap (fun p => if p.1 / 64 = k - 1 then some (p.1 % 64, p.2) else none)

/-- Start member k of a family in a slot. -/
def startMember (s : State) (c t fam k stack : Nat) : State :=
  match getFam s fam with
  | none => s
  | some f => startThread s c t ⟨.member, f.ctx, fam, k, 0, 0, f.hdr, stack, memberRegs f k (memberDeps f k)⟩

/-! ### Ending threads -/

/-- Give back a thread's monitor entries, stack and, for a fold nest's last thread, the fold pool. -/
def releaseCore (co : Core) (t ctx uid : Nat) : Core :=
  { co with mons := co.mons.filter (fun m => !(m.uid == uid))
            allocs := co.allocs.filter (fun a => !(a.ctx == ctx && a.entry == 32 + t))
            queue := co.queue.filter (fun d => !(d.uid == uid))
            poolBy := if co.poolBy = uid then 0 else co.poolBy }

/-- Free a slot. -/
def freeThread (s : State) (c t : Nat) : State :=
  let th := getThread s c t
  putThread (putCore s c (releaseCore (getCore s c) t th.ctx th.uid)) c t Thread.free

/-! ### Spilled windows (R193) -/

/-- The launch a core belongs to. -/
def coreLaunch (s : State) (c : Nat) : Option Launch := s.launches.find? (fun l => l.id == (getCore s c).launch && l.state == .running)

/-- The virtual address of frame d ≥ 5 of a slot in the spill area, none beyond the slot's share. The shares of the slots begin at
even thirty-seconds of the core's, before the rounding to 576 bytes (log 101). -/
def spillAddr (s : State) (c t d : Nat) : Option Nat :=
  match coreLaunch s c with
  | none => none
  | some l =>
    let share := l.spillSize / (if l.cores.length = 0 then 1 else l.cores.length)
    let slotShare := share / 32 / 576 * 576
    let i := (l.cores.takeWhile (fun x => !(x == c))).length
    if 576 * (d - 5) + 576 ≤ slotShare then some (l.spillBase.toNat + i * share + t * (share / 32) + 576 * (d - 5)) else none

/-- The places of words, none unless the context may read each of them, and write it where the frame is to be written. -/
def frameWords (s : State) (c ctx : Nat) (wr : Bool) : List Nat → Option (List Nat)
  | [] => some []
  | va :: r =>
    match (translate s c ctx va 8 true wr false).1, frameWords s c ctx wr r with
    | .pa k, some ks => some (k :: ks)
    | _, _ => none

/-- Where frame d of a slot goes: one of the four in the core's save region, at a place of the device's choosing (R448, log 6), else
its 72 words in the spill area; none where it has no place. `wr` says that it is to be written; it is read back otherwise. -/
def framePlace (s : State) (c t ctx d : Nat) (wr : Bool) : Option (List Nat) :=
  let at_ := fun (base : Nat) => (List.range 72).map (fun i => base + 8 * i)
  if d < 5 then some (at_ (spKey c + (getCore s c).saveBase + 0x800 + 576 * (4 * t + (d - 1))))
  else
    match spillAddr s c t d with
    | none => none
    | some va => frameWords s c ctx wr (at_ va)

/-- The 72 words of a spill frame. -/
def frameValues (regs : SMap Reg) : List Nat :=
  let r := fun i => mapGet Reg.empty regs i
  (List.range 64).map (fun i => (r i).val.toNat) ++
    [(List.range 64).foldl (fun a i => if (r i).full then a + 2 ^ i else a) 0,
      (List.range 64).foldl (fun a i => if (r i).poison then a + 2 ^ i else a) 0] ++ List.replicate 6 0

/-- The 576 bytes of a spill frame. -/
def frameBytes (regs : SMap Reg) : List Byte := (frameValues regs).flatMap (leBytes 8)

/-- Write a spill frame; a marked word or line that it covers whole is marked no longer (R405). -/
def spillFrame (s : State) (ks : List Nat) (regs : SMap Reg) : State :=
  let s1 := (ks.zip (frameValues regs)).foldl (fun st p => pokeBytes st p.1 (leBytes 8 p.2)) s
  { s1 with marks := s1.marks.filter (fun m => !(List.range (markSize m / 8)).all (fun i => ks.contains (m + 8 * i))) }

/-- The registers of a spill frame: one whose word holds an uncorrectable error is poisoned. The model's choice (log 127): the words of
the full/empty and of the poison bits restore no register, and bits that an error has reached are taken as they read. -/
def frameRegs (s : State) (ks : List Nat) : SMap Reg :=
  (List.range 64).foldl (fun m i =>
    let k := ks.getD i 0
    let full := (peek s (ks.getD 64 0) 8).testBit i
    let poison := (peek s (ks.getD 65 0) 8).testBit i || rangeMarked s k 8
    mapSet Reg.empty m i { Reg.empty with val := word (peek s k 8), full := full || poison, poison := poison }) []

/-- The window number is a global or a dependent, which others fill (R181, R197). -/
def isFilled (h : Header) (n : Nat) : Bool := decide ((1 ≤ n ∧ n < 1 + h.g) ∨ (1 + h.g + h.s ≤ n ∧ n < 1 + h.g + 2 * h.s))

/-- A window read back from its frame, which holds value, full/empty bit and poison bit of each register: a global or dependent
that has arrived since is as it arrived. -/
def mergeWindow (h : Header) (now frame : SMap Reg) : SMap Reg :=
  (List.range 64).foldl (fun m i =>
    let f := mapGet Reg.empty frame i
    let x := mapGet Reg.empty now i
    mapSet Reg.empty m i
      (if isFilled h i && !f.poison then x else { x with val := f.val, full := f.full, poison := f.poison })) []

/-- The window of a creator as its frame gives it back, poisoned where the frame can no longer be read. -/
def unspill (s : State) (c t : Nat) (th : Thread) : Thread :=
  match framePlace s c t th.ctx (th.frames.length + 1) false with
  | some ks => { th with regs := mergeWindow th.hdr th.regs (frameRegs s ks) }
  | none => { th with regs := (List.range 64).foldl (fun m i => mapSet Reg.empty m i { Reg.empty with full := true, poison := true }) [] }

/-- A creator's stack while it is set aside beneath a fold: its bytes stay its own, and no entry names them (R193). -/
def asideEntry (t : Nat) (th : Thread) : Alloc := ⟨th.ctx, 64 + t, th.stackBase, roundUp th.hdr.stack 256⟩

/-- The core no longer holds anything for the fold of a creator: its stack's place and the pool it took. -/
def dropFold (co : Core) (t : Nat) (th : Thread) : Core :=
  { co with allocs := co.allocs.filter (fun a => !(a == asideEntry t th)), poolBy := if th.foldPool then 0 else co.poolBy }

/-- End a fold: what it obtained is released, and the creator gets its window, its stack entry and its slot back, ready at the
waiting instruction (R192, R193). -/
def endFold (s : State) (c t frame : Nat) : State :=
  match mapFind s.spilled frame with
  | none => s
  | some th =>
    let th1 := unspill s c t th
    let co := dropFold (getCore s c) t th
    let co := if th.hdr.stack = 0 then co
      else { co with allocs := co.allocs ++ [⟨th.ctx, 32 + t, th.stackBase, roundUp th.hdr.stack 256⟩] }
    putThread (putCore { s with spilled := mapDel s.spilled frame } c co) c t
      { th1 with status := .ready, foldRegs := 0, foldTiles := 0, poolTiles := 0, poolStack := 0, foldPool := false }

/-- Threads that one of these threads created through families, running or spilled. -/
def childUids (s : State) (uids : List Nat) : List Nat :=
  let fams := (s.families.filter (fun p => uids.contains p.2.creator)).map (·.1)
  ((s.threads.map (·.2)) ++ (s.spilled.map (·.2))).filterMap (fun th =>
    if th.kind = .member ∧ fams.contains th.fam ∧ ¬ uids.contains th.uid then some th.uid else none)

/-- Close a list of threads under the families they created (R200). -/
def killClosure (s : State) : Nat → List Nat → List Nat
  | 0, uids => uids
  | n + 1, uids =>
    match childUids s uids with
    | [] => uids
    | more => killClosure s n (uids ++ more)

/-- Remove a thread from its slot, with the creators beneath it that are removed too; one that is not gets the slot back. -/
def removeFrom (s : State) (uids : List Nat) (c t : Nat) : State :=
  let th := getThread s c t
  if uids.contains th.uid && !(th.status == .free) then
    let gone := (creatorsOf s th).filter (fun x => uids.contains x.uid)
    let s1 := freeThread s c t
    let s2 := if gone.isEmpty then s1 else putCore s1 c (gone.foldl (fun co x => dropFold co t x) (getCore s1 c))
    match th.frames.find? (fun fr => match mapFind s.spilled fr with | some x => !uids.contains x.uid | none => false) with
    | some fr => endFold s2 c t fr
    | none => s2
  else s

/-- Count a member as ended in its chunk. -/
def markEnded (f : Family) (k : Nat) : Family :=
  { f with ended := f.ended + 1
           chunks := f.chunks.map (fun ch =>
             if ch.first ≤ k ∧ k < ch.first + ch.size then { ch with ended := setIns ch.ended k } else ch) }

/-- Kill these threads and everything they created (R200): nothing more is issued, results are discarded, slots are freed;
accesses and commands already issued stay in flight. -/
def killThreads (s : State) (uids : List Nat) : State :=
  let all := killClosure s (s.threads.length + s.spilled.length) uids
  let gone := ((s.threads.map (·.2)) ++ (s.spilled.map (·.2))).filter (fun th => all.contains th.uid)
  let s1 := (liveThreads s).foldl (fun st p => removeFrom st all p.1 p.2.1) s
  let s2 := { s1 with spilled := s1.spilled.filter (fun p => !all.contains p.2.uid) }
  let s3 := gone.foldl (fun st th =>
    if th.kind = .member then onFam st th.fam (fun f => { markEnded f th.member with killed := f.killed ++ all }) else st) s2
  { s3 with families := s3.families.map (fun p =>
      if all.contains p.2.creator ∧ p.2.outcome = .running then (p.1, { p.2 with outcome := .failed 0 }) else p) }

/-- The threads of a family. -/
def memberUids (s : State) (fam : Nat) : List Nat :=
  ((s.threads.map (·.2)) ++ (s.spilled.map (·.2))).filterMap (fun th =>
    if th.kind = .member ∧ th.fam = fam then some th.uid else none)

/-- End a running family otherwise than by its members' exits: the first such ending wins, no chunk is handed out any more
and unfinished members are killed (R187, R200). -/
def endFamily (s : State) (fam : Nat) (o : Outcome) : State :=
  match getFam s fam with
  | some f =>
    if f.outcome = .running then killThreads (onFam s fam (fun f => { f with outcome := o })) (memberUids s fam) else s
  | none => s

/-- An access or message in flight that its thread's end does not recall (R200): not a result that is only owed to a register, the entry of
an engine's access in a fault queue, nor a request that waits at its home for a word to fill or a barrier to complete. -/
def stillOwed (r : Request) : Bool :=
  r.resp.isNone &&
    (match r.kind with
     | .delayed => false
     | .macc _ _ _ _ _ _ => false
     | .engine _ => false
     | .ldf | .lde | .bar => r.arrived == 0
     | _ => true)

/-- Some access or engine command that one of these threads has issued is not performed yet. -/
def uidsOwe (s : State) (uids : List Nat) : Bool :=
  s.flights.any (fun r => uids.contains r.uid && stillOwed r) ||
    s.cores.any (fun p => p.2.copies.any (fun k => uids.contains k.uid) || p.2.mq.any (fun k => uids.contains k.uid) ||
      p.2.drains.any (fun k => uids.contains k.uid) || (p.2.im0.state == .loading && uids.contains p.2.im0.loadBy) ||
      (p.2.im1.state == .loading && uids.contains p.2.im1.loadBy)) ||
    s.mesh.any (fun m => uids.contains m.2.uid) || s.gangs.any (fun g => uids.contains g.uid) ||
    s.runs.any (fun r => uids.contains r.uid) || s.colls.any (fun k => uids.contains k.uid)

/-- A family has ended: it has an outcome, none of its members is left, and what its killed members had issued is performed
(R199, R200). -/
def famEnded (s : State) (fam : Nat) : Bool :=
  match getFam s fam with
  | some f => !(f.outcome == .running) && (memberUids s fam).isEmpty && !uidsOwe s f.killed
  | none => true

/-- The member runs again after its core was killed (R205). -/
def runsAgain (f : Family) (k : Nat) : Bool := f.again.any (fun p => decide (p.1 ≤ k ∧ k < p.1 + p.2))

/-- Fill a window register of the members a family has running, or spilled, that this picks. -/
def fillWindows (s : State) (fam : Nat) (who : Thread → Bool) (w : Nat) (x : Reg) : State :=
  let f := fun (th : Thread) =>
    if th.kind = .member ∧ th.fam = fam ∧ ¬ th.status = .free ∧ who th then
      { th with regs := mapSet Reg.empty th.regs w x }
    else th
  { s with threads := s.threads.map (fun p => (p.1, f p.2)), spilled := s.spilled.map (fun p => (p.1, f p.2)) }

/-- Fill a dependent of the successor of member k with a shared, poisoned or indeterminate as that is (R181); a rerun member's
shared is discarded where the dependent is full already (R205). -/
def arriveShared (s : State) (fam k n : Nat) (x : Reg) : State :=
  match getFam s fam with
  | none => s
  | some f =>
    if runsAgain f k && (mapFind f.arrived (k * 64 + n)).isSome then s
    else
      fillWindows (onFam s fam (fun f => { f with arrived := mapPut f.arrived (k * 64 + n) x })) fam
        (fun th => th.member == k + 1) (1 + f.hdr.g + f.hdr.s + n) x

/-- A break of the family is on its way to the home. -/
def breakSent (s : State) (fam : Nat) : Bool :=
  s.flights.any (fun r => match r.kind with | .brk f _ => f == fam | _ => false)

/-- A member that ended by `exit`: the last one completes the family, unless a member broke (R200, R201). -/
def memberExit (s : State) (fam k : Nat) : State :=
  onFam s fam (fun f =>
    let f := markEnded f k
    if f.ended = f.count ∧ f.outcome = .running ∧ breakSent s fam = false then { f with outcome := .completed } else f)

/-- The shareds of a thread that are full. -/
def fullShareds (th : Thread) : List (Nat × Reg) :=
  (List.range th.hdr.s).filterMap (fun n =>
    let r := mapGet Reg.empty th.regs (1 + th.hdr.g + n)
    if r.full then some (n, r) else none)

/-! ### Folding (R192, R193) -/

/-- The outermost creator of a fold nest. -/
def nestOf (s : State) (th : Thread) : Nat := (slotOwner s th).uid

/-- What a fold takes: registers and tiles of the core, and tiles of the pool, whether its members' stack lies in the pool, and
whether the pool is taken now. -/
structure FoldTake where
  regs  : Nat
  tiles : Nat
  pool  : Nat
  stack : Bool
  takes : Bool
deriving DecidableEq, Repr

/-- What a fold finds (R193): its resources, an unrelated nest that holds the pool it needs, or too little. -/
inductive FoldFind where
  | found (x : FoldTake) | wait | short
deriving DecidableEq, Repr

/-- The tiles and stack bytes of the pool that a creator's nest uses. -/
def poolUse (s : State) (th : Thread) : Nat × Nat :=
  match creatorsOf s th with
  | x :: _ => (x.poolTiles, x.poolStack)
  | [] => (0, 0)

/-- Registers the spill of a creator frees: its own, or those of the fold it is a member of. -/
def freedRegs (th : Thread) : Nat :=
  if th.frames.isEmpty then round4 (th.hdr.s + th.hdr.l) else round4 (th.hdr.g + 2 * th.hdr.s + th.hdr.l)

/-- Bytes of the pool's stack in use with one more stack, a granule between two (R252). -/
def poolStackWith (used bytes : Nat) : Nat := (if used = 0 then 0 else used + 256) + roundUp bytes 256

/-- Find a fold's resources: first the registers the spill frees, then what is free on the core beyond the places that families
hold there, then the pool (R193). -/
def foldResources (s : State) (c : Nat) (th : Thread) (h : Header) : FoldFind :=
  let co := getCore s c
  let need := round4 (h.g + 2 * h.s + h.l) - freedRegs th
  let held := placeHolders s c 0
  let fr := freeRegs s c - (held.map (fun f => heldRegs f c)).sum
  let ft := freeTiles s c - (held.map (·.hdr.tiles)).sum
  let lack := h.tiles - ft
  let inPool := !stacksFit co (h.stack :: held.map (·.hdr.stack))
  let use := poolUse s th
  if need ≤ fr ∧ lack = 0 ∧ inPool = false then .found ⟨need, h.tiles, 0, false, false⟩
  else if co.poolBy = 0 then .found ⟨if need < fr then need else fr, h.tiles - lack, lack, inPool, true⟩
  else if co.poolBy = nestOf s th then
    if need ≤ fr ∧ use.1 + lack ≤ 16 ∧ (inPool = false ∨ poolStackWith use.2 h.stack ≤ 16384) then
      .found ⟨need, h.tiles - lack, lack, inPool, false⟩
    else .short
  else .wait

/-- Start member k of a folded family in the slot of its creator, which stands spilled as `frame`. -/
def startFolded (s : State) (c t fam k frame : Nat) (frames : List Nat) (stack : Nat) : State :=
  match getFam s fam with
  | none => s
  | some f =>
    let s := startThread s c t ⟨.member, f.ctx, fam, k, frame, 0, f.hdr, stack, memberRegs f k (memberDeps f k)⟩
    putThread s c t { getThread s c t with frames := frames }

/-- Where the fold pool's stack begins: at a place of the save region of the device's choosing (R448, log 6). -/
def poolStackBase (co : Core) : Nat := co.saveBase + 0x13000

/-- Fold a family in the slot of its creator, which waits on it; `stack` is the place the core chooses for its members' stack. -/
def foldFamily (s : State) (c t fam stack : Nat) : State :=
  let th := getThread s c t
  match getFam s fam with
  | none => s
  | some f =>
    let fail := putThread (endFamily s fam (.failed 8)) c t { th with status := .ready, wantFold := 0 }
    match framePlace s c t th.ctx (th.frames.length + 1) true, foldResources s c th f.hdr with
    | none, _ => fail
    | _, .short => fail
    | some _, .wait => s
    | some ks, .found x =>
      let co := getCore s c
      let use := poolUse s th
      let used := if x.stack then poolStackWith use.2 f.hdr.stack else use.2
      let base := if x.stack then poolStackBase co + used - roundUp f.hdr.stack 256 else stack
      if !x.stack && !(stackFits co f.hdr.stack stack &&
          stacksFit (withStack co f.hdr.stack stack) ((placeHolders s c 0).map (·.hdr.stack))) then s
      else
        let (fr, s) := fresh (spillFrame s ks th.regs)
        let spilled := { th with
          status := .folding, wantFold := 0, foldRegs := x.regs, foldTiles := x.tiles, poolTiles := use.1 + x.pool
          poolStack := used, foldPool := x.takes }
        let s := { s with spilled := mapPut s.spilled fr spilled }
        let own := fun (a : Alloc) => a.ctx == th.ctx && a.entry == 32 + t
        let s := putCore s c
          { co with
            allocs := co.allocs.map (fun a => if own a then asideEntry t th else a)
            poolBy := if x.takes then nestOf s th else co.poolBy }
        let s := onFam s fam (fun f =>
          { f with folded := true, chunks := [⟨c, 0, f.count, f.count, [], 0⟩], claimed := f.count })
        startFolded s c t fam 0 fr (fr :: th.frames) base

/-- A folded member ends by `exit`: its shareds become the next member's dependents, and the next member starts or the
creator resumes. -/
def foldedExit (s : State) (c t : Nat) : State :=
  let th := getThread s c t
  let s := onFam s th.fam (fun f =>
    { f with arrived := (fullShareds th).foldl (fun m p => mapPut m (th.member * 64 + p.1) p.2) f.arrived
             shareds := (fullShareds th).foldl (fun m p => mapPut m (th.member * 64 + p.1) p.2) f.shareds })
  let s := memberExit s th.fam th.member
  let s := freeThread s c t
  match th.frames, getFam s th.fam with
  | fr :: _, some f =>
    if f.outcome = .running ∧ th.member + 1 < f.count then startFolded s c t th.fam (th.member + 1) fr th.frames th.stackBase
    else endFold s c t fr
  | _, _ => s

/-- A member ends by `exit` (R201). -/
def exitMember (s : State) (c t : Nat) : State :=
  let th := getThread s c t
  if th.frames.isEmpty then freeThread (memberExit s th.fam th.member) c t else foldedExit s c t

/-- A thread ends without `exit`: a breaking member, or one ended by the trap handler. A folded one gives its slot back. -/
def dropThread (s : State) (c t : Nat) : State :=
  let th := getThread s c t
  let s := if th.kind = .member then onFam s th.fam (fun f => markEnded f th.member) else s
  let s := freeThread s c t
  match th.frames with
  | fr :: _ => endFold s c t fr
  | [] => s

end Sys2Proof.Machine
end

