-- ==== Sys2Proof/Machine/Ops.lean ====
section
/-! DEFINITION. The operations every meaning is written over: reading and writing registers, waiting, taking a trap and
returning from one, checking an address, and sending an access to its home. -/
namespace Sys2Proof.Machine

/-! ### How an instruction stops -/

/-- An instruction that does not complete: it waits in a state of R175, or it traps with a cause and a detail (R382, R383);
`as` variants first replace the thread (sticky flags set by a trapping instruction, a fold asked for, a port's fault taken);
`indet` is the 0x14 of a register or of a lost operation, with the address and the PC of its atomic (R173). -/
inductive Stop where
  | wait (st : Status)
  | waitAs (th : Thread) (st : Status)
  | trap (cause : Nat) (detail : Word)
  | trapAs (th : Thread) (cause : Nat) (detail : Word)
  | indet (th : Thread) (addr : Word) (pc : CodeAddr)

/-! ### Register state (R125 to R130, R180) -/

/-- How many window numbers have a name: z, globals, shareds, dependents, locals (R31). -/
def windowSize (h : Header) : Nat := 1 + h.g + 2 * h.s + h.l

/-- The window number is a shared. -/
def isShared (h : Header) (n : Nat) : Bool := decide (1 + h.g ≤ n ∧ n < 1 + h.g + h.s)

/-- The window number is a global or a dependent, which an instruction may not write (R180). -/
def isReadOnly (h : Header) (n : Nat) : Bool := decide ((1 ≤ n ∧ n < 1 + h.g) ∨ (1 + h.g + h.s ≤ n ∧ n < 1 + h.g + 2 * h.s))

/-- The window number is a local. -/
def isLocal (h : Header) (n : Nat) : Bool := decide (1 + h.g + 2 * h.s ≤ n ∧ n < windowSize h)

/-- A register as it stands; z is always full and zero. -/
def getReg (th : Thread) (n : RegNo) : Reg :=
  if n = 0 then { Reg.empty with full := true } else mapGet Reg.empty th.regs n.toNat

/-- The port a name is bound to. -/
def portOf (th : Thread) (n : RegNo) : Option Port := th.ports.find? (fun p => p.reg == n)

/-- Register naming (R53): every name an instruction uses as a scalar operand has a register. -/
def checkNames (th : Thread) (ns : List RegNo) : Except Stop Unit :=
  if ns.all (fun n => decide (n.toNat < windowSize th.hdr)) then .ok () else .error (.trap 0x02 0)

/-- The names of source operands: each has a register (R53), and none is bound to an output port (R269); that 0x02 is raised with the
naming faults (log 113). -/
def checkSourceNames (th : Thread) (ns : List RegNo) : Except Stop Unit :=
  if ns.all (fun n => decide (n.toNat < windowSize th.hdr)) && !ns.any (fun n => th.ports.any (fun p => p.reg == n && p.output)) then
    .ok ()
  else .error (.trap 0x02 0)

/-- A destination: named, and neither a global, a dependent (R180) nor an input-bound name (R269). -/
def checkDst (th : Thread) (d : RegNo) : Except Stop Unit :=
  if d.toNat < windowSize th.hdr ∧ isReadOnly th.hdr d.toNat = false ∧
      (th.ports.any (fun p => p.reg == d && !p.output)) = false then .ok ()
  else .error (.trap 0x02 0)

/-- Element count of a record (R257). -/
def recCount (r : ShapeRec) : Nat := (r.ext.take r.rank).foldl (· * ·) 1

/-- One source operand: its value and poison states, and the thread once a bound element is taken; none while it is empty.
After a stream's last element reads are zero (R269). -/
def takeSource (th : Thread) (n : RegNo) : Option (Reg × Option Fetched × Thread) :=
  match portOf th n with
  | none =>
    let r := getReg th n
    if r.full then some (r, none, th) else none
  | some p =>
    match p.fetched with
    | e :: rest =>
      let r := { Reg.empty with val := e.val, full := true, poison := e.cause == 0x0A }
      some (r, if e.cause = 0 then none else some e,
        { th with ports := th.ports.map (fun q => if q.reg = n then { q with fetched := rest, pos := q.pos + 1 } else q) })
    | [] => if recCount p.shape ≤ p.pos then some ({ Reg.empty with full := true }, none, th) else none

/-- All source operands, in field order. A name that stands twice takes one element, then the next (R269). -/
def takeSources (th : Thread) : List RegNo → Option (List (Reg × Option Fetched) × Thread)
  | [] => some ([], th)
  | n :: r =>
    match takeSource th n with
    | none => none
    | some (x, e, th1) =>
      match takeSources th1 r with
      | none => none
      | some (xs, th2) => some ((x, e) :: xs, th2)

/-- A port whose failed fetch is reported: the element is fetched again when the instruction is reissued (R271). The model's choice
(log 129): e21 stays as it is, and FADDR is set for a 0x0A too. -/
def dropFault (th : Thread) (e : Fetched) : Thread :=
  { th with ports := th.ports.map (fun p => { p with fetched := p.fetched.takeWhile (fun x => x != e) })
            eng := mapSet 0 th.eng 20 e.addr }

/-- Read source registers (R125, R128, R173, R269): wait while one is empty; then 0x0A if one is poisoned, else 0x14 if one
is indeterminate. The model's choice: a register stays indeterminate after its first reader has trapped, until it is written (log 23). -/
def readSources (th : Thread) (ns : List RegNo) : Except Stop (List Word × Thread) :=
  if ns.any (fun n => th.ports.any (fun p => p.reg == n && p.output)) then .error (.trap 0x02 0)
  else
    match takeSources th ns with
    | none => .error (.wait .waitReg)
    | some (xs, th2) =>
      match xs.find? (fun x => match x.2 with | some e => !(e.cause == 0x0A) | none => false) with
      | some (_, some e) => .error (.trapAs (dropFault th e) e.cause e.addr)
      | _ =>
        match xs.find? (fun x => x.1.poison) with
        | some (_, some e) => .error (.trapAs (dropFault th e) 0x0A 0)
        | some (_, none) => .error (.trap 0x0A 0)
        | none =>
          match xs.find? (fun x => x.1.indet) with
          | some x => .error (.indet th x.1.indetAddr x.1.indetPc)
          | none => .ok (xs.map (fun x => x.1.val), th2)

/-- Set a register of a thread, clearing poison and the outstanding mark; z discards. -/
def setReg (th : Thread) (d : RegNo) (r : Reg) : Thread :=
  if d = 0 then th else { th with regs := mapSet Reg.empty th.regs d.toNat r }

/-- A request or message with everything at rest. -/
def Request.zero : Request :=
  { id := 0, core := 0, slot := 0, uid := 0, ctx := 0, pc := 0, kind := .delayed, va := 0, key := 0, width := 0, drop := false,
    d := 0, b := 0, e := 0, scope := 0, acq := false, rel := false, arrived := 0, resp := none, poison := false, indet := false,
    tag := 0, tries := 0, parked := false, replayed := false, turn := 0, shields := [] }

/-- Put a request in flight under a fresh number. -/
def sendRequest (s : State) (r : Request) : State :=
  { s with flights := s.flights ++ [{ r with id := s.nextId }], nextId := s.nextId + 1 }

/-- Deliver a written shared toward the successor, poisoned or indeterminate as it was written (R181, R191): at once within a
core, else as a message; before the successor's chunk is claimed the core keeps it. -/
def sendShared (s : State) (c t : Nat) (th : Thread) (n : Nat) (x : Reg) : State :=
  if th.kind = .member ∧ th.frames = [] then
    let s := onFam s th.fam (fun f => { f with shareds := mapPut f.shareds (th.member * 64 + n) x })
    match getFam s th.fam with
    | none => s
    | some f =>
      match chunkCore f (th.member + 1) with
      | none => s
      | some c2 =>
        if c2 = c then arriveShared s th.fam th.member n x
        else sendRequest s
          { Request.zero with
            core := c, slot := t, uid := th.uid, ctx := th.ctx, kind := .shared th.fam th.member n, b := x.val
            poison := x.poison, indet := x.indet, va := x.indetAddr, pc := x.indetPc }
  else s

/-- The register no longer waits for a result (R127). -/
def settleReg (th : Thread) (d : RegNo) : Thread := setReg th d { getReg th d with pend := false }

/-- An output port takes one more element (R270). -/
def takesMore (p : Port) : Bool := p.output && !p.stopped && decide (p.pos < recCount p.shape)

/-- The request appends an element to this port. -/
def appendsTo (port : Nat) (q : Request) : Bool := match q.kind with | .streamOut j _ _ => j == port | _ => false

/-- Every element of an output port on its way learns how many have been appended to it, in `e`: that stands when the thread has spilled
beneath a fold or is gone (R193, R200, R255). -/
def countAppended (s : State) (port n : Nat) : State :=
  { s with flights := s.flights.map (fun q => if appendsTo port q then { q with e := word n } else q) }

/-- Write a register of the thread in a slot (R126): z discards; an output-bound name appends an element (R270); a shared is
also delivered to the successor (R181). -/
def writeRegAt (s : State) (c t : Nat) (d : RegNo) (r : Reg) : State :=
  let th := getThread s c t
  if d = 0 then s
  else
    match portOf th d with
    | some p =>
      let th := settleReg th d
      if takesMore p then
        let s := putThread s c t { th with ports := th.ports.map (fun q => if q.reg = d then { q with pos := q.pos + 1 } else q) }
        sendRequest (countAppended s p.id (p.pos + 1))
          { Request.zero with
            core := c, slot := t, uid := th.uid, ctx := th.ctx, pc := p.pc, kind := .streamOut p.id p.shape p.pos, b := r.val
            e := word (p.pos + 1), d := d, va := p.addr }
      else putThread s c t th
    | none =>
      let s := putThread s c t (setReg th d r)
      if isShared th.hdr d.toNat then sendShared s c t th (d.toNat - 1 - th.hdr.g) r else s

/-- Write a register of the thread at the focus. -/
def putReg (s : State) (d : RegNo) (x : Reg) : State := writeRegAt s s.core s.slot d x

/-- Write a value to a register of the thread at the focus. -/
def writeReg (s : State) (d : RegNo) (v : Word) : State := putReg s d (fullReg v)

/-- Write a register with a result that comes late, of request or command `id`: an element that it appends to an output port stands for
that result in the fences that wait for it (R287, R296). -/
def writeLate (s : State) (c t id : Nat) (d : RegNo) (x : Reg) : State :=
  let s1 := writeRegAt s c t d x
  match portOf (getThread s c t) d with
  | none => s1
  | some p =>
    if d = 0 || !takesMore p then s1
    else
      let th := getThread s1 c t
      putThread s1 c t { th with
        fences := th.fences.map (fun f => if f.appends.contains id then { f with before := f.before ++ [s.nextId] } else f) }

/-- Empty a destination whose result comes later (R126). -/
def pendReg (s : State) (d : RegNo) : State := setCur s (setReg (cur s) d { Reg.empty with pend := true })

/-- The instruction completes: the thread is ready at a PC. -/
def retireTo (s : State) (pc : CodeAddr) : State := setCur s { cur s with pc := pc, status := .ready }

/-- The instruction completes: the thread is ready at the sequential successor (R50). -/
def retire (s : State) : State := retireTo s (pcNext (cur s).pc)

/-! ### Privilege (R381) -/

/-- Handler mode: slot 31 of every core and every control core. -/
def isHandler (s : State) : Bool := s.slot == 31

/-- Kernel mode: the other slots of the control cores. -/
def isKernel (s : State) : Bool := decide (1088 ≤ s.core) && !(s.slot == 31)

/-- Handler or kernel mode. -/
def isPriv (c t : Nat) : Bool := t == 31 || decide (1088 ≤ c)

/-- An instruction allowed in kernel mode only. -/
def needKernel (s : State) : Except Stop Unit := if isKernel s then .ok () else .error (.trap 0x06 0)

/-! ### Guard record (R254, R445) -/

/-- Record a guard-granule touch for a thread: the first one whole, later ones counted. -/
def recordGuard (th : Thread) (key logical agent : Nat) (remote : Bool) (pc : CodeAddr) : Thread :=
  let off := (key - 2 ^ 48) % 2 ^ 21
  if bits th.guard0 47 47 = 0 then
    { th with
      guard0 := word (off + (if remote then 2 ^ 21 else 0) + logical % 1024 * 2 ^ 22 + off / 8 % 32 * 2 ^ 32 +
        agent % 4 * 2 ^ 45 + 2 ^ 47)
      guard1 := pcWord pc }
  else if bits th.guard0 44 37 < 255 then { th with guard0 := th.guard0 + word (2 ^ 37) }
  else th

/-! ### Addresses (R245 to R254, R418) -/

/-- Where an access goes. `drop` is a guard touch, `park` a page absent from the export table (R418). -/
structure Loc where
  win   : Win
  key   : Nat
  drop  : Bool
  park  : Bool
  remote : Bool
  logical : Nat
deriving DecidableEq, Repr

/-- The local memory behind an offset of this device's own fabric window, through the export table (R418): entries of eight
bytes in the layout of a level 0 entry of R249 (log 8). A page of any other window than GDDR 7, LPDDR 6 and the urn is not
exported. -/
def exported (s : State) (ctx off : Nat) : Option Nat :=
  match getCtx s ctx with
  | none => none
  | some x =>
    let e := word (peek s (x.expTbl.toNat + 8 * (off / 2 ^ 16)) 8)
    let k := bits e 47 16 * 2 ^ 16 + off % 2 ^ 16
    let ok := match physWin k with | some .gddr | some .lpddr | some .urn => true | _ => false
    if x.expTbl = 0 ∨ bits e 0 0 = 0 ∨ ok = false then none else some k

/-- The page that has taken a retired page's place (R417). -/
def movedKey (s : State) (k : Nat) : Nat :=
  match mapFind s.dev.moved (k / 2 ^ 16) with
  | some p => p * 2 ^ 16 + k % 2 ^ 16
  | none => k

/-- An address in this device's own unicast window (R418). -/
def ownAway (s : State) (k : Nat) : Bool := decide (2 ^ 47 ≤ k ∧ k < 2 ^ 48) && (k - 2 ^ 47) / 2 ^ 33 == s.dev.devNum

/-- Its bytes belong to another device. -/
def farKey (s : State) (k : Nat) : Bool := decide (2 ^ 47 ≤ k ∧ k < 2 ^ 48) && !ownAway s k

/-- An address of the fabric's unicast window: another device's bytes, or this device's own behind the export table. -/
def fabricKey (k : Nat) : Bool := decide (2 ^ 47 ≤ k ∧ k < 2 ^ 48)

/-- Where a home finds a key now: behind the export table for an address of this device's own unicast window, none while its
page is absent (R418); in the page that took a retired one's place. -/
def localKey (s : State) (ctx k : Nat) : Option Nat :=
  if ownAway s k then (exported s ctx ((k - 2 ^ 47) % 2 ^ 33)).map (movedKey s) else some (movedKey s k)

/-- A request to this key cannot proceed at its home: the page is absent from the export table, the host's IOMMU faults on it, or
it is being retired (R412). -/
def homeFaults (s : State) (ctx k : Nat) : Bool :=
  match localKey s ctx k with
  | none => true
  | some j => s.dev.hostFaults.contains (j / 2 ^ 16) || s.dev.retiring.contains (j / 2 ^ 16)

/-- A physical address as a place. -/
def placeOf (s : State) (ctx pa : Nat) : Option Loc :=
  match physWin pa with
  | none => none
  | some .unicast =>
    match physDevice s ctx (nbits pa 44 33) with
    | none => none
    | some d =>
      if d = s.dev.devNum then
        match (exported s ctx (nbits pa 32 0)).map (movedKey s) with
        | some k => (physWin k).map (fun w => ⟨w, k, false, false, true, 0⟩)
        | none => some ⟨.unicast, 2 ^ 47 + d * 2 ^ 33 + nbits pa 32 0, false, true, false, 0⟩
      else some ⟨.unicast, 2 ^ 47 + d * 2 ^ 33 + nbits pa 32 0, false, false, false, 0⟩
  | some w => some ⟨w, movedKey s pa, false, false, false, 0⟩

/-- A scratchpad access: performed, dropped at a granule, or refused (R253). -/
def spPlace (s : State) (ctx target : Nat) (own : Option Nat) (priv remote : Bool) (logical off n : Nat) : Option Loc :=
  match spRange (getCore s target) ctx own priv off n with
  | .inside _ => some ⟨if remote then .remoteSp else .localSp, spKey target + off, false, false, remote, logical⟩
  | .granule => some ⟨if remote then .remoteSp else .localSp, spKey target + off, true, false, remote, logical⟩
  | .outside => none

/-- Resolve an address of a context for an access of n bytes from a slot of a core (R245, R247, R249, R253): the place, or
whether it fails (true) or is refused (false). -/
def resolve (s : State) (c t ctx : Nat) (va : Word) (n : Nat) (rd wr : Bool) : Except Bool Loc × State :=
  let a := va.toNat
  if bits va 63 52 ≠ 0 then (.error true, s)
  else if bits va 51 48 = 0xF then
    let o := a % 2 ^ 48
    if o + n ≤ 2 ^ 21 then
      match spPlace s ctx c (some (32 + t)) (isPriv c t) false (logicalCore s ctx c) o n with
      | some l => (.ok l, s)
      | none => (.error false, s)
    else if 0x10000000 ≤ o ∧ o + n ≤ 0x10000200 then (.ok ⟨.regWin, (o - 0x10000000) / 8, false, false, false, 0⟩, s)
    else if 0x100000000 ≤ o ∧ o + n ≤ 0x180000000 then
      let l := nbits o 30 21
      match physCore s ctx l with
      | none => (.error false, s)
      | some p =>
        match spPlace s ctx p (if p = c then some (32 + t) else none) (isPriv c t && p == c) true l (o % 2 ^ 21) n with
        | some x => (.ok x, s)
        | none => (.error false, s)
    else (.error true, s)
  else
    match translate s c ctx a n rd wr (isPriv c t) with
    | (.fail, s1) => (.error true, s1)
    | (.deny, s1) => (.error false, s1)
    | (.pa k, s1) =>
      match placeOf s1 ctx k with
      | some l => (.ok l, s1)
      | none => (.error true, s1)

/-- The number under which the hub's own agents translate. -/
def hubCore : Nat := 2048

/-- The address check of a memory instruction: alignment (R148), translation and permission (R149), and the windows it
accepts (R150); `fail` is the cause of a failed translation (R149). The kept translation comes back in the state. -/
def checkAddrAs (fail : Nat) (s : State) (va : Word) (align n : Nat) (rd wr : Bool) (accepts : Win → Bool) :
    Except Stop (Loc × State) :=
  if va.toNat % align ≠ 0 then .error (.trap 0x03 va)
  else
    match resolve s s.core s.slot (cur s).ctx va n rd wr with
    | (.error true, _) => .error (.trap fail va)
    | (.error false, _) => .error (.trap 0x06 va)
    | (.ok l, s1) => if accepts l.win then .ok (l, s1) else .error (.trap 0x06 va)

/-- The address check whose failed translation raises 0x05 for what writes and 0x04 for what only reads. -/
def checkAddr (s : State) (va : Word) (align n : Nat) (rd wr : Bool) (accepts : Win → Bool) : Except Stop (Loc × State) :=
  checkAddrAs (if wr then 0x05 else 0x04) s va align n rd wr accepts

/-! ### Reads of a running collective's result (R423) -/

/-- A key where its home finds it now, or as it was named while that is nowhere. -/
def hereKey (s : State) (ctx k : Nat) : Nat := (localKey s ctx k).getD k

/-- Free values for n bytes. -/
def freeBytes (s : State) (n : Nat) : Nat × State :=
  let r := (List.range ((n + 7) / 8)).foldl (fun (acc : Nat × State) i =>
    let v := freeVal acc.2
    (acc.1 + v.1.toNat * 2 ^ (64 * i), v.2)) (0, s)
  (r.1 % 2 ^ (8 * n), r.2)

/-- Bytes of an element of a format of at least 8 bits. -/
def elemBytes (f : Fmt) : Nat := f.container / 8

/-- The element format of a collective. -/
def collFmt (k : Coll) : Fmt := (Fmt.ofCode (BitVec.ofNat 5 k.fmt)).getD .i32

/-- The signal an element lies under has been written. -/
def collSigned (k : Coll) (i : Nat) : Bool := k.done.contains (i / k.tile)

/-- Every element not yet performed. -/
def collRest (k : Coll) : List Nat := (List.range k.count).filter (fun i => !collSigned k i)

/-- The byte belongs to an element of a running collective's result that no signal has announced (R423). -/
def recvOpen (s : State) (key : Nat) : Bool :=
  s.colls.any (fun k =>
    let w := elemBytes (collFmt k)
    (collRest k).any (fun i =>
      match (resolve s k.core k.slot k.ctx (k.recv + word (w * i)) w false true).1 with
      | .ok l => decide (hereKey s k.ctx l.key ≤ key ∧ key < hereKey s k.ctx l.key + w)
      | .error _ => false))

/-- The n bytes at a key that a read finds as v: those of such elements are free values (R423). -/
def openRead (s : State) (k n v : Nat) : Nat × State :=
  if (List.range n).any (fun i => recvOpen s (k + i)) then
    let f := freeBytes s n
    (leValue ((List.range n).map (fun i => BitVec.ofNat 8 ((if recvOpen s (k + i) then f.1 else v) / 2 ^ (8 * i)))), f.2)
  else (v, s)

/-! ### Requests that wait for a word to become full -/

/-- A request that waits at a word's home for it to become full (R159). -/
def isFeWaiter (r : Request) (k : Nat) : Bool :=
  (r.kind == .ldf || r.kind == .lde) && r.resp.isNone && decide (0 < r.arrived) && wordOf r.key == wordOf k && !r.parked

/-- The earliest-arrived request waiting on a word. -/
def firstWaiter (k : Nat) : List Request → Option Request
  | [] => none
  | r :: rest =>
    match firstWaiter k rest with
    | none => if isFeWaiter r k then some r else none
    | some q => if isFeWaiter r k && decide (r.arrived ≤ q.arrived) then some r else some q

/-- Replace a request in flight. -/
def setRequest (s : State) (r : Request) : State :=
  { s with flights := s.flights.map (fun q => if q.id = r.id then r else q) }

/-- Serve the requests waiting on a word in arrival order while it is full (R162); one whose word holds an error is answered
poisoned (R156), one whose word is an element of `recv` that no signal has announced with a free value (R423). -/
def serveWaiters (k : Nat) : Nat → State → State
  | 0, s => s
  | n + 1, s =>
    if isFull s k then
      match firstWaiter k s.flights with
      | none => s
      | some r =>
        let x := openRead s (wordOf k) 8 (peek s (wordOf k) 8)
        let s1 := setRequest x.2 { r with resp := some (word x.1), poison := isMarked s k }
        serveWaiters k n (if r.kind = .lde then setEmpty s1 k else s1)
    else s

/-- A word becomes full, and its waiting requests are served. -/
def fillWord (s : State) (k : Nat) : State := serveWaiters k s.flights.length (setFull s k)

/-- Write a word full, as an agent of the hub does for status and done words (R373, R378). An address that no longer
resolves takes no write. -/
def hubStoreFull (s : State) (ctx : Nat) (va v : Word) : State :=
  if va = 0 then s
  else
    match resolve s hubCore 0 ctx va 8 true true with
    | (.ok l, s1) => if l.drop || l.park then s1 else fillWord (storeAt s1 l.key 8 v.toNat 0) l.key
    | (.error _, s1) => s1

/-! ### Taking a trap (R382 to R386) -/

/-- The key of a continuation record: family tag and member number, or a task's timestamp (R174, R383). -/
def recordKey (s : State) (th : Thread) : Nat :=
  match th.kind with
  | .member => th.fam % 2 ^ 24 * 2 ^ 40 + th.member % 2 ^ 40
  | .task => match s.tasks.find? (fun x => x.id == th.work) with | some x => x.t | none => 0
  | .rowHandler | .trapHandler | .edgeHandler | .kernel => 0

/-- The 64 bytes of a continuation record (R174): header and state, key, words 0 to 4, context. -/
def recordBytes (hdrAddr state key w0 w1 w2 w3 w4 ctx : Nat) : List Byte :=
  leBytes 8 (hdrAddr % 2 ^ 52 / 64 * 64 + state) ++ leBytes 8 key ++ leBytes 8 w0 ++ leBytes 8 w1 ++ leBytes 8 w2 ++
    leBytes 8 w3 ++ leBytes 8 w4 ++ leBytes 8 (ctx % 512 * 2 ^ 52)

/-- Word 4 of a suspended thread's record: cause, floating-point status, fold depth, slot. -/
def recordWord4 (cause : Nat) (th : Thread) (t : Nat) : Nat :=
  cause % 256 + th.fpStatus.toNat * 2 ^ 8 + (if th.frames.length < 7 then th.frames.length else 7) * 2 ^ 13 + t * 2 ^ 16

/-- Where the trap record of a slot lies: in the core's save region, at a place of the device's choosing (R448, log 6). -/
def trapRecordKey (s : State) (c t : Nat) : Nat := spKey c + (getCore s c).saveBase + 64 * t

/-- The done word and the event of a launch's end. -/
def finishLaunch (s : State) (l : Launch) (status : Nat) : State :=
  let s := { s with launches := s.launches.map (fun x => if x.id = l.id then { x with state := .ended, closing := none } else x) }
  let s := hubStoreFull s l.ctx l.done (word status)
  postEvent s ⟨0x81, l.ctx, 0, 0, [l.recAddr.toNat, status]⟩

/-- Release the cores of a launch (R378): scratchpad entries, handler and bin tables go with it; a core that was killed in it is
sealed no longer (R408). -/
def releaseCores (s : State) (l : Launch) : State :=
  l.cores.foldl (fun st c =>
    let co := getCore st c
    putCore st c { co with
      launch := 0, handler := 0, allocs := [], queue := [], current := none
      killed := co.retired && co.killed, sealed := co.retired && co.killed }) s

/-- Return default areas (R372). -/
def returnAreas (s : State) (l : Launch) : State :=
  let root := match getCtx s l.ctx with | some x => x.troot.toNat | none => 0
  let s1 := if l.defSave ∧ l.saveSize ≠ 0 then unmapRange l.ctx root .p64K (l.saveSize / 2 ^ 16) l.saveBase.toNat s else s
  if l.defSpill ∧ l.spillSize ≠ 0 then unmapRange l.ctx root .p64K (l.spillSize / 2 ^ 16) l.spillBase.toNat s1 else s1

/-- The numbers of a saved core's threads. -/
def SavedCore.uids (x : SavedCore) : List Nat := x.threads.map (·.2.uid) ++ x.below.map (·.2.2.uid)

/-- The thread of this number stands in a pre-empted launch (R387). -/
def uidAway (s : State) (uid : Nat) : Bool :=
  s.launches.any (fun l => l.state == .preempted && l.saved.any (fun x => x.uids.contains uid))

/-- Accesses and commands of a launch's threads that are not performed yet: the done word is written behind them (R285, R378). What a
pre-empted launch has issued is none of them, a gang that neither it nor anything else carries on (R316) included. -/
def launchOwes (s : State) (l : Launch) : Bool :=
  s.flights.any (fun r => l.cores.contains r.core && r.ctx == l.ctx && r.uid != 0 && stillOwed r) ||
    s.cores.any (fun p => p.2.copies.any (fun k => k.ctx == l.ctx && l.cores.contains p.1) ||
      (p.2.mq ++ p.2.drains).any (fun k => k.ctx == l.ctx && l.cores.contains k.core && !uidAway s k.uid)) ||
    s.mesh.any (fun m => m.2.ctx == l.ctx && l.cores.contains m.2.core && !uidAway s m.2.uid) ||
    s.gangs.any (fun g => g.ctx == l.ctx && l.cores.contains g.core && !uidAway s g.uid) ||
    s.runs.any (fun r => r.ctx == l.ctx && l.cores.contains r.core) ||
    s.colls.any (fun k => k.ctx == l.ctx && l.cores.contains k.core)

/-- A launch ends now: its cores are released, its done word and event are written, and its default areas go back (R372, R378). -/
def closeNow (s : State) (l : Launch) (status : Nat) : State := returnAreas (finishLaunch (releaseCores s l) l status) l

/-- A launch ends: at once where nothing of it is still to be performed; else its cores and its done word wait for that (R285). -/
def closeLaunch (s : State) (l : Launch) (status : Nat) : State :=
  if launchOwes s l then
    { s with launches := s.launches.map (fun x => if x.id = l.id then { l with state := .ended, closing := some status } else x) }
  else closeNow s l status

/-- Every thread of a context, those spilled beneath a fold included. -/
def contextUids (s : State) (ctx : Nat) : List Nat :=
  ((s.threads.map (·.2)) ++ (s.spilled.map (·.2))).filterMap (fun th =>
    if th.ctx = ctx ∧ ¬ th.status = .free then some th.uid else none)

/-- A matrix command that starts no more row handlers: the rows it still owes a handler count as drained (R314, log 114). -/
def MatCmd.alone (k : MatCmd) : MatCmd :=
  let e9 := mapGet 0 k.regs 9
  if bits e9 4 3 = 2 then { k with regs := mapSet 0 k.regs 9 (e9 - word (2 * 2 ^ 3)), drn := k.row } else k

/-- What of a context would start threads later goes: its tasks, families and edge runs, whose handlers are dead. Its matrix and copy
commands are carried through, without row handlers (R200, R385, log 114). -/
def dropWork (s : State) (ctx : Nat) : State :=
  let f := fun (k : MatCmd) => if k.ctx = ctx then k.alone else k
  { s with
    tasks := s.tasks.filter (fun x => x.ctx != ctx), families := s.families.filter (fun p => p.2.ctx != ctx)
    runs := s.runs.filter (fun r => r.ctx != ctx), mesh := s.mesh.map (fun p => (p.1, f p.2))
    cores := s.cores.map (fun p => (p.1, { p.2 with
      rowPend := if (p.2.mq ++ p.2.drains).any (fun k => k.ctx == ctx) then 0 else p.2.rowPend
      mq := p.2.mq.map f, drains := p.2.drains.map f })) }

/-- The loss of a context (R385): its threads are killed, nothing of it starts another, and its launches end with status 3. -/
def loseContext (s : State) (ctx cause : Nat) (offset : Nat) : State :=
  let s := dropWork (killThreads s (contextUids s ctx)) ctx
  let s := postEvent s ⟨0x83, ctx, 0, 0, [cause, offset]⟩
  (s.launches.filter (fun l => l.ctx == ctx && !(l.state == .ended))).foldl (fun st l => closeLaunch st l (3 + cause * 256)) s

/-- A task's record while it runs speculatively. -/
def specTask (s : State) (th : Thread) : Option Task :=
  if th.kind = .task then s.tasks.find? (fun x => x.id == th.work && x.spec) else none

/-- The detail a delivery hands to `l3` (R383): the faulting address, e10, the flags, the atomic's address, or n; zero for every
other cause. -/
def trapDetail (cause : Nat) (detail : Word) : Word :=
  if (3 ≤ cause ∧ cause ≤ 6) ∨ cause = 0x0C ∨ cause = 0x0F ∨ cause = 0x13 ∨ cause = 0x14 ∨ cause = 0x1C then detail else 0

/-- Take a trap in a slot: ONE operation for every cause. The thread is held with its slot and registers; its record is
written with state 0x05, the record PC in word 0, w1 and w2 in words 1 and 2, and the cause in word 4; its delivery is queued for
slot 31 of the core, with what `l1` to `l3` will receive. The guard record of a 0x07 moves into the delivery (R254). A speculative
task holds its trap (R354); a trap of slot 31 loses the context (R385). Words 1 to 3 of a trap record are zero (R383), but for the
address and the PC of the atomic that an indeterminate register's record carries (R173; DESIGN CHOICE, log 23: in words 1 and 2). -/
def takeTrapOf (w1 w2 : Nat) (s : State) (c t cause : Nat) (detail : Word) (recPc l2 : CodeAddr) : State :=
  let th := getThread s c t
  if (specTask s th).isSome then
    putThread s c t { th with status := .waitFamily, pending := some ⟨cause, detail, recPc, none⟩ }
  else if t = 31 then loseContext s th.ctx cause 0
  else
    let s := pokeBytes s (trapRecordKey s c t)
      (recordBytes th.hdr.addr Status.trapped.code (recordKey s th) recPc.toNat w1 w2 0 (recordWord4 cause th t) th.ctx)
    let guard := cause == 0x07
    let s := putThread s c t
      { th with
        status := .trapped, guard0 := if guard then 0 else th.guard0, guard1 := if guard then 0 else th.guard1 }
    let co := getCore s c
    putCore s c { co with queue := co.queue ++ [⟨t, th.uid, cause, l2, trapDetail cause detail, th.guard0, th.guard1⟩] }

/-- A trap that has no atomic behind it: words 1 to 3 of its record are zero. -/
def takeTrap (s : State) (c t cause : Nat) (detail : Word) (recPc l2 : CodeAddr) : State :=
  takeTrapOf 0 0 s c t cause detail recPc l2

/-- A trap waits behind those that already wait. -/
def queueTrap (th : Thread) (p : PendingTrap) : Thread :=
  if th.pending.isSome then { th with pendQ := th.pendQ ++ [p] } else { th with pending := some p }

/-- A lost store-type operation waits behind those that already wait (R173, R408). -/
def queueLost (th : Thread) (p : PendingTrap) : Thread :=
  if th.indetOps.isSome then { th with indetQ := th.indetQ ++ [p] } else { th with indetOps := some p }

/-- The earliest waiting trap is taken out. -/
def popTrap (th : Thread) : Thread := { th with pending := th.pendQ.head?, pendQ := th.pendQ.tail }

/-- The earliest lost operation is taken out: its trap is being raised. -/
def popLost (th : Thread) : Thread := { th with indetOps := th.indetQ.head?, indetQ := th.indetQ.tail }

/-- The PC of a fence of the thread that still waits for a command (R297). -/
def fenceOn (th : Thread) (id : Nat) : Option CodeAddr := (th.fences.find? (fun f => f.before.contains id)).map (·.pc)

/-- The PC of a fence of the thread that still waits for one of these events. -/
def fenceOnAny (th : Thread) (ids : List Nat) : Option CodeAddr := (ids.findSome? (fenceOn th))

/-- A trap that an engine, a capability or a task's end raises for a thread (R265, R319): taken before its next
instruction, or with the PC of the fence that waits for the stopped command `id` (R297; 0 is no command). -/
def postTrap (s : State) (c t uid id cause : Nat) (detail : Word) (pc : CodeAddr) : State :=
  onThread s c t uid (fun th => queueTrap th ⟨cause, detail, pc, fenceOn th id⟩)

/-- The same for a command that stands for several events. -/
def postTrapOf (s : State) (c t uid : Nat) (ids : List Nat) (cause : Nat) (detail : Word) (pc : CodeAddr) : State :=
  onThread s c t uid (fun th => queueTrap th ⟨cause, detail, pc, fenceOnAny th ids⟩)

/-! ### Outcomes -/

/-- What a meaning's body answers as an outcome of the step: the next state; the same thread waiting at the instruction; or
its trap taken precisely at the instruction. -/
def finish (s : State) : Except Stop State → Host.Outcome State Fault Refusal
  | .ok s1 => .next s1
  | .error (.wait st) => .next (setCur s { cur s with status := st })
  | .error (.waitAs th st) => .next (setCur s { th with status := st })
  | .error (.trap cause detail) => .next (takeTrap s s.core s.slot cause detail (cur s).pc (cur s).pc)
  | .error (.trapAs th cause detail) => .next (takeTrap (setCur s th) s.core s.slot cause detail th.pc th.pc)
  | .error (.indet th addr pc) => .next (takeTrapOf addr.toNat pc.toNat (setCur s th) s.core s.slot 0x14 addr th.pc th.pc)

/-- Run a meaning's body for the live thread at the focus. -/
def runBody (s : State) (body : Except Stop State) : Host.Outcome State Fault Refusal :=
  if (cur s).status.canIssue then finish s body else .fault .noThread

/-! ### Return from a trap (R384) -/

/-- Note why a run must stop; the first cause stays. -/
def failRun (s : State) (id cause : Nat) (addr : Word) : State :=
  { s with runs := s.runs.map (fun r => if r.id = id ∧ r.fail.isNone then { r with fail := some (cause, addr) } else r) }

/-- A trapped thread is ended without resuming: its family fails with 0x06 (R206), its row counts as drained and the
issuer traps (R314), its task commits as after `texit` (R354), or its edge run stops (R368). -/
def endTrapped (s : State) (c t cause : Nat) : State :=
  let th := getThread s c t
  match th.kind with
  | .member =>
    match getFam s th.fam with
    | some f => if f.outcome = .running then endFamily s th.fam (.failed 6) else dropThread s c t
    | none => dropThread s c t
  | .task =>
    dropThread { s with tasks := s.tasks.map (fun x => if x.id = th.work then { x with exited := true } else x) } c t
  | .rowHandler =>
    let co := getCore s c
    let note := fun (m : MatCmd) => if m.id = th.work then { m with ended := true } else m
    let s := putCore s c { co with
      rowPend := co.rowPend &&& ~~~((1 : BitVec 128) <<< th.item)
      mq := co.mq.map note, drains := co.drains.map note }
    let s := if (co.mq ++ co.drains).any (fun m => m.id == th.work) then s
      else
        match (liveThreads s).find? (fun p => p.2.2.uid == th.member) with
        | some (c2, t2, x) =>
          postTrap (putThread s c2 t2 { x with
            eng := mapSet 0 x.eng 10 ((mapGet 0 x.eng 10 &&& ~~~(word (0xFF * 2 ^ 52))) ||| word (0x0B * 2 ^ 52)) })
            c2 t2 x.uid th.work 0x0F ((mapGet 0 x.eng 10 &&& ~~~(word (0xFF * 2 ^ 52))) ||| word (0x0B * 2 ^ 52)) x.pc
        | none => s
    dropThread s c t
  | .edgeHandler =>
    dropThread (failRun s th.work cause 0) c t
  | .trapHandler | .kernel => dropThread s c t

/-- The delivery in slot 31 ends: the slot becomes free for the next one. -/
def endDelivery (s : State) (c : Nat) : State :=
  let s := freeThread s c 31
  putCore s c { getCore s c with current := none }

/-- Return from the trap handler (R384): the record of the delivery decides whether the thread resumes, with the PC of word
0 and the status of word 4, is held again for a malformed PC, or is ended. A thread that was killed meanwhile is left
alone (R386). -/
def trapReturn (s : State) (c : Nat) : State :=
  match (getCore s c).current with
  | none => endDelivery s c
  | some d =>
    let th := getThread s c d.slot
    if th.uid ≠ d.uid ∨ th.status ≠ .trapped then endDelivery s c
    else
      let k := trapRecordKey s c d.slot
      let w0 := word (peek s (k + 16) 8)
      if peek s k 8 % 64 = 1 then
        if bits w0 63 32 ≠ 0 ∨ bits w0 1 0 ≠ 0 then
          endDelivery (takeTrap s c d.slot 0x03 w0 (w0.setWidth 32) (w0.setWidth 32)) c
        else
          endDelivery (putThread s c d.slot { th with
            pc := w0.setWidth 32, fpStatus := BitVec.ofNat 5 (peek s (k + 48) 8 / 2 ^ 8), status := .ready }) c
      else endDelivery (endTrapped s c d.slot d.cause) c

/-! ### Sending an access -/

/-- A request of the thread at the focus. -/
def threadRequest (s : State) : Request :=
  let th := cur s
  { Request.zero with
    core := s.core, slot := s.slot, uid := th.uid, ctx := th.ctx, pc := th.pc }

/-- The cores of a place as logical and physical numbers; L0 is the thread's own core (R182). -/
def coresAt (s : State) (ctx c level index : Nat) : List (Nat × Nat) :=
  if level = 0 then [(logicalCore s ctx c, c)] else placeCores s ctx level index

/-- The core and the quotient of a key over c cores (R356). -/
def routeKey (cores : List (Nat × Nat)) (k : Nat) : Option (Nat × Nat) :=
  match cores[k % cores.length]? with
  | some p => some (p.2, k / cores.length)
  | none => none

/-- The table a core holds for a context. -/
def coreTable (s : State) (core ctx table : Nat) : Option BinTable :=
  match mapFind (getCore s core).bins table with
  | some b => if b.ctx = ctx then some b else none
  | none => none

/-- The core a keyed send is routed to, c counted at delivery (R356). -/
def sendTarget (s : State) (r : Request) (level index : Nat) : Option (Nat × Nat) :=
  routeKey (coresAt s r.ctx r.core level index) r.e.toNat

/-- The word that a step on a bin table writes: the bin, or the drop count of a disabled table (R357). -/
def binKey (core : Nat) (b : BinTable) (bin : Nat) : Nat :=
  spKey core + b.base + 8 * (if b.op = 0 then b.nbins else bin)

/-- The word of a keyed send as its target holds the table now. -/
def sendRange (s : State) (r : Request) (table level index : Nat) : List (Nat × Nat) :=
  match sendTarget s r level index with
  | none => []
  | some (c, q) =>
    match coreTable s c r.ctx table with
    | none => []
    | some b => [(binKey c b (q % b.nbins), 8)]

/-- The members of the group that a group window's address names (R418, R419). -/
def groupOf (s : State) (k : Nat) : List Nat := mapGet [] s.dev.groups (nbits k 44 29)

/-- This device is one of them. -/
def ownMember (s : State) (k : Nat) : Bool := (groupOf s k).contains s.dev.devNum

/-- This device's own share of a group window's address: the same offset in its unicast window. -/
def ownShare (s : State) (k : Nat) : Nat := 2 ^ 47 + s.dev.devNum * 2 ^ 33 + nbits k 28 0

/-- The byte ranges of a request, where their homes find them now. -/
def requestRanges (s : State) (r : Request) : List (Nat × Nat) :=
  match r.kind with
  | .tileLoad _ ps => ps.map (fun p => (hereKey s r.ctx p.1, p.2.1))
  | .tileStore ps => ps.map (fun p => (hereKey s r.ctx p.1, if p.2.1 = 0 then 1 else p.2.1))
  | .ksend table _ level index => sendRange s r table level index
  | .stm | .ldrd _ => (r.key, r.width) :: (if ownMember s r.key then [(hereKey s r.ctx (ownShare s r.key), 8)] else [])
  | _ => [(hereKey s r.ctx r.key, r.width)]

/-- The access is a read (set r) of R280. -/
def ReqKind.reads : ReqKind → Bool
  | .load _ | .ldf | .lde | .fstat | .ldrd _ | .ste | .amo _ | .red _ | .cas | .tileLoad _ _ | .ksend _ _ _ _ => true
  | .store | .stf | .stm | .bar | .delayed | .tileStore _ | .famPut _ _ _ | .famGive _ _ _ _ | .shared _ _ _ | .brk _ _
  | .rxa _ _ _ | .tenq _ | .macc _ _ _ _ _ _ | .streamOut _ _ _ | .streamEnd _ _ _ | .engine _ => false

/-- The access is a write (set w) of R280. -/
def ReqKind.writes : ReqKind → Bool
  | .store | .stf | .stm | .ste | .amo _ | .red _ | .cas | .tileStore _ | .ksend _ _ _ _ => true
  | .load _ | .ldf | .lde | .fstat | .ldrd _ | .tileLoad _ _ | .bar | .delayed | .famPut _ _ _ | .famGive _ _ _ _
  | .shared _ _ _ | .brk _ _ | .rxa _ _ _ | .tenq _ | .macc _ _ _ _ _ _ | .streamOut _ _ _ | .streamEnd _ _ _ | .engine _ => false

/-- An own write to a byte range is still to be performed: a read by an instruction of the thread follows it (R284). -/
def writesOwed (s : State) (k n : Nat) : Bool :=
  s.flights.any (fun r => r.uid == (cur s).uid && ReqKind.writes r.kind && r.resp.isNone &&
    (requestRanges s r).any (fun x => decide (x.1 < k + n ∧ k < x.1 + x.2)))

/-- An own load of some of these bytes is still to be performed: a speculative task buffers its later store of them behind it
(R152, R346, R351). -/
def loadOwed (s : State) (k n : Nat) : Bool :=
  s.flights.any (fun r => r.uid == (cur s).uid && ReqKind.reads r.kind && r.resp.isNone &&
    (requestRanges s r).any (fun x => decide (x.1 < k + n ∧ k < x.1 + x.2)))

/-- `eret`, and `exit` in slot 31: they read the trap record after the handler's own writes to it (R284, R384). -/
def leaveHandler (s : State) : Except Stop State :=
  match (getCore s s.core).current with
  | some d => if writesOwed s (trapRecordKey s s.core d.slot) 64 then .error (.wait .waitHome) else .ok (trapReturn s s.core)
  | none => .ok (trapReturn s s.core)

/-- A row handler, by its thread's number, that has not ended or has accesses still to be performed (R326). -/
def handlerOwes (s : State) (uid : Nat) : Bool :=
  (liveThreads s).any (fun p => p.2.2.kind == .rowHandler && p.2.2.uid == uid) ||
    s.flights.any (fun r => r.uid == uid && uid != 0 && stillOwed r)

/-- Numbers of everything the machine still owes a performance: accesses, commands, row handlers, runs and collectives. -/
def outstanding (s : State) (id : Nat) : Bool :=
  s.flights.any (fun r => r.id == id) || s.cores.any (fun p => p.2.copies.any (fun k => k.id == id) ||
    (p.2.im0.state == .loading && p.2.im0.loadId == id) || (p.2.im1.state == .loading && p.2.im1.loadId == id) || p.2.mq.any (fun m => m.id == id) || p.2.drains.any (fun m => m.id == id)) || s.mesh.any (fun m => m.2.id == id) ||
    s.gangs.any (fun g => g.id == id) || handlerOwes s id || s.runs.any (fun r => r.id == id) || s.colls.any (fun k => k.id == id)

/-- A fence of the thread, or an acquire whose access is outstanding, holds later accesses of these sets (R159, R169,
R296). Bits of `sets`: r, w, cr, cw, mr, mw. -/
def isHeld (s : State) (th : Thread) (sets : BitVec 6) : Bool :=
  s.flights.any (fun r => r.uid == th.uid && r.acq) ||
    th.fences.any (fun f => !(f.sset &&& sets == 0) && f.before.any (outstanding s))

/-- Wait while later accesses are held. -/
def checkHeld (s : State) (sets : BitVec 6) : Except Stop Unit :=
  if isHeld s (cur s) sets then .error (.wait .waitHome) else .ok ()

/-- The destination's turn: an instruction waits for an earlier result that is owed to it (R127), and on an output-bound name for
a fence or acquire that holds later writes of the copy engine (R270, R280, R296). -/
def dstReady (s : State) (th : Thread) (d : RegNo) : Except Stop Unit :=
  if d ≠ 0 ∧ (getReg th d).pend = true then .error (.wait .waitReg)
  else if th.ports.any (fun p => p.reg == d && p.output) && isHeld s th 0b001000 then .error (.wait .waitHome)
  else .ok ()

/-- An irrevocable instruction of a speculative task waits (R346). -/
def checkSpec (s : State) : Except Stop Unit :=
  if (specTask s (cur s)).isSome then .error (.wait .waitFamily) else .ok ()

/-- Wait while a counter stands at its limit (R151, R262, R304). -/
def checkCount (n limit : Nat) : Except Stop Unit := if limit ≤ n then .error (.wait .waitReg) else .ok ()

/-- Change the counters L and S of the thread at the focus. -/
def addL (s : State) : State := setCur s { cur s with cntL := (cur s).cntL + 1 }
def addS (s : State) : State := setCur s { cur s with cntS := (cur s).cntS + 1 }
def addC (s : State) : State := setCur s { cur s with cntC := (cur s).cntC + 1 }
def addM (s : State) : State := setCur s { cur s with cntM := (cur s).cntM + 1 }

/-- Record a guard touch of the thread at the focus. -/
def touchGuard (s : State) (l : Loc) : State :=
  setCur s (recordGuard (cur s) l.key l.logical 0 l.remote (cur s).pc)

/-- Raise an indeterminate or refused store-type operation that is pending: 0x14 with its address (R173), 0x15 where a seal refused it
(R408). -/
def checkIndet (th : Thread) : Except Stop Unit :=
  match th.indetOps with
  | some p => .error (.trapAs (popLost th) p.cause p.detail)
  | none => .ok ()

/-- Raise a guard-granule fault or an indeterminate operation that is pending (R173, R199, R203). -/
def checkPending (th : Thread) : Except Stop Unit :=
  if bits th.guard0 47 47 = 1 then .error (.trap 0x07 0) else checkIndet th

end Sys2Proof.Machine
end

