-- ==== Sys2Proof/Machine/Flags.lean ====
section
/-! DEFINITION. Number formats and arithmetic (07): exact values, rounding with flags, and the operations built on them.
Flags are a number whose bits 0 to 4 are invalid, divide-by-zero, overflow, underflow and inexact (R111). -/
namespace Sys2Proof

/-! ### Formats (R95, R96) -/

/-- A format is one of the ten integer formats. -/
def Fmt.isInt : Fmt → Bool
  | .i8 | .z8 | .i16 | .z16 | .i32 | .z32 | .i64 | .z64 | .i4 | .z4 => true
  | .f64 | .f32 | .f16 | .bf16 | .e4m3 | .e5m2 | .e3m2 | .e2m3 | .e2m1 => false

/-- A format is one of the four float formats of R218. -/
def Fmt.isFloat4 : Fmt → Bool
  | .f64 | .f32 | .f16 | .bf16 => true
  | .i8 | .z8 | .i16 | .z16 | .i32 | .z32 | .i64 | .z64 | .i4 | .z4 | .e4m3 | .e5m2 | .e3m2 | .e2m3 | .e2m1 => false

/-- An integer format is signed. -/
def Fmt.isSigned : Fmt → Bool
  | .i8 | .i16 | .i32 | .i64 | .i4 => true
  | .z8 | .z16 | .z32 | .z64 | .z4 | .f64 | .f32 | .f16 | .bf16 | .e4m3 | .e5m2 | .e3m2 | .e2m3 | .e2m1 => false

/-- A 4-bit format. -/
def Fmt.isNibble (f : Fmt) : Bool := f.width == 4

/-- A 6-bit format. -/
def Fmt.isSix (f : Fmt) : Bool := f.width == 6

/-- Fraction bits m(F) (R96); 0 for the integer formats. -/
def Fmt.frac : Fmt → Nat
  | .f64 => 52 | .f32 => 23 | .f16 => 10 | .bf16 => 7 | .e4m3 => 3 | .e5m2 => 2 | .e3m2 => 2 | .e2m3 => 3 | .e2m1 => 1
  | .i8 | .z8 | .i16 | .z16 | .i32 | .z32 | .i64 | .z64 | .i4 | .z4 => 0

/-- Exponent bias (R96). -/
def Fmt.bias : Fmt → Nat
  | .f64 => 1023 | .f32 => 127 | .f16 => 15 | .bf16 => 127 | .e4m3 => 7 | .e5m2 => 15 | .e3m2 => 3 | .e2m3 => 1 | .e2m1 => 1
  | .i8 | .z8 | .i16 | .z16 | .i32 | .z32 | .i64 | .z64 | .i4 | .z4 => 0

/-- The format has infinities. -/
def Fmt.hasInf : Fmt → Bool
  | .f64 | .f32 | .f16 | .bf16 | .e5m2 => true
  | .e4m3 | .e3m2 | .e2m3 | .e2m1 | .i8 | .z8 | .i16 | .z16 | .i32 | .z32 | .i64 | .z64 | .i4 | .z4 => false

/-- The format has a NaN. -/
def Fmt.hasNan (f : Fmt) : Bool := f.hasInf || f == .e4m3

/-- Subnormals of the format can be flushed (R109). -/
def Fmt.flushable (f : Fmt) : Bool := f.hasNan

/-- Bits below the sign. -/
def Fmt.magBits (f : Fmt) : Nat := f.width - 1

/-- Encoding of +inf, or of the first magnitude that is no number. -/
def Fmt.infBits (f : Fmt) : Nat :=
  if f.hasInf then (2 ^ (f.width - 1 - f.frac) - 1) * 2 ^ f.frac else if f = .e4m3 then 0x7F else 2 ^ f.magBits

/-- Encoding of maxf(F). -/
def Fmt.maxBits (f : Fmt) : Nat := f.infBits - 1

/-- Canonical NaN (R98). -/
def Fmt.nanBits (f : Fmt) : Nat := if f.hasInf then f.infBits + 2 ^ (f.frac - 1) else if f = .e4m3 then 0x7F else 0

/-- Sign bit of an encoding. -/
def Fmt.signBit (f : Fmt) (neg : Bool) : Nat := if neg then 2 ^ f.magBits else 0

end Sys2Proof

namespace Sys2Proof.Machine

/-- A value: NaN, infinity, or (−1)^neg·m·2^e exactly; with `sticky` the magnitude lies strictly between m·2^e and
(m + 1)·2^e. -/
inductive Val where
  | nan (signalling : Bool)
  | inf (neg : Bool)
  | fin (neg : Bool) (m : Nat) (e : Int) (sticky : Bool)
deriving DecidableEq, Repr

/-- value(F, bits) of a floating-point encoding (R97, R98). -/
def decodeFloat (f : Fmt) (b : Nat) : Val :=
  let neg := b.testBit f.magBits
  let mag := b % 2 ^ f.magBits
  let exp := mag / 2 ^ f.frac
  let fr := mag % 2 ^ f.frac
  if f.hasInf && mag == f.infBits then .inf neg
  else if f.hasInf && decide (f.infBits < mag) then .nan (!(fr.testBit (f.frac - 1)))
  else if f == .e4m3 && mag == 0x7F then .nan false
  else if exp = 0 then .fin neg fr (1 - (f.bias : Int) - f.frac) false
  else .fin neg (2 ^ f.frac + fr) ((exp : Int) - f.bias - f.frac) false

/-- The encoding is subnormal. -/
def isSubnormal (f : Fmt) (b : Nat) : Bool :=
  let mag := b % 2 ^ f.magBits
  decide (0 < mag ∧ mag < 2 ^ f.frac)

/-- An integer as a value. -/
def intVal (v : Int) : Val := .fin (decide (v < 0)) v.natAbs 0 false

/-- An integer element read under its format's signedness. -/
def decodeInt (f : Fmt) (b : Nat) : Int := if f.isSigned then toSigned f.width b else ((b % 2 ^ f.width : Nat) : Int)

/-! ### Flags and modes (R59, R104, R109, R111) -/

def flagNV : Nat := 1
def flagDZ : Nat := 2
def flagOF : Nat := 4
def flagUF : Nat := 8
def flagNX : Nat := 16

/-- Union of two flag sets. -/
def orFlags (a b : Nat) : Nat := a ||| b

/-- How a result is rounded: the RF code, and whether inputs and results are flushed. -/
structure Env where
  rf  : Rf
  daz : Bool
  ftz : Bool
deriving DecidableEq, Repr

/-- The environment of an instruction with an RF code under a context configuration (R59, R443). -/
def envOf (cfg : Word) (rf : Rf) : Env :=
  match rf with
  | .fz => ⟨rf, true, true⟩
  | .nf => ⟨rf, false, false⟩
  | .rne | .rtz | .rup | .rdn | .rmm | .rsr => ⟨rf, cfg.getLsbD 0, cfg.getLsbD 1⟩

/-- Nearest even without any flushing, as atomics, bins and collectives round (R110). -/
def envBare : Env := ⟨.rne, false, false⟩

/-- A formed result: its encoding, its flags, and whether it took a stochastic draw. -/
structure FOut where
  bits  : Nat
  flags : Nat
  used  : Bool
deriving DecidableEq, Repr

/-- A result with no rounding. -/
def FOut.exact (b fl : Nat) : FOut := ⟨b, fl, false⟩

/-- flush_in on an encoding (R110). -/
def flushIn (f : Fmt) (env : Env) (b : Nat) : Nat :=
  if env.daz && f.flushable && isSubnormal f b then f.signBit (b.testBit f.magBits) else b

/-- An operand as a value, flushed. -/
def operand (f : Fmt) (env : Env) (b : Nat) : Val := decodeFloat f (flushIn f env b)

/-- pick of R105 on the kept integer and what lies below it: twice the rest compared with the spacing. -/
def pickUp (rf : Rf) (neg odd : Bool) (rest2 : Ordering) (frac32 : Nat) (draw : Word) : Bool :=
  match rf with
  | .rne | .fz | .nf => rest2 == .gt || (rest2 == .eq && odd)
  | .rmm => !(rest2 == .lt)
  | .rtz => false
  | .rup => !neg
  | .rdn => neg
  | .rsr => decide (draw.toNat / 2 ^ 32 < frac32)

/-- Split a magnitude at the weight 2^q: the floor, whether anything is left, twice the rest against 2^q, and the rest in
units of 2^(q − 32). -/
def splitAt (m : Nat) (e q : Int) (sticky : Bool) : Nat × Bool × Ordering × Nat :=
  if q ≤ e then (m * 2 ^ (e - q).toNat, sticky, .lt, 0)
  else
    let d := (q - e).toNat
    let lo := m / 2 ^ d
    let r := m % 2 ^ d
    let c := compare (2 * r) (2 ^ d)
    (lo, sticky || !(r == 0), if c == .eq && sticky then .gt else c, r * 2 ^ 32 / 2 ^ d)

/-- overflow_value of R105, as a magnitude. -/
def overflowBits (f : Fmt) (neg : Bool) (rf : Rf) : Nat :=
  if f.hasInf then
    match rf with
    | .rne | .rmm | .rsr | .fz | .nf => f.infBits
    | .rtz => f.maxBits
    | .rup => if neg then f.maxBits else f.infBits
    | .rdn => if neg then f.infBits else f.maxBits
  else f.maxBits

/-- round_fmt(F, x, rf) (R105, R106). -/
def roundFmt (f : Fmt) (env : Env) (draw : Word) (x : Val) : FOut :=
  match x with
  | .nan sig =>
    if f.hasNan then .exact f.nanBits (if sig then flagNV else 0) else .exact 0 flagNV
  | .inf neg =>
    if f.hasInf then .exact (f.signBit neg + f.infBits) 0 else .exact (f.signBit neg + f.maxBits) (flagOF ||| flagNX)
  | .fin neg m e sticky =>
    if m = 0 then .exact (f.signBit neg) 0
    else
      let emin : Int := 1 - (f.bias : Int)
      let lg : Int := (m.log2 : Int) + e
      if lg < emin ∧ env.ftz = true ∧ f.flushable = true then .exact (f.signBit neg) (flagUF ||| flagNX)
      else
        let ee := if lg < emin then emin else lg
        let (lo, inexact, rest2, fr) := splitAt m e (ee - f.frac) sticky
        let y := if inexact && pickUp env.rf neg (lo.testBit 0) rest2 fr draw then lo + 1 else lo
        let fl := if inexact then (if lg < emin then flagNX ||| flagUF else flagNX) else 0
        let mag := (ee - emin).toNat * 2 ^ f.frac + y
        let used := inexact && env.rf == .rsr
        if f.maxBits < mag then ⟨f.signBit neg + overflowBits f neg env.rf, fl ||| flagOF ||| flagNX, used⟩
        else ⟨f.signBit neg + mag, fl, used⟩

/-- Least and greatest value of an integer format of width w (R95). -/
def intMin (w : Nat) (signed : Bool) : Int := if signed then -(2 ^ (w - 1) : Nat) else 0
def intMax (w : Nat) (signed : Bool) : Int := if signed then (2 ^ (w - 1) : Nat) - 1 else (2 ^ w : Nat) - 1

/-- sat(W, signed, v) (R108). -/
def satInt (w : Nat) (signed : Bool) (v : Int) : Int :=
  if v < intMin w signed then intMin w signed else if intMax w signed < v then intMax w signed else v

/-- round_int(W, signed, x, rf) (R108): the integer, its flags and whether it took a draw. -/
def roundInt (w : Nat) (signed : Bool) (rf : Rf) (draw : Word) (x : Val) : Int × Nat × Bool :=
  match x with
  | .nan _ => (0, flagNV, false)
  | .inf neg => (if neg then intMin w signed else intMax w signed, flagNV, false)
  | .fin neg m e sticky =>
    let (lo, inexact, rest2, fr) := splitAt m e 0 sticky
    let y := if inexact && pickUp rf neg (lo.testBit 0) rest2 fr draw then lo + 1 else lo
    let v : Int := if neg then -(y : Int) else y
    let used := inexact && rf == .rsr
    if v = satInt w signed v then (v, if inexact then flagNX else 0, used) else (satInt w signed v, flagNV, used)

/-! ### Exact operations (R113, R138, R446) -/

/-- A value is a signalling NaN. -/
def Val.isSig : Val → Bool | .nan s => s | .inf _ => false | .fin _ _ _ _ => false
/-- A value is a NaN. -/
def Val.isNan : Val → Bool | .nan _ => true | .inf _ => false | .fin _ _ _ _ => false
/-- A value is a zero. -/
def Val.isZero : Val → Bool | .fin _ m _ _ => m == 0 | .nan _ => false | .inf _ => false
/-- A value is an infinity. -/
def Val.isInf : Val → Bool | .inf _ => true | .nan _ => false | .fin _ _ _ _ => false
/-- Its sign. -/
def Val.sign : Val → Bool | .inf n => n | .fin n _ _ _ => n | .nan _ => false
/-- The value with its sign inverted. -/
def Val.neg : Val → Val | .inf n => .inf (!n) | .fin n m e s => .fin (!n) m e s | .nan s => .nan s

/-- The signed mantissa of a finite value at exponent q, at or below its own. -/
def Val.atExp (q : Int) : Val → Int
  | .fin n m e _ => let v : Int := (m * 2 ^ (e - q).toNat : Nat); if n then -v else v
  | .nan _ => 0
  | .inf _ => 0

/-- The exponent of a finite value, none for the others and zeros. -/
def Val.exp? : Val → Option Int
  | .fin _ m e _ => if m = 0 then none else some e
  | .nan _ => none
  | .inf _ => none

/-- The least exponent of some values. -/
def minExp (xs : List Val) : Int :=
  (xs.filterMap Val.exp?).foldl (fun a e => match a with | none => some e | some b => some (if e < b then e else b)) none |>.getD 0

/-- An exact sum (R116, R446): a NaN, or +inf with -inf, gives NaN; an exact zero is +0, or −0 under rdn, unless every term is a zero of
one sign. A signalling NaN sets invalid, and so do +inf with -inf, beside a quiet NaN too: R113 raises nothing for a quiet NaN, R116 sets
invalid for the two infinities, and the model follows R116 (log 120). -/
def sumVals (rf : Rf) (xs : List Val) : Val × Nat :=
  let opposed := xs.any (fun x => x == .inf false) && xs.any (fun x => x == .inf true)
  if xs.any Val.isNan || opposed then (.nan false, if xs.any Val.isSig || opposed then flagNV else 0)
  else if xs.any (fun x => x == .inf false) then (.inf false, 0)
  else if xs.any (fun x => x == .inf true) then (.inf true, 0)
  else
    let q := minExp xs
    let t := (xs.map (Val.atExp q)).foldl (· + ·) 0
    if t = 0 then
      if !xs.isEmpty && xs.all (fun x => x.isZero && x.sign) then (.fin true 0 0 false, 0)
      else if !xs.isEmpty && xs.all (fun x => x.isZero && !x.sign) then (.fin false 0 0 false, 0)
      else (.fin (rf == .rdn && !xs.isEmpty) 0 0 false, 0)
    else (.fin (decide (t < 0)) t.natAbs q false, 0)

/-- An exact product; 0·inf gives NaN with invalid. -/
def mulVals (a b : Val) : Val × Nat :=
  match a, b with
  | .fin n m e _, .fin n2 m2 e2 _ => (.fin (n != n2) (m * m2) (e + e2) false, 0)
  | _, _ =>
    let sig := if a.isSig || b.isSig then flagNV else 0
    if a.isNan || b.isNan then (.nan false, sig)
    else if a.isZero || b.isZero then (.nan false, flagNV)
    else (.inf (a.sign != b.sign), 0)

/-- A quotient to more bits than any format keeps, with the rest as sticky. -/
def divVals (a b : Val) : Val × Nat :=
  let sig := if a.isSig || b.isSig then flagNV else 0
  if a.isNan || b.isNan then (.nan false, sig)
  else
    match a, b with
    | .inf n, .fin n2 _ _ _ => (.inf (n != n2), 0)
    | .fin n _ _ _, .inf n2 => (.fin (n != n2) 0 0 false, 0)
    | .fin n m e _, .fin n2 m2 e2 _ =>
      if m2 = 0 then (if m = 0 then (.nan false, flagNV) else (.inf (n != n2), flagDZ))
      else
        let k := m2.log2 + 192
        (.fin (n != n2) (m * 2 ^ k / m2) (e - e2 - k) (!(m * 2 ^ k % m2 == 0)), 0)
    | _, _ => (.nan false, flagNV)

/-- floor(√n), bit by bit from bit k − 1 on. -/
def isqrtLoop (n : Nat) : Nat → Nat → Nat
  | 0, r => r
  | k + 1, r => if (r + 2 ^ k) * (r + 2 ^ k) ≤ n then isqrtLoop n k (r + 2 ^ k) else isqrtLoop n k r

/-- floor(√n). -/
def isqrt (n : Nat) : Nat := isqrtLoop n (n.log2 / 2 + 1) 0

/-- A square root to more bits than any format keeps. -/
def sqrtVal (a : Val) : Val × Nat :=
  match a with
  | .nan s => (.nan false, if s then flagNV else 0)
  | .inf n => if n then (.nan false, flagNV) else (.inf false, 0)
  | .fin n m e _ =>
    if m = 0 then (a, 0)
    else if n then (.nan false, flagNV)
    else
      let k := 256 + (e % 2).toNat
      let v := m * 2 ^ k
      let r := isqrt v
      (.fin false r ((e - k) / 2) (!(r * r == v)), 0)

/-- The magnitudes of two numbers compared, signs included: −1, 0 or 1. -/
def cmpVals (a b : Val) : Int :=
  match a, b with
  | .inf n, .inf n2 => if n = n2 then 0 else if n then -1 else 1
  | .inf n, _ => if n then -1 else 1
  | _, .inf n => if n then 1 else -1
  | _, _ =>
    let q := minExp [a, b]
    let d := a.atExp q - b.atExp q
    if d < 0 then -1 else if d = 0 then 0 else 1

/-- The result of an exact operation with flags, rounded. -/
def roundWith (f : Fmt) (env : Env) (draw : Word) (r : Val × Nat) : FOut :=
  let o := roundFmt f env draw r.1
  { o with flags := o.flags ||| r.2 }

/-! ### The arithmetic operations on encodings -/

def fpAdd (f : Fmt) (env : Env) (draw : Word) (a b : Nat) : FOut :=
  roundWith f env draw (sumVals env.rf [operand f env a, operand f env b])

def fpSub (f : Fmt) (env : Env) (draw : Word) (a b : Nat) : FOut :=
  roundWith f env draw (sumVals env.rf [operand f env a, (operand f env b).neg])

def fpMul (f : Fmt) (env : Env) (draw : Word) (a b : Nat) : FOut :=
  roundWith f env draw (mulVals (operand f env a) (operand f env b))

def fpDiv (f : Fmt) (env : Env) (draw : Word) (a b : Nat) : FOut :=
  roundWith f env draw (divVals (operand f env a) (operand f env b))

def fpSqrt (f : Fmt) (env : Env) (draw : Word) (a : Nat) : FOut := roundWith f env draw (sqrtVal (operand f env a))

/-- fma and fms (R115): 0·inf raises invalid even when c is a quiet NaN. -/
def fpFma (f : Fmt) (env : Env) (draw : Word) (negC : Bool) (a b c : Nat) : FOut :=
  let p := mulVals (operand f env a) (operand f env b)
  let c := operand f env c
  let s := sumVals env.rf [p.1, if negC then c.neg else c]
  roundWith f env draw (s.1, s.2 ||| p.2)

/-- frcps (R122). -/
def fpRcps (f : Fmt) (env : Env) (draw : Word) (a b : Nat) : FOut :=
  let x := operand f env a
  let y := operand f env b
  if (x.isInf && y.isZero) || (x.isZero && y.isInf) then roundFmt f envBare 0 (intVal 2)
  else
    let p := mulVals x y
    let s := sumVals env.rf [intVal 2, p.1.neg]
    roundWith f env draw (s.1, s.2 ||| p.2)

/-- Half of a value. -/
def Val.half : Val → Val
  | .fin n m e s => .fin n m (e - 1) s
  | .inf n => .inf n
  | .nan s => .nan s

/-- frsqs (R122). -/
def fpRsqs (f : Fmt) (env : Env) (draw : Word) (a b : Nat) : FOut :=
  let x := operand f env a
  let y := operand f env b
  if (x.isInf && y.isZero) || (x.isZero && y.isInf) then roundFmt f envBare 0 (.fin false 3 (-1) false)
  else
    let p := mulVals x y
    let s := sumVals env.rf [intVal 3, p.1.neg]
    roundWith f env draw (s.1.half, s.2 ||| p.2)

/-- recp_est (R119). -/
def fpRcp (f : Fmt) (env : Env) (a : Nat) : FOut :=
  match operand f env a with
  | .nan s => .exact f.nanBits (if s then flagNV else 0)
  | .inf n => .exact (f.signBit n) 0
  | .fin n m e _ =>
    if m = 0 then .exact (f.signBit n + f.infBits) flagDZ
    else
      let i := m * 256 / 2 ^ m.log2 - 256
      let den := 513 + 2 * i
      let q := 512 * 4096 / den
      let r := 512 * 4096 % den
      let y := if den < 2 * r ∨ (2 * r = den ∧ q % 2 = 1) then q + 1 else q
      roundFmt f { env with rf := .rne } 0 (.fin n y (-(e + m.log2) - 12) false)

/-- rsq_est (R120). -/
def fpRsq (f : Fmt) (env : Env) (a : Nat) : FOut :=
  match operand f env a with
  | .nan s => .exact f.nanBits (if s then flagNV else 0)
  | .inf n => if n then .exact f.nanBits flagNV else .exact 0 0
  | .fin n m e _ =>
    if m = 0 then .exact (f.signBit n + f.infBits) flagDZ
    else if n then .exact f.nanBits flagNV
    else
      let i := m * 256 / 2 ^ m.log2 - 256
      let ex := e + m.log2
      let p := (ex % 2).toNat
      let num := 4096 * 4096 * 512
      let den := 2 ^ p * (513 + 2 * i)
      let r := isqrt (num / den)
      let h := (2 * r + 1) * (2 * r + 1) * den
      let y := if h < 4 * num ∨ (h = 4 * num ∧ r % 2 = 1) then r + 1 else r
      roundFmt f { env with rf := .rne } 0 (.fin false y (-((ex - p) / 2) - 12) false)

/-! ### 2^x and log2 x (R118, log 10) -/

/-- ln 2 in units of 2^−256, rounded down. -/
def ln2Fixed : Nat := 0xb17217f7d1cf79abc9e3b39803f2f6af40f343267298b62d8a0d175b8baafa2b

/-- The exponential series of y (units of 2^−256), n terms from index i on with the current term t. -/
def expSeries (y : Nat) : Nat → Nat → Nat → Nat
  | 0, _, _ => 0
  | n + 1, i, t => t + expSeries y n (i + 1) (t * y / 2 ^ 256 / i)

/-- 2^x of a flushed finite value: exact where x is an integer, else to 200 bits and sticky. -/
def exp2Val (neg : Bool) (m : Nat) (e : Int) : Val :=
  let lg : Int := (m.log2 : Int) + e
  if 12 ≤ lg then (if neg then .fin false 1 (-5000) true else .fin false 1 5000 false)
  else if lg < -64 then (if neg then .fin false (2 ^ 200 - 1) (-200) true else .fin false (2 ^ 200) (-200) true)
  else
    let x : Int := Val.atExp (-256) (.fin neg (m * 2 ^ (e + 256).toNat) (-256) false)
    let k := x / (2 ^ 256 : Nat)
    let fr := (x % (2 ^ 256 : Nat)).toNat
    if fr = 0 then .fin false 1 k false
    else .fin false (expSeries (fr * ln2Fixed / 2 ^ 256) 80 1 (2 ^ 256)) (k - 256) true

/-- The first n bits of log2 y for y in [1, 2), in units of 2^−256 of y. -/
def log2Loop : Nat → Nat → Nat → Nat
  | 0, _, acc => acc
  | n + 1, y, acc =>
    let y2 := y * y / 2 ^ 256
    if 2 ^ 257 ≤ y2 then log2Loop n (y2 / 2) (2 * acc + 1) else log2Loop n y2 (2 * acc)

/-- log2 of a positive value: exact where x is a power of two, else to 112 bits below the point and sticky. -/
def log2Val (m : Nat) (e : Int) : Val :=
  let ex : Int := (m.log2 : Int) + e
  if m = 2 ^ m.log2 then intVal ex
  else
    let n : Int := ex * (2 ^ 112 : Nat) + log2Loop 112 (m * 2 ^ 256 / 2 ^ m.log2) 0
    if 0 ≤ n then .fin false n.toNat (-112) true else .fin true ((-n - 1).toNat) (-112) true

def fpExp2 (f : Fmt) (env : Env) (a : Nat) : FOut :=
  let env1 := { env with rf := .rne }
  match operand f env a with
  | .nan s => .exact f.nanBits (if s then flagNV else 0)
  | .inf n => .exact (if n then 0 else f.infBits) 0
  | .fin n m e _ => if m = 0 then roundFmt f env1 0 (intVal 1) else roundFmt f env1 0 (exp2Val n m e)

def fpLog2 (f : Fmt) (env : Env) (a : Nat) : FOut :=
  let env1 := { env with rf := .rne }
  match operand f env a with
  | .nan s => .exact f.nanBits (if s then flagNV else 0)
  | .inf n => if n then .exact f.nanBits flagNV else .exact f.infBits 0
  | .fin n m e _ =>
    if m = 0 then .exact (f.signBit true + f.infBits) flagDZ
    else if n then .exact f.nanBits flagNV
    else roundFmt f env1 0 (log2Val m e)

/-! ### Minimum, maximum and comparison (R139) -/

/-- fmin (or fmax): the other operand for one NaN, the canonical NaN for two; −0 counts as less than +0. -/
def fpMinMax (f : Fmt) (env : Env) (wantMax : Bool) (a b : Nat) : FOut :=
  let a := flushIn f env a
  let b := flushIn f env b
  let x := decodeFloat f a
  let y := decodeFloat f b
  let fl := if x.isSig || y.isSig then flagNV else 0
  if x.isNan && y.isNan then .exact f.nanBits fl
  else if x.isNan then .exact b fl
  else if y.isNan then .exact a fl
  else
    let c := cmpVals x y
    let less := decide (c < 0) || (c == 0 && x.sign && !y.sign)
    .exact (if less != wantMax then a else b) fl

/-- feq, flt, fle: the truth value and the flags. `quiet` raises invalid for a signalling NaN only. -/
def fpCompare (f : Fmt) (env : Env) (quiet : Bool) (test : Int → Bool) (a b : Nat) : Bool × Nat :=
  let x := operand f env a
  let y := operand f env b
  if x.isNan || y.isNan then (false, if quiet then (if x.isSig || y.isSig then flagNV else 0) else flagNV)
  else (test (cmpVals x y), 0)

/-- fclass (R140): the bit that names the class. -/
def fpClass (f : Fmt) (b : Nat) : Nat :=
  let neg := b.testBit f.magBits
  match decodeFloat f b with
  | .nan s => if s then 8 else 9
  | .inf n => if n then 0 else 7
  | .fin _ m _ _ =>
    if m = 0 then (if neg then 3 else 4)
    else if isSubnormal f b then (if neg then 2 else 5)
    else (if neg then 1 else 6)

/-! ### Conversions (R114) -/

/-- The integer v as an encoding of w bits. -/
def intBits (w : Nat) (v : Int) : Nat := wrapNat w v

/-- convert(to, from, x, rf): the encoding in the target format, flags, and whether a draw was taken. Equal integer formats
copy; a float to its own format is flushed with each NaN replaced by the canonical one (R141, R236). -/
def convertFmt (dst frm : Fmt) (env : Env) (draw : Word) (x : Nat) : FOut :=
  if frm.isInt then
    let v := decodeInt frm x
    if dst.isInt then .exact (intBits dst.width (satInt dst.width dst.isSigned v)) 0 else roundFmt dst env draw (intVal v)
  else if dst.isInt then
    let r := roundInt dst.width dst.isSigned env.rf draw (operand frm env x)
    ⟨intBits dst.width r.1, r.2.1, r.2.2⟩
  else roundFmt dst env draw (operand frm env x)

/-- An element's exact value, integers included (R97, R101). -/
def elemVal (f : Fmt) (b : Nat) : Val := if f.isInt then intVal (decodeInt f b) else decodeFloat f b

/-- A value times a power of two. -/
def Val.scale (k : Int) : Val → Val
  | .fin n m e s => .fin n m (e + k) s
  | .inf n => .inf n
  | .nan s => .nan s

/-- The value of a block-scaled element with its scale byte (R101). -/
def mxVal (f : Fmt) (b scale : Nat) : Val :=
  if scale = 0xFF then .nan false
  else ((elemVal f b).scale (if f.isInt then -6 else 0)).scale ((scale : Int) - 127)

/-- emax of a block-scaled kind (R101). -/
def mxEmax (f : Fmt) : Int :=
  match f with
  | .e4m3 => 8 | .e5m2 => 15 | .e3m2 => 4 | .e2m3 => 2 | .e2m1 => 2
  | .i8 | .z8 | .i16 | .z16 | .i32 | .z32 | .i64 | .z64 | .i4 | .z4 | .f64 | .f32 | .f16 | .bf16 => 0

/-- The greatest floor(log2) of some finite values, none when all are zero. -/
def maxLog2 (xs : List Val) : Option Int :=
  xs.foldl (fun a x =>
    match x with
    | .fin _ m e _ =>
      if m = 0 then a else
        let l : Int := (m.log2 : Int) + e
        match a with | none => some l | some b => some (if b < l then l else b)
    | .nan _ => a
    | .inf _ => a) none

/-- mx_encode (R103): the scale byte and the elements of a block. Draws do not arise: engines round `.rsr` as `.rne`. -/
def mxEncode (f : Fmt) (env : Env) (xs : List Val) : Nat × List Nat :=
  if xs.any (fun x => x.isNan || x.isInf) then (0xFF, xs.map (fun _ => 0))
  else
    let s0 := match maxLog2 xs with | none => (-127 : Int) | some l => l - mxEmax f
    let s := if s0 < -127 then -127 else if 127 < s0 then 127 else s0
    ((s + 127).toNat, xs.map (fun x =>
      if f.isInt then intBits 8 (roundInt 8 true env.rf 0 (x.scale (6 - s))).1
      else (roundFmt f env 0 (x.scale (-s))).bits))

/-! ### Flags of a thread (R112, R143) -/

/-- The trap-enable bits of a configuration meet these flags. -/
def flagsTrap (cfg : Word) (fl : Nat) : Bool := !(bits cfg 6 2 &&& fl == 0)

/-- OR flags into a thread's status word. -/
def orStatus (th : Thread) (fl : Nat) : Thread := { th with fpStatus := th.fpStatus ||| BitVec.ofNat 5 fl }

/-- The next value of the thread's generator, without advancing it (R107). -/
def nextDraw (th : Thread) : Word := (genStep th.genP th.genQ).1

/-- Advance the generator. -/
def stepGen (th : Thread) : Thread :=
  let g := (genStep th.genP th.genQ).2
  { th with genP := g.1, genQ := g.2 }

end Sys2Proof.Machine
end

