-- ==== Sys2Proof/Machine/Operands.lean ====
section
/-! DEFINITION. Operand forms: what the instructions of one shape share, from reading their sources to writing their
destination, for scalar registers (09), tile registers (13) and memory operands (R147 to R151). -/
namespace Sys2Proof.Machine

/-! ### Scalar forms -/

/-- A dependent of a member whose predecessor runs on the same core is that one's shared register itself: a result is owed to it while
one is owed to the shared, unless a rerun's value would be discarded (R126, R191, R205). -/
def depOwed (s : State) (n : RegNo) : Bool :=
  let th := cur s
  let first := 1 + th.hdr.g + th.hdr.s
  th.kind == .member && decide (0 < th.member ∧ first ≤ n.toNat ∧ n.toNat < first + th.hdr.s) &&
    (liveThreads s).any (fun p => p.1 == s.core && p.2.2.kind == .member && p.2.2.fam == th.fam && p.2.2.member + 1 == th.member &&
      (mapGet Reg.empty p.2.2.regs (n.toNat - th.hdr.s)).pend) &&
    (match getFam s th.fam with
     | some f => !(runsAgain f (th.member - 1) && (mapFind f.arrived ((th.member - 1) * 64 + (n.toNat - first))).isSome)
     | none => true)

/-- Wait while a result is owed to a dependent among the sources. -/
def depsReady (s : State) (srcs : List RegNo) : Except Stop Unit := if srcs.any (depOwed s) then .error (.wait .waitReg) else .ok ()

/-- The values of source registers of the thread at the focus. -/
def readFrom (s : State) (srcs : List RegNo) : Except Stop (List Word × Thread) := do
  depsReady s srcs
  readSources (cur s) srcs

/-- Sources and a destination: naming, then the values once all are full, then the destination's turn (R53, R125, R127). -/
def readForm (s : State) (srcs : List RegNo) (d : RegNo) : Except Stop (List Word × Thread) := do
  checkNames (cur s) srcs
  checkDst (cur s) d
  let r ← readFrom s srcs
  dstReady s r.2 d
  .ok r

/-- Sources only. -/
def readOnlyForm (s : State) (srcs : List RegNo) : Except Stop (List Word × Thread) := do
  checkNames (cur s) srcs
  readFrom s srcs

/-- An instruction that computes its destination from its sources. -/
def regForm (s : State) (srcs : List RegNo) (d : RegNo) (f : List Word → Word) : Except Stop State := do
  let r ← readForm s srcs d
  .ok (retire (writeReg (setCur s r.2) d (f r.1)))

/-- Apply a function of one, two, three sources. -/
def on1 (f : Word → Word) : List Word → Word | [x] => f x | _ => 0
def on2 (f : Word → Word → Word) : List Word → Word | [x, y] => f x y | _ => 0
def on3 (f : Word → Word → Word → Word) : List Word → Word | [x, y, z] => f x y z | _ => 0

/-- `op d, a`. -/
def unary (s : State) (d a : RegNo) (f : Word → Word) := runBody s (regForm s [a] d (on1 f))

/-- `op d, a, b`. -/
def binary (s : State) (d a b : RegNo) (f : Word → Word → Word) := runBody s (regForm s [a, b] d (on2 f))

/-- `op d, a, b` where d is also read (R136). -/
def ternary (s : State) (d a b : RegNo) (f : Word → Word → Word → Word) := runBody s (regForm s [a, b, d] d (on3 f))

/-- An instruction without sources. -/
def nullary (s : State) (d : RegNo) (f : Thread → Word) := runBody s (regForm s [] d (fun _ => f (cur s)))

/-- A result that arrives later (R126): the destination is empty until RESULT_ARRIVAL. -/
def laterForm (s : State) (srcs : List RegNo) (d : RegNo) (f : List Word → Word) : Except Stop State := do
  let r ← readForm s srcs d
  let s1 := setCur s r.2
  let q := { threadRequest s with kind := .delayed, d := d, resp := some (f r.1) }
  .ok (retire (sendRequest (pendReg s1 d) q))

/-- `op d, a, b` with a delayed result. -/
def later (s : State) (d a b : RegNo) (f : Word → Word → Word) := runBody s (laterForm s [a, b] d (on2 f))

/-! ### Scalar floating point -/

/-- The format a scalar fmt2 names (R67). -/
def Fmt2.fmt : Fmt2 → Fmt | .f64 => .f64 | .f32 => .f32 | .f16 => .f16 | .bf16 => .bf16

/-- The low bits of a register, as an operand of a format (R129). -/
def lowBits (f : Fmt) (w : Word) : Nat := w.toNat % 2 ^ f.width

/-- A result with the flags it raised and whether it took a draw. -/
structure FResult where
  val   : Word
  flags : Nat
  used  : Bool
deriving DecidableEq, Repr

/-- A formed encoding placed in the low bits of a register (R129). -/
def FOut.result (o : FOut) : FResult := ⟨word o.bits, o.flags, o.used⟩

/-- The environment of the thread at the focus. -/
def curEnv (s : State) (rf : Rf) : Env := envOf (coreCfg s s.core (cur s).ctx) rf

/-- The configuration the thread at the focus runs under. -/
def curCfg (s : State) : Word := coreCfg s s.core (cur s).ctx

/-- Flags that meet an enabled trap set the flags and trap with 0x13; nothing else is changed, and no draw is consumed
(R107, R112, R143). -/
def checkFlags (s : State) (fl : Nat) : Except Stop Unit :=
  if flagsTrap (curCfg s) fl then .error (.trapAs (orStatus (cur s) fl) 0x13 (word fl)) else .ok ()

/-- The thread after a completed floating-point operation: flags ORed, the draw consumed. -/
def afterFp (th : Thread) (r : FResult) : Thread :=
  let th := orStatus th r.flags
  if r.used then stepGen th else th

/-- A floating-point instruction whose result is written at once. -/
def fpForm (s : State) (srcs : List RegNo) (d : RegNo) (f : Word → List Word → FResult) : Except Stop State := do
  let r ← readForm s srcs d
  let x := f (nextDraw (cur s)) r.1
  checkFlags s x.flags
  .ok (retire (writeReg (setCur s (afterFp r.2 x)) d x.val))

/-- A floating-point instruction whose result arrives later; its flags are set in program order, at issue (R143). -/
def fpLaterForm (s : State) (srcs : List RegNo) (d : RegNo) (f : Word → List Word → FResult) : Except Stop State := do
  let r ← readForm s srcs d
  let x := f (nextDraw (cur s)) r.1
  checkFlags s x.flags
  let q := { threadRequest s with kind := .delayed, d := d, resp := some x.val }
  .ok (retire (sendRequest (pendReg (setCur s (afterFp r.2 x)) d) q))

/-- Apply an operation of one, two, three encodings. -/
def fp1 (g : Word → Word → FResult) : Word → List Word → FResult
  | w, [x] => g w x
  | _, _ => ⟨0, 0, false⟩
def fp2 (g : Word → Word → Word → FResult) : Word → List Word → FResult
  | w, [x, y] => g w x y
  | _, _ => ⟨0, 0, false⟩
def fp3 (g : Word → Word → Word → Word → FResult) : Word → List Word → FResult
  | w, [x, y, z] => g w x y z
  | _, _ => ⟨0, 0, false⟩

/-! ### Tile registers (R209 to R213) -/

/-- A byte of a tile register. -/
def tileByte (th : Thread) (t : TileNo) (i : Nat) : Byte := mapGet (0 : Byte) th.tiles (t.toNat * 1024 + i)

/-- Set a byte of a tile register. -/
def setTileByte (th : Thread) (t : TileNo) (i : Nat) (b : Byte) : Thread :=
  { th with tiles := mapSet (0 : Byte) th.tiles (t.toNat * 1024 + i) b }

/-- Set bytes from an offset on. -/
def setTileBytes (th : Thread) (t : TileNo) (i : Nat) : List Byte → Thread
  | [] => th
  | b :: r => setTileBytes (setTileByte th t i b) t (i + 1) r

/-- elem(t, F, r, c) (R210), as bits. -/
def tileElem (th : Thread) (t : TileNo) (f : Fmt) (r c : Nat) : Nat :=
  if f.isNibble then
    let b := (tileByte th t (128 * r + c / 2)).toNat
    if c % 2 = 0 then b % 16 else b / 16
  else if f.isSix then (tileByte th t (128 * r + c)).toNat % 64
  else
    let n := f.width / 8
    leValue ((List.range n).map (fun i => tileByte th t (128 * r + n * c + i)))

/-- Write elem(t, F, r, c), leaving every other bit undisturbed (R216). -/
def setTileElem (th : Thread) (t : TileNo) (f : Fmt) (r c v : Nat) : Thread :=
  if f.isNibble then
    let i := 128 * r + c / 2
    let b := (tileByte th t i).toNat
    setTileByte th t i (BitVec.ofNat 8 (if c % 2 = 0 then b / 16 * 16 + v % 16 else b % 16 + v % 16 * 16))
  else if f.isSix then setTileByte th t (128 * r + c) (BitVec.ofNat 8 (v % 64))
  else setTileBytes th t (128 * r + f.width / 8 * c) (leBytes (f.width / 8) v)

/-- mbit(t, r, c) (R211). -/
def maskBit (th : Thread) (t : TileNo) (r c : Nat) : Bool := (tileByte th t (128 * r + c / 8)).getLsbD (c % 8)

/-- Write a mask bit. -/
def setMaskBit (th : Thread) (t : TileNo) (r c : Nat) (v : Bool) : Thread :=
  let i := 128 * r + c / 8
  let b := (tileByte th t i).toNat
  let p := 2 ^ (c % 8)
  setTileByte th t i (BitVec.ofNat 8 (if v then b / (2 * p) * (2 * p) + p + b % p else b / (2 * p) * (2 * p) + b % p))

/-! ### Shapes (R214 to R216) -/

/-- cap(F): elements a row can hold (R210). -/
def capOf (f : Fmt) : Nat := 1024 / f.container

/-- grant(F, rows, len) (R215). -/
def grantOf (f : Fmt) (rows len : Nat) : Nat × Nat :=
  if rows = 0 ∨ len = 0 then (0, 0) else (if rows < 8 then rows else 8, if len < capOf f then len else capOf f)

/-- A shape register. -/
def shapeReg (th : Thread) (sh : ShapeNo) : BitVec 128 := mapGet (0 : BitVec 128) th.shapes sh.toNat

/-- Granted row length, granted rows and format of a shape (R214). -/
def shapeLen (th : Thread) (sh : ShapeNo) : Nat := ((shapeReg th sh).extractLsb' 64 16).toNat
def shapeRows (th : Thread) (sh : ShapeNo) : Nat := ((shapeReg th sh).extractLsb' 80 8).toNat
def shapeFmt (th : Thread) (sh : ShapeNo) : Fmt := (Fmt.ofCode ((shapeReg th sh).extractLsb' 88 5)).getD .i8

/-- The elements of a grant, rows ascending, elements ascending in a row. -/
def gridOf (rows len : Nat) : List (Nat × Nat) := (List.range rows).flatMap (fun r => (List.range len).map (fun c => (r, c)))

/-- The mask admits an element: no mask, or its bit is set (R216, R217). -/
def maskOk (th : Thread) (mask : TileNo) (r c : Nat) : Bool := mask == 0 || maskBit th mask r c

/-- The live elements of a shape under a mask (R216). -/
def liveElems (th : Thread) (sh : ShapeNo) (mask : TileNo) : List (Nat × Nat) :=
  (gridOf (shapeRows th sh) (shapeLen th sh)).filter (fun p => maskOk th mask p.1 p.2)

/-- A zero grant. -/
def zeroGrant (th : Thread) (sh : ShapeNo) : Bool := shapeRows th sh == 0 || shapeLen th sh == 0

/-- Which formats an instruction accepts. -/
inductive Accepts where
  | any | ints | floats | both | gather | special | wide
deriving DecidableEq, Repr

/-- The format is accepted: `gather` is R233's list, `special` R237's, `wide` everything but the 4-bit formats (R230). -/
def Accepts.ok (a : Accepts) (f : Fmt) : Bool :=
  match a with
  | .any => true
  | .ints => f.isInt
  | .floats => f.isFloat4
  | .both => f.isInt || f.isFloat4
  | .gather => f == .i32 || f == .z32 || f == .f32 || f == .i64 || f == .z64 || f == .f64
  | .special => f == .bf16 || f == .f16 || f == .f32
  | .wide => !f.isNibble

/-- Tile register naming (R53). -/
def checkTiles (th : Thread) (ts : List TileNo) : Except Stop Unit :=
  if ts.all (fun t => decide (t.toNat < th.hdr.tiles)) then .ok () else .error (.trap 0x02 0)

/-- A tile register an outstanding `vld`, `vldg` or `macc` of the thread is still to write (R212). -/
def tileBusy (s : State) (th : Thread) (t : TileNo) : Bool :=
  s.flights.any (fun r => r.uid == th.uid &&
    (match r.kind with
     | .tileLoad x _ => x == t
     | .macc x _ _ _ _ _ => x == t
     | _ => false))

/-- The scalar sources of a tile instruction. On a zero grant nothing is read: the instruction waits until they are full, and no
stream element is taken and nothing raised for them (R216, log 87). -/
def tileSources (s : State) (sh : ShapeNo) (ns : List RegNo) : Except Stop (List Word × Thread) :=
  if zeroGrant (cur s) sh && !ns.any (fun n => (cur s).ports.any (fun p => p.reg == n && p.output)) then
    match takeSources (cur s) ns with
    | none => .error (.wait .waitReg)
    | some _ => if ns.any (depOwed s) then .error (.wait .waitReg) else .ok (ns.map (fun _ => 0), cur s)
  else readFrom s ns

/-- The format and RF are accepted, or the word is no instruction for this shape (R87, R218). -/
def checkFormat (s : State) (sh : ShapeNo) (acc : Accepts) (rfOk : Bool) : Except Stop Unit :=
  if acc.ok (shapeFmt (cur s) sh) && rfOk then .ok () else .error (.trap 0x01 0)

/-- The checks every tile instruction makes: format and RF (0x01), tile and scalar naming (0x02, log 113), order with outstanding
tile loads, and poison of what it reads unless the grant is zero, whatever its mask leaves live (R87, R212, R213, R216, R218,
log 89). `mask` 0 names no tile; `regs` are the scalar sources. -/
def tileChecks (s : State) (sh : ShapeNo) (acc : Accepts) (rfOk : Bool) (srcs writes : List TileNo) (mask : TileNo)
    (regs : List RegNo) : Except Stop Unit := do
  let th := cur s
  checkFormat s sh acc rfOk
  let masks := if mask = 0 then [] else [mask]
  checkTiles th (srcs ++ writes ++ masks)
  checkSourceNames th regs
  if (srcs ++ writes ++ masks).any (tileBusy s th) then .error (.wait .waitReg) else .ok ()
  if !zeroGrant th sh && (srcs ++ masks).any (fun t => th.tilePoison.getLsbD t.toNat) then .error (.trap 0x0A 0) else .ok ()

/-- Form element results in order, drawing from the generator as they need (R107). -/
def formElems (th : Thread) (els : List (Nat × Nat)) (f : Word → Nat → Nat → FOut) : List (Nat × Nat × Nat) × Nat × Thread :=
  els.foldl (fun acc p =>
    let o := f (nextDraw acc.2.2) p.1 p.2
    (acc.1 ++ [(p.1, p.2, o.bits)], acc.2.1 ||| o.flags, if o.used then stepGen acc.2.2 else acc.2.2)) ([], 0, th)

/-- Write element results. -/
def writeElems (th : Thread) (td : TileNo) (f : Fmt) (vs : List (Nat × Nat × Nat)) : Thread :=
  vs.foldl (fun th v => setTileElem th td f v.1 v.2.1 v.2.2) th

/-- An elementwise instruction: every result is formed before anything is written; flags are the union over live elements
and may trap (R212, R219). -/
def tileForm (s : State) (td : TileNo) (sh : ShapeNo) (acc : Accepts) (rfOk : Bool) (srcs : List TileNo) (mask : TileNo)
    (f : Thread → Fmt → Word → Nat → Nat → FOut) : Except Stop State := do
  tileChecks s sh acc rfOk srcs [td] mask []
  let th := cur s
  let fm := shapeFmt th sh
  let r := formElems th (liveElems th sh mask) (f th fm)
  checkFlags s r.2.1
  .ok (retire (setCur s (orStatus (writeElems r.2.2 td fm r.1) r.2.1)))

/-- A result of bits alone. -/
def plainBits (v : Nat) : FOut := .exact v 0

/-- An integer element operation: exact integers, wrapped to the container (R226). -/
def intElem (f : Fmt) (v : Int) : FOut := .exact (wrapNat f.width v) 0

/-! ### Memory operands -/

/-- Windows every plain load and store accepts (R150), register window apart. -/
def plainWin : Win → Bool
  | .localSp | .remoteSp | .urn | .gddr | .lpddr | .host | .unicast => true
  | .regWin | .multicast | .reduce => false

/-- The tracked windows of a speculative task (R346). -/
def trackedWin : Win → Bool
  | .urn | .gddr | .lpddr => true
  | .localSp | .remoteSp | .regWin | .host | .unicast | .multicast | .reduce => false

/-- The four bits of a line's signature (R347). -/
def lineSig (va : Nat) : BitVec 1024 :=
  let n := va % 2 ^ 52 / 64
  (List.range 4).foldl (fun a i =>
    let k := 11 * i
    let rot := n / 2 ^ k + n % 2 ^ k * 2 ^ (46 - k)
    a ||| ((1 : BitVec 1024) <<< foldXor 5 rot 10)) 0

/-- The line may be in a signature. -/
def inSig (sig : BitVec 1024) (line : BitVec 1024) : Bool := sig &&& line == line

/-- The key order of tasks (R344). -/
def keyLess (a b : Task) : Bool := decide (a.t < b.t ∨ (a.t = b.t ∧ a.q < b.q))

/-- A tracked access of a task: its signature grows, and a conflict marks the task that must abort (R347, R348). -/
def trackAccess (s : State) (id : Nat) (va n : Nat) (write : Bool) : State :=
  match s.tasks.find? (fun x => x.id == id) with
  | none => s
  | some me =>
    let line := lineSig va ||| lineSig (va + n - 1)
    let one := fun (sig : BitVec 1024) => inSig sig (lineSig va) || inSig sig (lineSig (va + n - 1))
    let selfAbort := !write && s.tasks.any (fun x => x.ctx == me.ctx && x.id != id && keyLess x me && one x.writes)
    { s with tasks := s.tasks.map (fun x =>
        if x.id = id then
          { x with
            reads := if write then x.reads else x.reads ||| line, writes := if write then x.writes ||| line else x.writes
            abort := x.abort || (selfAbort && x.spec) }
        else if write && x.ctx == me.ctx && keyLess me x && x.spec && one x.reads then { x with abort := true }
        else x) }

/-- The words the task buffer of a core holds, those of each task counted for itself (R349). -/
def bufferedWords (tasks : List Task) (core : Nat) : Nat :=
  ((tasks.filter (fun x => match x.core with | some c => c.1 == core && x.spec | none => false)).map
    (fun x => (x.buf.map (fun p => p.1 / 8)).eraseDups.length)).sum

/-- Buffer a speculative store (R346, R349); none where the core's task buffer of 4,096 words has no room for it. -/
def bufferStore (s : State) (id core k n v : Nat) : Option State :=
  let tasks := s.tasks.map (fun x =>
    if x.id = id then
      { x with buf := (leBytes n v).zipIdx.foldl (fun m p => mapPut m (k + p.2) p.1) x.buf }
    else x)
  if bufferedWords tasks core ≤ 4096 then some { s with tasks := tasks } else none

/-- The bytes a task's load sees: its own buffered ones before memory (R346). -/
def taskRead (s : State) (id k n : Nat) : Nat :=
  match s.tasks.find? (fun x => x.id == id) with
  | some x => leValue ((List.range n).map (fun i => (mapFind x.buf (k + i)).getD (memByte s.mem (k + i))))
  | none => peek s k n

/-- A key's core, for scratchpad keys. -/
def keyCore (k : Nat) : Option Nat := if 2 ^ 48 ≤ k then some ((k - 2 ^ 48) / 2 ^ 21) else none

/-- The home that serves a key: the core of a scratchpad, an urn bank, a memory channel, or the host (R170, R248). -/
def homeOf (k : Nat) : Nat :=
  match keyCore k with
  | some c => 4096 + c
  | none =>
    match physWin k with
    | some .urn =>
      let l := (k - urnBase) / 64
      (nbits l 9 0) ^^^ (nbits l 19 10) ^^^ (nbits l 22 20)
    | some .gddr => 1024 + foldXor 5 (k / 256) 6
    | some .lpddr => 1088 + foldXor 8 ((k - 0x4000000000) / 256) 5
    | some .host => 2000
    | _ => 2001

/-- Remember a home for the fence's touched-bank mask (R298): nothing but timing rests on it. -/
def touchHome (s : State) (k : Nat) : State := setCur s { cur s with touched := setIns (cur s).touched (homeOf k) }

end Sys2Proof.Machine
end

