-- ==== Sys2Proof/Machine/Fetch.lean ====
section
/-! DEFINITION. Instruction fetch (R88 to R90), the class of a word (R54), and the choice of the barrel scheduler (R380). -/
namespace Sys2Proof.Machine

/-- What a fetch finds (R89). -/
inductive Fetch where
  | word (w : IWord) | wait | invalid | miss
deriving DecidableEq, Repr

/-- The word at an offset of an instruction memory slot; bytes beyond the overlay read as zero (R90). -/
def imemWord (im : ImemSlot) (off : Nat) : IWord :=
  wordOfBytes (mapGet 0 im.bytes off) (mapGet 0 im.bytes (off + 1)) (mapGet 0 im.bytes (off + 2)) (mapGet 0 im.bytes (off + 3))

/-- The slot carries this overlay's number. -/
def imemMatches (im : ImemSlot) (overlay : Nat) : Bool := !(im.state == .empty) && im.overlay == overlay

/-- Fetch at a code address: a valid slot with the overlay's number decides, else slot 0 before slot 1 (log 110). The model's choice: an
offset that is no multiple of 4 fetches the four bytes from it on (log 94). -/
def fetchAt (co : Core) (pc : CodeAddr) : Fetch :=
  let ov := pc.toNat / 2 ^ 16
  let off := pc.toNat % 2 ^ 16
  let look := fun (im : ImemSlot) =>
    match im.state with
    | .valid => .word (imemWord im off)
    | .loading => .wait
    | .invalid => .invalid
    | .empty => Fetch.miss
  if imemMatches co.im0 ov && co.im0.state == .valid then look co.im0
  else if imemMatches co.im1 ov && co.im1.state == .valid then look co.im1
  else if imemMatches co.im0 ov then look co.im0
  else if imemMatches co.im1 ov then look co.im1
  else .miss

/-- The word belongs to the tile-, matrix- or engine-class (R54). -/
def isEngineWord (w : IWord) : Bool :=
  let m := (fld w 26 6).toNat
  decide ((0x2B ≤ m ∧ m ≤ 0x2E) ∨ (0x30 ≤ m ∧ m ≤ 0x37))

/-- The class of a thread's next issue; what is no word issues as scalar. -/
def nextIsEngine (s : State) (c t : Nat) : Bool :=
  match fetchAt (getCore s c) (getThread s c t).pc with
  | .word w => isEngineWord w
  | .wait | .invalid | .miss => false

/-- The thread's arrival at a barrier is on its way, or waits there. -/
def atBarrier (s : State) (th : Thread) : Bool := s.flights.any (fun r => r.uid == th.uid && r.kind == .bar)

/-- The thread stands at an instruction it has issued: a `bar`, or an `lde` or `ste` that a home behind the fabric window has not accepted yet
(R150, R203). -/
def standing (s : State) (th : Thread) : Bool :=
  s.flights.any (fun r => r.uid == th.uid &&
    (r.kind == .bar || ((r.kind == .lde || r.kind == .ste) && fabricKey r.key && r.arrived == 0 && r.resp.isNone)))

/-- The thread at the focus stands at a `wtw`: it sleeps on a watch, which is no wait at a memory home (R265, R274). -/
def atWatch (s : State) : Bool :=
  match fetchAt (getCore s s.core) (cur s).pc with
  | .word w => (match decodeWord w with | .ok (.wtw _) => true | _ => false)
  | .wait | .invalid | .miss => false

/-- A trap that is pending may be taken: not while the thread waits at a memory home (R265) unless a fence waits for the command
(R297), nor while it stands at a home, nor while its task is speculative (R354). At a `wtw` only an acquire is such a wait: fences hold
no `wtw`. -/
def pendingDue (s : State) (th : Thread) : Option PendingTrap :=
  match th.pending with
  | some p =>
    if (th.status == .waitHome && isHeld s th (if atWatch s then 0 else 0b111111) && p.fen.isNone) || standing s th ||
        (specTask s th).isSome then none
    else some p
  | none => none

/-- Take a pending trap: its record carries the PC of the fence that waited for the command, else of the instruction the thread
stands at (R265, R297, R319, R354). -/
def takePending (s : State) (c t : Nat) (p : PendingTrap) : State :=
  let pc := p.fen.getD (cur s).pc
  takeTrap (putThread s c t (popTrap (getThread s c t))) c t p.cause p.detail pc pc

/-- A trap that a speculative task holds: the thread issues nothing until it is delivered or discarded (R354). -/
def trapHeld (s : State) (th : Thread) : Bool := th.pending.isSome && (specTask s th).isSome

/-- A yielding thread has given every other thread that was ready its opportunity, or waited for 64 (R202). -/
def yieldOver (th : Thread) (ready : List (Nat × Thread)) : Bool :=
  !th.yielded || decide (64 ≤ th.waited) || ready.all (fun p => !th.yieldFor.contains p.2.uid)

/-- The longest-waiting of some threads, the lowest slot first. -/
def longest : List (Nat × Thread) → Option (Nat × Thread)
  | [] => none
  | p :: r =>
    match longest r with
    | none => some p
    | some q => if p.2.waited < q.2.waited then some q else some p

/-- The barrel scheduler's choice among the ready threads of one class (R380). -/
def pickSlot (last : Nat) (ready : List (Nat × Thread)) : Option Nat :=
  let can := ready.filter (fun p => yieldOver p.2 ready)
  match longest (can.filter (fun p => decide (32 ≤ p.2.waited))) with
  | some p => some p.1
  | none =>
    if can.any (fun p => p.1 == 31) then some 31
    else if can.any (fun p => p.1 == 29) then some 29
    else if can.any (fun p => p.1 == 30) then some 30
    else
      match can.find? (fun p => decide (last < p.1)) with
      | some p => some p.1
      | none => can.head?.map (·.1)

/-- What an issue opportunity leaves: the chosen slot is the last one issued; the other ready threads have waited one more; no
thread of the core that has yielded waits for the chosen one any longer (R202). -/
def noteIssue (s : State) (c : Nat) (engine : Bool) (ready : List (Nat × Thread)) (t : Nat) : State :=
  let uid := (getThread s c t).uid
  let s1 := ready.foldl (fun st p =>
    let th := getThread st c p.1
    putThread st c p.1
      (if p.1 = t then { th with waited := 0, yielded := false, yieldFor := [] } else { th with waited := th.waited + 1 })) s
  let s2 := (coreThreads s1 c).foldl (fun st p =>
    if p.2.yieldFor.contains uid then putThread st c p.1 { p.2 with yieldFor := setDel p.2.yieldFor uid } else st) s1
  let co := getCore s2 c
  putCore s2 c (if engine then { co with lastEngine := t } else { co with lastScalar := t })

/-- An issue opportunity that no ready thread may use, since each has yielded to another: it counts for all of them (R202). -/
def noteUnused (s : State) (c : Nat) (ready : List (Nat × Thread)) : State :=
  ready.foldl (fun st p =>
    let th := getThread st c p.1
    putThread st c p.1 { th with waited := th.waited + 1 }) s

/-- Note that a slot has just been fetched from, for the choice of R383. -/
def noteFetch (s : State) (c : Nat) (pc : CodeAddr) : State :=
  let co := getCore s c
  let ov := pc.toNat / 2 ^ 16
  if imemMatches co.im0 ov then putCore { s with nextId := s.nextId + 1 } c { co with im0 := { co.im0 with fetched := s.nextId } }
  else if imemMatches co.im1 ov then
    putCore { s with nextId := s.nextId + 1 } c { co with im1 := { co.im1 with fetched := s.nextId } }
  else s

/-- A thread suspended at its fetch while the slot loads (R89). -/
def suspendFetch (s : State) : State := setCur s { cur s with status := .waitReg }

/-- The host writes its own memory, up to the end of the host window (R246). -/
def hostStore (s : State) (off : Nat) (data : List Byte) : State :=
  if off + data.length ≤ 2 ^ 46 then pokeBytes s (hostBase + off) data else s

/-- How many nanoseconds a correction moves the count by while ns pass: one for each 10 µs, as far as one is owed (R420). -/
def slewBy (v : Device) (ns : Nat) : Nat :=
  let most := (v.slewNs + ns) / 10000
  let due := v.slewed.natAbs
  if due ≤ most ∧ due ≤ ns then due else if most < ns then most else ns

/-- Time passes: the time base counts, faster or slower while a correction is owed, and never falls (R420). -/
def tickTime (s : State) (ns : Nat) : State :=
  let n := slewBy s.dev ns
  { s with dev := { s.dev with
      timebase := s.dev.timebase + word (if s.dev.slewed < 0 then ns - n else ns + n)
      slewed := if s.dev.slewed < 0 then s.dev.slewed + (n : Int) else s.dev.slewed - (n : Int)
      slewNs := (s.dev.slewNs + ns) % 10000 } }

end Sys2Proof.Machine
end

