-- ==== Sys2Proof/Machine/Access.lean ====
section
/-! DEFINITION. Loads, stores, full/empty accesses, group accesses and atomics as they issue (R147 to R173). -/
namespace Sys2Proof.Machine

/-- Windows a plain load or store accepts: all but the group windows. -/
def loadWin (w : Win) : Bool := plainWin w || w == .regWin

/-- Windows of `lde`, `ste`: those with state bits; whether a remote word has one is known at its device (R150). -/
def stateWin (w : Win) : Bool := w == .localSp || w == .remoteSp || w == .urn || w == .unicast

/-- Requests that R413 makes exactly-once. -/
def ReqKind.tagged : ReqKind → Bool
  | .amo _ | .cas | .red _ | .stm | .ldrd _ => true
  | .load _ | .ldf | .lde | .fstat | .store | .stf | .ste | .bar | .delayed | .tileLoad _ _ | .tileStore _ | .famPut _ _ _
  | .famGive _ _ _ _ | .shared _ _ _ | .brk _ _ | .ksend _ _ _ _ | .rxa _ _ _ | .tenq _ | .macc _ _ _ _ _ _ | .streamOut _ _ _
  | .streamEnd _ _ _ | .engine _ => false

/-- The tags a core may not use: those of its open requests, and those a home still holds (R413). -/
def usedTags (s : State) (core : Nat) : List Nat :=
  (s.flights.filterMap (fun r => if r.core = core ∧ r.tag ≠ 0 then some r.tag else none)) ++
    s.tags.flatMap (fun p => p.2.filterMap (fun e => if e.core = core ∧ e.old = false then some e.tag else none))

/-- The first tag from t on, cyclically, that is not among the used ones. -/
def tagFrom (used : List Nat) : Nat → Nat → Nat
  | 0, t => t
  | n + 1, t => if used.contains t then tagFrom used n (t % 65535 + 1) else t

/-- A tag of 16 bits that is unique among the core's open requests and not held by a home (R413). -/
def freshTag (s : State) (core : Nat) : Nat :=
  let used := usedTags s core
  tagFrom used used.length (s.nextId % 65535 + 1)

/-- A request toward a place; fabric requests that R413 protects carry a tag. -/
def placed (s : State) (r : Request) (l : Loc) (va : Word) (n : Nat) : Request :=
  let fabric := l.win == .unicast || l.win == .multicast || l.win == .reduce || (l.remote && !(l.win == .remoteSp))
  { r with va := va, key := l.key, width := n, tag := if fabric && r.kind.tagged then freshTag s r.core else 0 }

/-- A speculative task's access to a window it may not touch before it commits waits (R346). -/
def specWindow (s : State) (w : Win) : Except Stop Unit :=
  if (specTask s (cur s)).isSome && !(trackedWin w || w == .localSp || w == .regWin) then .error (.wait .waitFamily) else .ok ()

/-- The task behind a thread's accesses, as its number: the task that the thread is, or the one whose command the row handler or edge
handler serves (R326, R369). -/
def taskBehind (s : State) (th : Thread) : Option Nat :=
  let issuer := fun (uid : Nat) => (s.tasks.find? (fun x => x.uid == uid && uid != 0)).map (·.id)
  match th.kind with
  | .task => some th.work
  | .rowHandler => issuer th.member
  | .edgeHandler => (s.runs.find? (fun r => r.id == th.work)).bind (fun r => issuer r.uid)
  | .member | .trapHandler | .kernel => none

/-- Track a task's access to the urn or module memory (R346, R347): a task that is no longer speculative still conflicts with
later tasks (R348, R351). -/
def specTrack (s : State) (w : Win) (va : Word) (n : Nat) (write : Bool) : State :=
  if trackedWin w then
    match taskBehind s (cur s) with
    | some id => trackAccess s id va.toNat n write
    | none => s
  else s

/-- Track an access that reads and writes. -/
def trackBoth (s : State) (w : Win) (va : Word) (n : Nat) : State := specTrack (specTrack s w va n false) w va n true

/-- A mapped access names a window number: 8 bytes wide (0x03), named (0x02), not bound to a port (R130, R269). -/
def mappedReg (th : Thread) (k n : Nat) (va : Word) : Except Stop RegNo :=
  if n ≠ 8 ∨ va.toNat % 8 ≠ 0 then .error (.trap 0x03 va)
  else if windowSize th.hdr ≤ k then .error (.trap 0x02 0)
  else if (portOf th (BitVec.ofNat 6 k)).isSome then .error (.trap 0x06 va)
  else .ok (BitVec.ofNat 6 k)

/-- The bytes lie in the register window (R130, R247). -/
def regRange (va : Word) (n : Nat) : Bool :=
  bits va 63 52 == 0 && bits va 51 48 == 0xF && decide (0x10000000 ≤ va.toNat % 2 ^ 48 ∧ va.toNat % 2 ^ 48 + n ≤ 0x10000200)

/-- A load or store is held by fences as an event of these sets; one of the register window makes no event (R280, R296) and waits for
an acquire alone (R159). -/
def checkHeldAt (s : State) (sets : BitVec 6) (va : Word) (n : Nat) : Except Stop Unit :=
  checkHeld s (if regRange va n then 0 else sets)

/-- An address whose width is no multiple of 8 still reaches the register window to raise 0x03 there (R130). -/
def loadForm (s : State) (d : RegNo) (srcs : List RegNo) (addr : List Word → Word) (n : Nat) (signed : Bool) :
    Except Stop State := do
  let r ← readForm s srcs d
  let va := addr r.1
  checkHeldAt s 0b000001 va n
  let (l, s1) ← checkAddr (setCur s r.2) va n n true false loadWin
  if l.win = .regWin then
    let k ← mappedReg r.2 l.key n va
    depsReady s [k]
    let v ← readSources r.2 [k]
    .ok (retire (writeReg s1 d (v.1.headD 0)))
  else
    specWindow s l.win
    checkCount r.2.cntL 15
    if l.drop then .ok (retire (writeReg (touchGuard s1 l) d 0))
    else
      let s2 := specTrack s1 l.win va n false
      let q := placed s2 { threadRequest s2 with kind := .load signed, d := d } l va n
      .ok (retire (sendRequest (addL (touchHome (pendReg s2 d) l.key)) q))

/-- A store of the low n bytes of a register. -/
def storeForm (s : State) (b a : RegNo) (imm : BitVec 14) (n : Nat) : Except Stop State := do
  let r ← readOnlyForm s [b, a]
  match r.1 with
  | [v, x] =>
    let va := x + imm.signExtend 64
    checkHeldAt s 0b000010 va n
    let (l, s1) ← checkAddr (setCur s r.2) va n n false true loadWin
    if l.win = .regWin then
      let k ← mappedReg r.2 l.key n va
      checkDst r.2 k
      dstReady s r.2 k
      .ok (retire (writeReg s1 k v))
    else
      specWindow s l.win
      checkCount r.2.cntS 15
      if l.drop then .ok (retire (touchGuard s1 l))
      else
        match specTask s (cur s) with
        | some x =>
          if loadOwed s1 l.key n then .error (.wait .waitFamily)
          else
          match bufferStore (specTrack s1 l.win va n true) x.id s.core l.key n v.toNat with
          | some s2 => .ok (retire s2)
          | none => .error (.wait .waitFamily)
        | none =>
          let s1 := specTrack s1 l.win va n true
          let q := placed s1 { threadRequest s1 with kind := .store, b := v } l va n
          .ok (retire (sendRequest (addS (touchHome s1 l.key)) q))
  | _ => .ok (retire s)

/-- The base plus a signed immediate. -/
def immAddr (imm : BitVec 14) : List Word → Word := on1 (fun x => x + imm.signExtend 64)

/-- `ld.i8` (R157). -/
def execLdI8 (d a : RegNo) (imm : BitVec 14) (s : State) := runBody s (loadForm s d [a] (immAddr imm) 1 true)
/-- `ld.z8` (R157). -/
def execLdZ8 (d a : RegNo) (imm : BitVec 14) (s : State) := runBody s (loadForm s d [a] (immAddr imm) 1 false)
/-- `ld.i16` (R157). -/
def execLdI16 (d a : RegNo) (imm : BitVec 14) (s : State) := runBody s (loadForm s d [a] (immAddr imm) 2 true)
/-- `ld.z16` (R157). -/
def execLdZ16 (d a : RegNo) (imm : BitVec 14) (s : State) := runBody s (loadForm s d [a] (immAddr imm) 2 false)
/-- `ld.i32` (R157). -/
def execLdI32 (d a : RegNo) (imm : BitVec 14) (s : State) := runBody s (loadForm s d [a] (immAddr imm) 4 true)
/-- `ld.z32` (R157). -/
def execLdZ32 (d a : RegNo) (imm : BitVec 14) (s : State) := runBody s (loadForm s d [a] (immAddr imm) 4 false)
/-- `ld.i64` (R157). -/
def execLdI64 (d a : RegNo) (imm : BitVec 14) (s : State) := runBody s (loadForm s d [a] (immAddr imm) 8 false)

/-- Width and signedness of `ldx` (R71). -/
def ldxBytes : LdxWidth → Nat | .i8 | .z8 => 1 | .i16 | .z16 => 2 | .i32 | .z32 => 4 | .i64 => 8
def ldxSigned : LdxWidth → Bool | .i8 | .i16 | .i32 => true | .z8 | .z16 | .z32 | .i64 => false

/-- `ldx` (R157). -/
def execLdx (d a b : RegNo) (width : LdxWidth) (s : State) :=
  runBody s (loadForm s d [a, b] (on2 (· + ·)) (ldxBytes width) (ldxSigned width))

/-- `st.i8` (R157). -/
def execStI8 (b a : RegNo) (imm : BitVec 14) (s : State) := runBody s (storeForm s b a imm 1)
/-- `st.i16` (R157). -/
def execStI16 (b a : RegNo) (imm : BitVec 14) (s : State) := runBody s (storeForm s b a imm 2)
/-- `st.i32` (R157). -/
def execStI32 (b a : RegNo) (imm : BitVec 14) (s : State) := runBody s (storeForm s b a imm 4)
/-- `st.i64` (R157). -/
def execStI64 (b a : RegNo) (imm : BitVec 14) (s : State) := runBody s (storeForm s b a imm 8)

/-- The scope a full/empty access acts at: its modifier, or the default of its window (R158). -/
def feScope (sc : Scope) (w : Win) : Nat := if scopeNum sc = 0 then w.defaultScope else scopeNum sc

/-- The word lies in a fabric window: another device's, or behind an own page that is not exported now. Whether it has a state bit
is known at its home (R150). -/
def Loc.far (l : Loc) : Bool := l.win == .unicast

/-- The request goes to a home behind the fabric window while the thread stands at the instruction, unchanged, until that accepts or
refuses it (R150); `e` names its sources for then. -/
def standAt (s s1 : State) (q : Request) (srcs : List RegNo) : State :=
  sendRequest (setCur s1 { cur s with status := .ready })
    { q with e := word ((srcs.getD 0 0).toNat + 64 * (srcs.getD 1 0).toNat) }

/-- `ldf` and `lde`: a request that waits at the home until the word is full; later memory, engine, family, task and message
instructions are held until d is written (R159). A guard touch is answered zero at once (R253). -/
def feLoadForm (s : State) (d a b : RegNo) (sc : Scope) (kind : ReqKind) (wr : Bool) (accepts : Win → Bool) :
    Except Stop State := do
  let r ← readForm s [a, b] d
  checkHeld s 0b000001
  let va := on2 (· + ·) r.1
  let (l, s1) ← checkAddrAs 0x04 (setCur s r.2) va 8 8 true wr accepts
  let s1 := trackBoth s1 l.win va 8
  checkSpec s
  checkCount r.2.cntL 15
  if l.drop then .ok (retire (writeReg (touchGuard s1 l) d 0))
  else
    let q := placed s1 { threadRequest s1 with kind := kind, d := d, scope := feScope sc l.win, acq := true } l va 8
    if wr && l.far then .ok (standAt s s1 q [a, b])
    else .ok (retire (sendRequest (addL (touchHome (pendReg s1 d) l.key)) q))

/-- `ldf` (R159): it needs the read permission only (R249). -/
def execLdf (d a b : RegNo) (scope : Scope) (s : State) := runBody s (feLoadForm s d a b scope .ldf false plainWin)

/-- `lde` (R159). -/
def execLde (d a b : RegNo) (scope : Scope) (s : State) := runBody s (feLoadForm s d a b scope .lde true stateWin)

/-- `ldrd` (R165). -/
def execLdrd (d a b : RegNo) (op : LdrdOp) (s : State) :=
  runBody s (do
    let r ← readForm s [a, b] d
    checkHeld s 0b000001
    let va := on2 (· + ·) r.1
    let (l, s1) ← checkAddr (setCur s r.2) va 8 8 true false (· == .reduce)
    checkSpec s
    checkCount r.2.cntL 15
    let q := placed s1 { threadRequest s1 with kind := .ldrd op, d := d } l va 8
    .ok (retire (sendRequest (addL (touchHome (pendReg s1 d) l.key)) q)))

/-- `fstat`: state without waiting or ordering (R163). -/
def execFstat (d a b : RegNo) (s : State) :=
  runBody s (do
    let r ← readForm s [a, b] d
    checkHeld s 0b000001
    let va := on2 (· + ·) r.1
    let (l, s1) ← checkAddr (setCur s r.2) va 8 8 true false plainWin
    let s1 := specTrack s1 l.win va 8 false
    checkSpec s
    checkCount r.2.cntL 15
    if l.drop then .ok (retire (writeReg (touchGuard s1 l) d 0))
    else
      let q := placed s1 { threadRequest s1 with kind := .fstat, d := d } l va 8
      .ok (retire (sendRequest (addL (touchHome (pendReg s1 d) l.key)) q)))

/-- `stf` (R160). -/
def execStf (a b : RegNo) (scope : Scope) (s : State) :=
  runBody s (do
    let r ← readOnlyForm s [a, b]
    checkHeld s 0b000010
    match r.1 with
    | [va, v] =>
      let (l, s1) ← checkAddr (setCur s r.2) va 8 8 false true plainWin
      let s1 := specTrack s1 l.win va 8 true
      checkSpec s
      checkCount r.2.cntS 15
      if l.drop then .ok (retire (touchGuard s1 l))
      else
        let q := placed s1 { threadRequest s1 with kind := .stf, b := v, scope := feScope scope l.win, rel := true } l va 8
        .ok (retire (sendRequest (addS (touchHome s1 l.key)) q))
    | _ => .ok (retire s))

/-- `ste` (R161). -/
def execSte (d a b : RegNo) (scope : Scope) (s : State) :=
  runBody s (do
    let r ← readForm s [a, b] d
    checkHeld s 0b000011
    match r.1 with
    | [va, v] =>
      let (l, s1) ← checkAddr (setCur s r.2) va 8 8 true true stateWin
      let s1 := trackBoth s1 l.win va 8
      checkSpec s
      checkCount r.2.cntL 15
      if l.drop then .ok (retire (writeReg (touchGuard s1 l) d 0))
      else
        let q := placed s1
          { threadRequest s1 with kind := .ste, d := d, b := v, scope := feScope scope l.win, rel := true } l va 8
        if l.far then .ok (standAt s s1 q [a, b])
        else .ok (retire (sendRequest (addL (touchHome (pendReg s1 d) l.key)) q))
    | _ => .ok (retire s))

/-- `stm` (R164). -/
def execStm (a b : RegNo) (s : State) :=
  runBody s (do
    let r ← readOnlyForm s [a, b]
    checkHeld s 0b000010
    match r.1 with
    | [va, v] =>
      let (l, s1) ← checkAddr (setCur s r.2) va 8 8 false true (· == .multicast)
      checkSpec s
      checkCount r.2.cntS 15
      let q := placed s1 { threadRequest s1 with kind := .stm, b := v } l va 8
      .ok (retire (sendRequest (addS (touchHome s1 l.key)) q))
    | _ => .ok (retire s))

/-- The ordering code OS (R61, R169): acquire, release and scope. -/
def osAcq (os : BitVec 4) : Bool := decide ((1 ≤ os.toNat ∧ os.toNat ≤ 5) ∨ 11 ≤ os.toNat)
def osRel (os : BitVec 4) : Bool := decide (6 ≤ os.toNat)
def osScope (os : BitVec 4) : Nat := if os = 0 then 0 else (os.toNat - 1) % 5 + 1

/-- Width of an atomic operation (R167). -/
def amoBytes : AmoOp → Nat
  | .fadd32 => 4
  | .badd16 => 2
  | .add | .and | .or | .xor | .min | .max | .minz | .maxz | .swap | .fadd64 | .fmin | .fmax => 8

/-- Windows of atomics; host memory takes FetchAdd, Swap and CAS only (R150). -/
def amoWin (hostOk : Bool) (w : Win) : Bool := plainWin w && (!(w == .host) || hostOk)

/-- Operations that leave for the host as PCIe AtomicOps. -/
def amoHostOk : AmoOp → Bool
  | .add | .swap => true
  | .and | .or | .xor | .min | .max | .minz | .maxz | .fadd32 | .fadd64 | .badd16 | .fmin | .fmax => false

/-- `amo` (R167). -/
def execAmo (d a b : RegNo) (op : AmoOp) (os : BitVec 4) (s : State) :=
  runBody s (do
    let r ← readForm s [a, b] d
    checkHeld s 0b000011
    match r.1 with
    | [va, v] =>
      let (l, s1) ← checkAddr (setCur s r.2) va (amoBytes op) (amoBytes op) true true (amoWin (amoHostOk op))
      let s1 := trackBoth s1 l.win va (amoBytes op)
      checkSpec s
      checkCount r.2.cntL 15
      if l.drop then .ok (retire (writeReg (touchGuard s1 l) d 0))
      else
        let q := placed s1 { threadRequest s1 with
          kind := .amo op, d := d, b := v, scope := osScope os, acq := osAcq os, rel := osRel os } l va (amoBytes op)
        .ok (retire (sendRequest (addL (touchHome (pendReg s1 d) l.key)) q))
    | _ => .ok (retire s))

/-- `red` (R167, R172). -/
def execRed (a b : RegNo) (op : AmoOp) (os : BitVec 4) (s : State) :=
  runBody s (do
    let r ← readOnlyForm s [a, b]
    checkHeld s 0b000011
    match r.1 with
    | [va, v] =>
      let (l, s1) ← checkAddr (setCur s r.2) va (amoBytes op) (amoBytes op) true true (amoWin (amoHostOk op))
      let s1 := trackBoth s1 l.win va (amoBytes op)
      checkSpec s
      checkCount r.2.cntS 15
      if l.drop then .ok (retire (touchGuard s1 l))
      else
        let q := placed s1 { threadRequest s1 with
          kind := .red op, b := v, e := os.zeroExtend 64, scope := osScope os, acq := osAcq os, rel := osRel os } l va (amoBytes op)
        .ok (retire (sendRequest (addS (touchHome s1 l.key)) q))
    | _ => .ok (retire s))

/-- `cas`: d is read as the expected value (R168). -/
def execCas (d a b : RegNo) (os : BitVec 4) (s : State) :=
  runBody s (do
    let r ← readForm s [a, b, d] d
    checkHeld s 0b000011
    match r.1 with
    | [va, v, e] =>
      let (l, s1) ← checkAddr (setCur s r.2) va 8 8 true true (amoWin true)
      let s1 := trackBoth s1 l.win va 8
      checkSpec s
      checkCount r.2.cntL 15
      if l.drop then .ok (retire (writeReg (touchGuard s1 l) d 0))
      else
        let q := placed s1 { threadRequest s1 with
          kind := .cas, d := d, b := v, e := e, scope := osScope os, acq := osAcq os, rel := osRel os } l va 8
        .ok (retire (sendRequest (addL (touchHome (pendReg s1 d) l.key)) q))
    | _ => .ok (retire s))

/-- A matrix command reads memory by its load pipe (set mr of R280): operands, metadata or directory entries. -/
def MatOp.reads : MatOp → Bool
  | .mma | .s24 | .s48 | .mmag | .mrc | .mbs | .mss => true
  | .mclr | .mdrn => false

/-- A matrix command drains rows to memory (set mw): DRAIN of its snapshot, or `mdrn`; the accesses of its row handlers count as the
command's. `mclr` only writes accumulator tiles, which is no memory event (R326). -/
def MatCmd.writes (k : MatCmd) : Bool := k.op == .mdrn || (k.op.reads && bits (mapGet 0 k.regs 9) 4 3 != 0)

/-- The row handlers that still run or have accesses to be performed, of matrix commands of this thread (R326). -/
def handlerIds (s : State) (uid : Nat) : List Nat :=
  (liveThreads s).filterMap (fun p => if p.2.2.kind = .rowHandler ∧ p.2.2.member = uid then some p.2.2.uid else none)

/-- The matrix commands of a thread that have not completed and have accesses in mr or mw, where those are named. -/
def matrixIds (s : State) (uid : Nat) (rd wr : Bool) : List Nat :=
  let mine := fun (m : MatCmd) => m.uid == uid && ((rd && m.op.reads) || (wr && m.writes))
  (s.cores.flatMap (fun p => ((p.2.mq ++ p.2.drains).filter mine).map (·.id))) ++
    ((s.mesh.filter (fun m => mine m.2)).map (·.2.id)) ++
    ((s.gangs.filter (fun g => g.uid == uid && (rd || (wr && g.writes)))).map (·.id)) ++
    (if rd || wr then handlerIds s uid else [])

/-- An `ovl` of the thread is still reading its overlay (set cr). -/
def loadIds (s : State) (uid : Nat) : List Nat :=
  s.cores.flatMap (fun p => [p.2.im0, p.2.im1].filterMap (fun im =>
    if im.state = .loading ∧ im.loadBy = uid ∧ im.loadId ≠ 0 then some im.loadId else none))

/-- The engine commands of a thread that have not completed and have accesses in cr or cw, where those are named: copies, chains,
collectives and edge runs in both, overlay loads in cr, what output ports append in cw (R280). -/
def engineIds (s : State) (uid : Nat) (rd wr : Bool) : List Nat :=
  (if rd || wr then
    (s.cores.flatMap (fun p => (p.2.copies.filter (fun k => k.uid == uid)).map (·.id))) ++
      ((s.colls.filter (fun k => k.uid == uid)).map (·.id)) ++ ((s.runs.filter (fun k => k.uid == uid)).map (·.id))
   else []) ++
    (if rd then loadIds s uid else []) ++
    (if wr then (s.flights.filter (fun r =>
      r.uid == uid && (match r.kind with | .streamOut _ _ _ | .streamEnd _ _ _ => true | _ => false))).map (·.id) else [])

/-- The results that a thread's requests and commands still owe to output-bound names: each will append an element (R270, R287). -/
def lateAppends (s : State) (th : Thread) : List Nat :=
  let out := fun (d : RegNo) => d != 0 && th.ports.any (fun p => p.reg == d && p.output)
  let mine := fun (k : MatCmd) => k.uid == th.uid && k.op == .mrc && out k.d
  s.flights.filterMap (fun r =>
    if r.uid = th.uid ∧ out r.d = true ∧ (match r.kind with | .streamOut _ _ _ | .streamEnd _ _ _ => false | _ => true) = true then some r.id
    else none) ++
    (s.cores.flatMap (fun p => ((p.2.mq ++ p.2.drains).filter mine).map (·.id) ++
      [p.2.im0, p.2.im1].filterMap (fun im =>
        if im.state = .loading ∧ im.loadBy = th.uid ∧ (im.loadReg.any out) = true then some im.loadId else none))) ++
    (s.mesh.filter (fun m => mine m.2)).map (·.2.id)

/-- The events of a fence's predecessor set that are not performed yet (R296): reads until their values are bound, writes at
package or fabric scope until they are performed at their homes, and commands. Writes at a narrower scope get a shield instead. -/
def fenceBefore (s : State) (uid : Nat) (p : BitVec 6) (scope : Nat) : List Nat :=
  (s.flights.filterMap (fun r =>
    if r.uid = uid ∧ r.resp = none ∧ ((p.getLsbD 0 ∧ ReqKind.reads r.kind) ∨ (p.getLsbD 1 ∧ ReqKind.writes r.kind ∧ 4 ≤ scope))
    then some r.id else none)) ++
    engineIds s uid (p.getLsbD 2) (p.getLsbD 3) ++ matrixIds s uid (p.getLsbD 4) (p.getLsbD 5)

/-- Shield the requests that `which` picks toward the agents of a scope: from now on those find them performed (R282, R292). -/
def shieldAll (s : State) (scope : Nat) (which : Request → Bool) : State :=
  { s with flights := s.flights.map (fun r => if which r then { r with shields := r.shields ++ [(scope, s.nextId)] } else r)
           nextId := s.nextId + 1 }

/-- A fence's own writes that it does not wait for: at thread scope toward the thread's engine commands, else toward the agents of
its core, cluster or die. -/
def fenceShield (s : State) (uid : Nat) (p : BitVec 6) (scope : Nat) : State :=
  if p.getLsbD 1 && decide (scope < 4) then
    shieldAll s scope (fun r => r.uid == uid && ReqKind.writes r.kind && r.resp.isNone)
  else s

/-- `fen`: later instructions with an event in the successor set are held until the predecessor events are performed at its
scope; others issue past it (R295 to R297). With cw among the predecessors it waits for the elements too that results still owe to
output ports. An empty set makes it a no-op. -/
def execFen (pset sset : BitVec 6) (scope : Scope) (s : State) :=
  runBody s (do
    if pset = 0 ∨ sset = 0 then .ok (retire s)
    else
      if pset.getLsbD 1 then checkIndet (cur s) else .ok ()
      let late := if pset.getLsbD 3 then lateAppends s (cur s) else []
      let before := fenceBefore s (cur s).uid pset (scopeNum scope) ++ late
      let keep := (cur s).fences.filter (fun f => f.before.any (outstanding s))
      let s1 := fenceShield s (cur s).uid pset (scopeNum scope)
      .ok (retire (setCur s1 { cur s with fences := keep ++ [⟨before, sset, (cur s).pc, late⟩], touched := [] })))

/-- `wait` (R299, R300). -/
def execWait (lcnt scnt : BitVec 4) (ccnt : BitVec 5) (mcnt : BitVec 4) (s : State) :=
  runBody s (do
    let th := cur s
    if scnt.toNat < th.cntS then checkIndet th else .ok ()
    if th.cntL ≤ lcnt.toNat ∧ th.cntS ≤ scnt.toNat ∧ th.cntC ≤ ccnt.toNat ∧ th.cntM ≤ mcnt.toNat then .ok (retire s)
    else .error (.wait .waitReg))

/-- `bar`: it waits for L and S, raises what is pending, and sends its arrival; it stands at the instruction, waiting, until it is
released (R203). -/
def execBar (a : RegNo) (s : State) :=
  runBody s (do
    if atBarrier s (cur s) then .error (.wait .waitHome)
    else
      let r ← readOnlyForm s [a]
      checkHeld s 0b000011
      if 0 < (cur s).cntL ∨ 0 < (cur s).cntS then .error (.wait .waitReg) else .ok ()
      checkPending (cur s)
      let va := on1 id r.1
      if va.toNat % 8 ≠ 0 then .error (.trap 0x03 va) else .ok ()
      match resolve (setCur s r.2) s.core s.slot (cur s).ctx va 8 true true with
      | (.error true, _) => .error (.trap 0x05 va)
      | (.error false, _) => .error (.trap 0x06 va)
      | (.ok l, s1) =>
        if !(l.win == .localSp || l.win == .remoteSp || l.win == .urn) then .error (.trap 0x06 va)
        else
          checkSpec s
          if l.drop then .ok (retire (touchGuard s1 l))
          else
            let q := placed s1 { threadRequest s1 with kind := .bar, scope := l.win.defaultScope, rel := true } l va 8
            .ok (sendRequest (touchHome (setCur s1 { cur s1 with status := .ready }) l.key) q))

end Sys2Proof.Machine
end

