-- ==== Sys2Proof/Machine/Alu.lean ====
section
/-! DEFINITION. Integer and address arithmetic of majors 0x00 to 0x08 (R131 to R134). -/
namespace Sys2Proof.Machine

/-- A shift amount: the low six bits (R131). -/
def shAmt (y : Word) : Nat := y.toNat % 64

/-- Rotate left. -/
def rolWord (x : Word) (n : Nat) : Word := (x <<< (n % 64)) ||| (x >>> ((64 - n % 64) % 64))

/-- Saturate an exact integer to 64 bits (R108). -/
def satWord (signed : Bool) (v : Int) : Word := BitVec.ofInt 64 (satInt 64 signed v)

/-- The two readings of an immediate of 14 bits (R49). -/
def simm14 (i : BitVec 14) : Word := i.signExtend 64
def zimm14 (i : BitVec 14) : Word := i.zeroExtend 64

/-- `add` (R131). -/
def execAdd (d a b : RegNo) (s : State) := binary s d a b (fun x y => x + y)

/-- `sub` (R131). -/
def execSub (d a b : RegNo) (s : State) := binary s d a b (fun x y => x - y)

/-- `and` (R131). -/
def execAnd (d a b : RegNo) (s : State) := binary s d a b (fun x y => x &&& y)

/-- `or` (R131). -/
def execOr (d a b : RegNo) (s : State) := binary s d a b (fun x y => x ||| y)

/-- `xor` (R131). -/
def execXor (d a b : RegNo) (s : State) := binary s d a b (fun x y => x ^^^ y)

/-- `andn` (R131). -/
def execAndn (d a b : RegNo) (s : State) := binary s d a b (fun x y => x &&& ~~~y)

/-- `orn` (R131). -/
def execOrn (d a b : RegNo) (s : State) := binary s d a b (fun x y => x ||| ~~~y)

/-- `xnor` (R131). -/
def execXnor (d a b : RegNo) (s : State) := binary s d a b (fun x y => ~~~(x ^^^ y))

/-- `shl` (R131). -/
def execShl (d a b : RegNo) (s : State) := binary s d a b (fun x y => x <<< shAmt y)

/-- `shr` (R131). -/
def execShr (d a b : RegNo) (s : State) := binary s d a b (fun x y => x >>> shAmt y)

/-- `sar` (R131). -/
def execSar (d a b : RegNo) (s : State) := binary s d a b (fun x y => x.sshiftRight (shAmt y))

/-- `rol` (R131). -/
def execRol (d a b : RegNo) (s : State) := binary s d a b (fun x y => rolWord x (shAmt y))

/-- `ror` (R131). -/
def execRor (d a b : RegNo) (s : State) := binary s d a b (fun x y => rolWord x (64 - shAmt y))

/-- `slt` (R131). -/
def execSlt (d a b : RegNo) (s : State) := binary s d a b (fun x y => boolWord (x.slt y))

/-- `sltz` (R131). -/
def execSltz (d a b : RegNo) (s : State) := binary s d a b (fun x y => boolWord (x.ult y))

/-- `seq` (R131). -/
def execSeq (d a b : RegNo) (s : State) := binary s d a b (fun x y => boolWord (x == y))

/-- `sne` (R131). -/
def execSne (d a b : RegNo) (s : State) := binary s d a b (fun x y => boolWord (x != y))

/-- `min` (R131). -/
def execMin (d a b : RegNo) (s : State) := binary s d a b (fun x y => if x.slt y then x else y)

/-- `max` (R131). -/
def execMax (d a b : RegNo) (s : State) := binary s d a b (fun x y => if x.slt y then y else x)

/-- `minz` (R131). -/
def execMinz (d a b : RegNo) (s : State) := binary s d a b (fun x y => if x.ult y then x else y)

/-- `maxz` (R131). -/
def execMaxz (d a b : RegNo) (s : State) := binary s d a b (fun x y => if x.ult y then y else x)

/-- `qadd` (R131). -/
def execQadd (d a b : RegNo) (s : State) := binary s d a b (fun x y => satWord true (x.toInt + y.toInt))

/-- `qaddz` (R131). -/
def execQaddz (d a b : RegNo) (s : State) := binary s d a b (fun x y => satWord false ((x.toNat : Int) + y.toNat))

/-- `qsub` (R131). -/
def execQsub (d a b : RegNo) (s : State) := binary s d a b (fun x y => satWord true (x.toInt - y.toInt))

/-- `qsubz` (R131). -/
def execQsubz (d a b : RegNo) (s : State) := binary s d a b (fun x y => satWord false ((x.toNat : Int) - y.toNat))

/-- `abs` (R131). -/
def execAbs (d a : RegNo) (s : State) := unary s d a (fun x => if x.slt 0 then 0 - x else x)

/-- `sextI8` (R131). -/
def execSextI8 (d a : RegNo) (s : State) := unary s d a (fun x => sextWord 8 x)

/-- `sextI16` (R131). -/
def execSextI16 (d a : RegNo) (s : State) := unary s d a (fun x => sextWord 16 x)

/-- `sextI32` (R131). -/
def execSextI32 (d a : RegNo) (s : State) := unary s d a (fun x => sextWord 32 x)

/-- `zextZ8` (R131). -/
def execZextZ8 (d a : RegNo) (s : State) := unary s d a (fun x => zextWord 8 x)

/-- `zextZ16` (R131). -/
def execZextZ16 (d a : RegNo) (s : State) := unary s d a (fun x => zextWord 16 x)

/-- `zextZ32` (R131). -/
def execZextZ32 (d a : RegNo) (s : State) := unary s d a (fun x => zextWord 32 x)

/-- `addi` (R131). -/
def execAddi (d a : RegNo) (imm : BitVec 14) (s : State) := unary s d a (fun x => x + simm14 imm)

/-- `andi` (R131). -/
def execAndi (d a : RegNo) (imm : BitVec 14) (s : State) := unary s d a (fun x => x &&& zimm14 imm)

/-- `ori` (R131). -/
def execOri (d a : RegNo) (imm : BitVec 14) (s : State) := unary s d a (fun x => x ||| zimm14 imm)

/-- `xori` (R131). -/
def execXori (d a : RegNo) (imm : BitVec 14) (s : State) := unary s d a (fun x => x ^^^ zimm14 imm)

/-- `slti` (R131). -/
def execSlti (d a : RegNo) (imm : BitVec 14) (s : State) := unary s d a (fun x => boolWord (x.slt (simm14 imm)))

/-- `shli` (R131, R132). -/
def execShli (d a : RegNo) (n : BitVec 6) (s : State) := unary s d a (fun x => x <<< n.toNat)

/-- `shri` (R131, R132). -/
def execShri (d a : RegNo) (n : BitVec 6) (s : State) := unary s d a (fun x => x >>> n.toNat)

/-- `sari` (R131, R132). -/
def execSari (d a : RegNo) (n : BitVec 6) (s : State) := unary s d a (fun x => x.sshiftRight n.toNat)

/-- `rori` (R131, R132). -/
def execRori (d a : RegNo) (n : BitVec 6) (s : State) := unary s d a (fun x => rolWord x (64 - n.toNat))

/-- `lih`: the 20-bit immediate in bits 33:14, sign-extended (R133). -/
def execLih (d : RegNo) (imm : BitVec 20) (s : State) := nullary s d (fun _ => imm.signExtend 64 <<< 14)

/-- `pcadd`: a code address in the PC's overlay, imm words on (R134). -/
def execPcadd (d : RegNo) (imm : BitVec 20) (s : State) :=
  nullary s d (fun th => pcWord (pcOffset th.pc (imm.setWidth 16)))

end Sys2Proof.Machine
end

