-- ==== Sys2Proof/Machine/Crypto.lean ====
section
/-! DEFINITION. SHA-256 and ECDSA over P-256, which overlays, images and reports rest on (R276, R426, R429). -/
namespace Sys2Proof.Machine

/-! ### SHA-256 (FIPS 180-4) -/

/-- The integer k-th root of x, found from bit n - 1 down; r holds the bits above. -/
def rootFrom (k x : Nat) : Nat → Nat → Nat
  | 0, r => r
  | n + 1, r => if (r + 2 ^ n) ^ k ≤ x then rootFrom k x n (r + 2 ^ n) else rootFrom k x n r

/-- The first 32 bits of the fractional part of a number's k-th root. -/
def rootBits (k p : Nat) : BitVec 32 := BitVec.ofNat 32 (rootFrom k (p * 2 ^ (32 * k)) 35 0)

/-- The primes below n, n at most 361: no number from 2 to 18 divides them but themselves. -/
def primesBelow (n : Nat) : List Nat :=
  ((List.range n).drop 2).filter (fun p => ((List.range 19).drop 2).all (fun d => p % d != 0 || p == d))

/-- The round constants: of the cube roots of the first 64 primes. -/
def shaConst : List (BitVec 32) := (primesBelow 312).map (rootBits 3)

/-- The eight working words. -/
structure ShaState where
  a : BitVec 32
  b : BitVec 32
  c : BitVec 32
  d : BitVec 32
  e : BitVec 32
  f : BitVec 32
  g : BitVec 32
  h : BitVec 32

/-- The initial hash value: of the square roots of the first eight primes. -/
def shaInit : ShaState :=
  let w := fun (i : Nat) => ((primesBelow 20).map (rootBits 2)).getD i 0
  ⟨w 0, w 1, w 2, w 3, w 4, w 5, w 6, w 7⟩

/-- One round. -/
def shaRound (s : ShaState) (kw : BitVec 32 × BitVec 32) : ShaState :=
  let s1 := s.e.rotateRight 6 ^^^ s.e.rotateRight 11 ^^^ s.e.rotateRight 25
  let ch := (s.e &&& s.f) ^^^ (~~~s.e &&& s.g)
  let t1 := s.h + s1 + ch + kw.1 + kw.2
  let s0 := s.a.rotateRight 2 ^^^ s.a.rotateRight 13 ^^^ s.a.rotateRight 22
  let maj := (s.a &&& s.b) ^^^ (s.a &&& s.c) ^^^ (s.b &&& s.c)
  ⟨t1 + s0 + maj, s.a, s.b, s.c, s.d + t1, s.e, s.f, s.g⟩

/-- Extend the schedule by n words; the last sixteen stand newest first. -/
def shaExtend : Nat → List (BitVec 32) → List (BitVec 32)
  | 0, w => w
  | n + 1, w =>
    let x15 := w.getD 14 0
    let x2 := w.getD 1 0
    let s0 := x15.rotateRight 7 ^^^ x15.rotateRight 18 ^^^ x15 >>> 3
    let s1 := x2.rotateRight 17 ^^^ x2.rotateRight 19 ^^^ x2 >>> 10
    shaExtend n ((w.getD 15 0 + s0 + w.getD 6 0 + s1) :: w)

/-- A big-endian number of bytes. -/
def beValue (bs : List Byte) : Nat := bs.foldl (fun a b => a * 256 + b.toNat) 0

/-- The n bytes of a number, most significant first. -/
def beBytes (n v : Nat) : List Byte := (leBytes n v).reverse

/-- The sixteen words of a 64-byte block. -/
def shaWords : Nat → List Byte → List (BitVec 32)
  | 0, _ => []
  | n + 1, bs => BitVec.ofNat 32 (beValue (bs.take 4)) :: shaWords n (bs.drop 4)

/-- Compress one block. -/
def shaBlock (s : ShaState) (bs : List Byte) : ShaState :=
  let w := (shaExtend 48 (shaWords 16 bs).reverse).reverse
  let r := (shaConst.zip w).foldl shaRound s
  ⟨s.a + r.a, s.b + r.b, s.c + r.c, s.d + r.d, s.e + r.e, s.f + r.f, s.g + r.g, s.h + r.h⟩

/-- Compress n blocks. -/
def shaBlocks : Nat → ShaState → List Byte → ShaState
  | 0, s, _ => s
  | n + 1, s, bs => shaBlocks n (shaBlock s (bs.take 64)) (bs.drop 64)

/-- The padded message. -/
def shaPad (m : List Byte) : List Byte :=
  m ++ [(0x80 : Byte)] ++ List.replicate ((119 - m.length % 64) % 64) (0 : Byte) ++ beBytes 8 (8 * m.length)

/-- SHA-256 of a message, as a big-endian number. -/
def sha256 (m : List Byte) : Nat :=
  let p := shaPad m
  let s := shaBlocks (p.length / 64) shaInit p
  [s.a, s.b, s.c, s.d, s.e, s.f, s.g, s.h].foldl (fun acc x => acc * 2 ^ 32 + x.toNat) 0

/-! ### ECDSA over P-256 (FIPS 186) -/

/-- The field prime, the group order, and the curve's constants. -/
def p256 : Nat := 0xffffffff00000001000000000000000000000000ffffffffffffffffffffffff
def p256Order : Nat := 0xffffffff00000000ffffffffffffffffbce6faada7179e84f3b9cac2fc632551
def p256B : Nat := 0x5ac635d8aa3a93e7b3ebbd55769886bc651d06b0cc53b0f63bce3c3e27d2604b
def p256Gx : Nat := 0x6b17d1f2e12c4247f8bce6e563a440f277037d812deb33a0f4a13945d898c296
def p256Gy : Nat := 0x4fe342e2fe1a7f9b8ee7eb4a7c0f9e162bce33576b315ececbb6406837bf51f5

/-- x^e modulo m over the n low bits of e, from the top. -/
def powMod (m x e : Nat) : Nat → Nat
  | 0 => 1 % m
  | n + 1 =>
    let r := powMod m x (e / 2) n
    if e % 2 = 1 then r * r % m * x % m else r * r % m

/-- The inverse modulo a prime. -/
def invMod (m x : Nat) : Nat := powMod m x (m - 2) 256

/-- A point, none for the point at infinity. -/
abbrev EcPoint := Option (Nat × Nat)

/-- Addition on the curve. -/
def ecAdd (a b : EcPoint) : EcPoint :=
  match a, b with
  | none, q => q
  | q, none => q
  | some (x1, y1), some (x2, y2) =>
    if x1 = x2 ∧ (y1 + y2) % p256 = 0 then none
    else
      let l :=
        if x1 = x2 then (3 * x1 * x1 + (p256 - 3)) * invMod p256 (2 * y1 % p256) % p256
        else (y2 + p256 - y1) * invMod p256 ((x2 + p256 - x1) % p256) % p256
      let x3 := (l * l + 2 * p256 - x1 - x2) % p256
      some (x3, (l * (x1 + p256 - x3) + p256 - y1) % p256)

/-- k·P over the n low bits of k. -/
def ecMul (k : Nat) (p : EcPoint) : Nat → EcPoint
  | 0 => none
  | n + 1 =>
    let r := ecMul (k / 2) p n
    let d := ecAdd r r
    if k % 2 = 1 then ecAdd d p else d

/-- The point is on the curve. -/
def ecOnCurve (x y : Nat) : Bool :=
  decide (x < p256 ∧ y < p256 ∧ y * y % p256 = (x * x * x + (p256 - 3) * x + p256B) % p256)

/-- Verify a signature (r, s) of a digest by the public key (x, y). -/
def ecdsaVerify (x y r s digest : Nat) : Bool :=
  if ecOnCurve x y && decide (0 < r ∧ r < p256Order ∧ 0 < s ∧ s < p256Order) then
    let w := invMod p256Order s
    let u1 := digest % p256Order * w % p256Order
    let u2 := r * w % p256Order
    match ecAdd (ecMul u1 (some (p256Gx, p256Gy)) 256) (ecMul u2 (some (x, y)) 256) with
    | none => false
    | some q => q.1 % p256Order == r
  else false

end Sys2Proof.Machine
end

