-- ==== Sys2Proof/Machine/Engine.lean ====
section
/-! DEFINITION. What every engine shares (15): accesses that translate and fail as an engine's do, descriptors and shape
records read at issue, the places of a record's elements, and words that become full (R255 to R259). -/
namespace Sys2Proof.Machine

/-! ### Engine accesses

An engine step runs as a function of the state that may fail with a cause and a virtual address; cause 0 stands for an access
that cannot be performed now (a request parked at its home, R412; an access that a shield puts behind another, R292). -/

/-- A step of an engine. -/
abbrev Eng (α : Type) := StateT State (Except (Nat × Word)) α

/-- The step fails. -/
def engFail {α : Type} (cause : Nat) (va : Word) : Eng α := fun _ => .error (cause, va)

/-- Whose access it is: the core, slot and thread it translates for, the code of R445 for its guard touches, the number of the
command, and the issuing thread's core, on which the command acts (R280). -/
structure Agent where
  core : Nat
  slot : Nat
  uid  : Nat
  ctx  : Nat
  pc   : CodeAddr
  kind : Nat
  id   : Nat
  acts : Nat

/-- The state once the sources of an instruction are read: the elements that `th2` has taken from its ports are gone. -/
def takePorts (s : State) (th2 : Thread) : State := setCur s { cur s with ports := th2.ports }

/-- Change the thread of this number, in whatever slot it stands, or spilled beneath a fold. -/
def onUid (s : State) (uid : Nat) (f : Thread → Thread) : State :=
  match (liveThreads s).find? (fun p => p.2.2.uid == uid) with
  | some p => putThread s p.1 p.2.1 (f p.2.2)
  | none => { s with spilled := s.spilled.map (fun p => (p.1, if p.2.uid = uid then f p.2 else p.2)) }

/-- Record a guard touch of an engine for the issuing thread (R254). -/
def engTouch (ag : Agent) (l : Loc) : Eng Unit := fun s =>
  .ok ((), onUid s ag.uid (fun th => recordGuard th l.key l.logical ag.kind l.remote ag.pc))

/-- A pending access of another agent that a release or fence of a scope holding both puts before what this agent does (R282,
R288, R292). An access with number `id` was issued after the release or fence where `id` is not below the shield's number; `own`
says that the agent is the thread itself, whose accesses R284 orders. -/
def shielded (s : State) (core uid id : Nat) (own : Bool) (ranges : List (Nat × Nat)) (wr : Bool) : Bool :=
  s.flights.any (fun q =>
    q.shields.any (fun x => decide (x.2 ≤ id) && ((!own && q.uid == uid) || sharesScope s q.ctx x.1 q.core core)) &&
      !(own && q.uid == uid) && q.resp.isNone && (wr || ReqKind.writes q.kind) &&
      (requestRanges s q).any (fun x => ranges.any (fun y => decide (x.1 < y.1 + y.2 ∧ y.1 < x.1 + x.2))))

/-- The entry of an engine's access in its home's fault queue (R412). -/
def parkedEntry (s : State) (ag : Agent) (va : Word) : Option Request :=
  s.flights.find? (fun r => r.kind == .engine ag.id && r.uid == ag.uid && r.va == va)

/-- Requests parked at a home. -/
def parkedAt (s : State) (h : Nat) : Nat := (s.flights.filter (fun r => r.parked && homeOf r.key == h)).length

/-- The command behind an engine's entry in a fault queue is still under way, so that its access will be made. -/
def engineStands (s : State) (id : Nat) : Bool :=
  outstanding s id || s.threads.any (fun p => p.2.ports.any (fun x => x.id == id)) ||
    s.flights.any (fun r => match r.kind with | .streamOut j _ _ | .streamEnd j _ _ => j == id | _ => false)

/-- A replayed request that is still to be performed: an access of a thread, or of an engine command that is under way. -/
def replayDue (s : State) (q : Request) : Bool :=
  q.replayed && q.resp.isNone && (match q.kind with | .engine id => engineStands s id | _ => true)

/-- The replayed requests of a home are performed in the order in which they arrived in its queue (R412). -/
def replayTurn (s : State) (r : Request) : Bool :=
  !r.replayed || s.flights.all (fun q => !(replayDue s q && homeOf q.key == homeOf r.key && decide (q.turn < r.turn)))

/-- Where an engine's access goes. -/
structure EngLoc where
  loc  : Loc
  /-- the kernel has discarded the access (R412) -/
  lost : Bool

/-- Resolve an engine's address: 0x04 or 0x05 for a failed translation, 0x06 for a refused one or the register window, 0x15
for the scratchpad of a sealed core (R408), 0 while the access is parked (R412) or stands behind a shield. -/
def engFind (ag : Agent) (va : Word) (n : Nat) (rd wr : Bool) : Eng EngLoc := fun s =>
  match resolve s ag.core ag.slot ag.ctx va n rd wr with
  | (.error true, _) => .error (if wr then 0x05 else 0x04, va)
  | (.error false, _) => .error (0x06, va)
  | (.ok l, s1) =>
    if l.win = .regWin ∨ l.win = .reduce then .error (0x06, va)
    else if l.win = .remoteSp ∧ (getCore s ((l.key - 2 ^ 48) / 2 ^ 21)).sealed = true then .error (0x15, va)
    else
      let blocked := homeFaults s ag.ctx l.key || shielded s ag.acts ag.uid ag.id false [(l.key, n)] wr
      let here := { l with key := (localKey s ag.ctx l.key).getD l.key }
      match parkedEntry s ag va with
      | some q =>
        let s2 := { s1 with flights := s1.flights.filter (fun r => r.id != q.id) }
        if q.resp.isSome then .ok (⟨l, true⟩, s2)
        else if q.parked || blocked || !replayTurn s q then .error (0, va)
        else .ok (⟨here, false⟩, s2)
      | none => if blocked then .error (0, va) else .ok (⟨here, false⟩, s1)

/-- The place alone. -/
def engPlace (ag : Agent) (va : Word) (n : Nat) (rd wr : Bool) : Eng Loc := do
  let x ← engFind ag va n rd wr
  pure x.loc

/-- An engine's access that its home cannot perform joins the home's fault queue of 256 entries, and the kernel is told (R412);
one that only waits does not. -/
def engPark (s : State) (ag : Agent) (va : Word) : State :=
  match (resolve s ag.core ag.slot ag.ctx va 1 false false).1 with
  | .error _ => s
  | .ok l =>
    if homeFaults s ag.ctx l.key && (parkedEntry s ag va).isNone && decide (parkedAt s (homeOf l.key) < 256) then
      let q := { Request.zero with
        core := ag.core, slot := ag.slot, uid := ag.uid, ctx := ag.ctx, pc := ag.pc, kind := .engine ag.id, va := va, key := l.key
        parked := true, turn := s.nextId }
      tellKernel (sendRequest s q) 1 s.nextId
    else s

/-- A step of an engine that does without what fails for good; what can be performed later still holds it up. -/
def engSkip (m : Eng Unit) : Eng Unit := fun s =>
  match m s with
  | .error (0, va) => .error (0, va)
  | .error _ => .ok ((), s)
  | x => x

/-- A write-type access of an engine that the kernel has discarded ends as indeterminate for the issuing thread (R173, R412); a
collective never traps its thread (R422). -/
def engLost (ag : Agent) (va : Word) : Eng Unit := fun s =>
  if s.colls.any (fun k => k.id == ag.id) then .ok ((), s)
  else .ok ((), onUid s ag.uid (fun th => queueLost th ⟨0x14, va, ag.pc, none⟩))

/-- A write of a command that a task has issued is tracked where it is performed: a task of a later key that has read the line aborts
(R348, R351). -/
def engTrack (ag : Agent) (l : Loc) (va : Word) (n : Nat) : Eng Unit := fun s =>
  match s.tasks.find? (fun x => x.uid == ag.uid && ag.uid != 0) with
  | some x => .ok ((), if trackedWin l.win then trackAccess s x.id va.toNat n true else s)
  | none => .ok ((), s)

/-- The location's bytes belong to another device: this model holds none of them. -/
def Loc.away (l : Loc) : Bool := l.win == .unicast || l.win == .multicast || l.win == .reduce

/-- Free values for n bytes read from another device (log 9). -/
def engFree (n : Nat) : Eng Nat := fun s => .ok (freeBytes s n)

/-- Read n bytes: the value, and whether the word or line holds an uncorrectable error, or the kernel has discarded the read
(R412). A granule reads zero (R253). -/
def engRead (ag : Agent) (va : Word) (n : Nat) : Eng (Nat × Bool) := do
  let x ← engFind ag va n true false
  let l := x.loc
  if l.win = .multicast then engFail 0x06 va
  else if x.lost then pure (0, true)
  else if l.drop then do
    engTouch ag l
    pure (0, false)
  else if l.away then do
    let v ← engFree n
    pure (v, false)
  else do
    let s ← get
    let v ← (fun s => .ok (openRead s l.key n (peek s l.key n)) : Eng Nat)
    pure (v, rangeMarked s l.key n)

/-- Read n bytes; an uncorrectable error fails with 0x0A. -/
def engReadClean (ag : Agent) (va : Word) (n : Nat) : Eng Nat := do
  let r ← engRead ag va n
  if r.2 then engFail 0x0A va else pure r.1

/-- Write n bytes; a granule discards them (R253); the command is an agent of its own, so the thread's watches fire too (R273). Multicast members of this device are reached as R418 states. -/
def engWrite (ag : Agent) (va : Word) (n v : Nat) : Eng Unit := do
  let x ← engFind ag va n false true
  let l := x.loc
  if x.lost then engLost ag va
  else if l.drop then engTouch ag l
  else if l.away then pure ()
  else do
    engTrack ag l va n
    modify (fun s => storeAt s l.key n v 0)

/-- Run an engine step: what it fails with, or the next state. -/
def runEng (s : State) (m : Eng Unit) : Except (Nat × Word) State :=
  match m s with
  | .ok r => .ok r.2
  | .error e => .error e

/-- A step that is performed only when its accesses succeed; one that meets a fault at a home parks there. -/
def whenOk (s : State) (ag : Agent) (m : Eng Unit) : Host.Outcome State Fault Refusal :=
  match runEng s m with
  | .ok s1 => .next s1
  | .error (0, va) => .next (engPark s ag va)
  | .error _ => .next s

/-! ### Descriptors read at issue -/

/-- A byte range cut at the page boundary that it crosses. -/
def pageCut (va : Word) (n : Nat) : List (Word × Nat) :=
  let m := 2 ^ 16 - va.toNat % 2 ^ 16
  if n ≤ m then [(va, n)] else [(va, m), (va + word m, n - m)]

/-- One range of a descriptor, within a page. -/
def descPiece (s : State) (va : Word) (n deny : Nat) : Except Stop (Nat × State) :=
  match resolve s s.core s.slot (cur s).ctx va n true false with
  | (.error true, _) => .error (.trap 0x04 va)
  | (.error false, _) => .error (.trap deny va)
  | (.ok l, s1) =>
    let s1 := touchHome s1 l.key
    if l.win = .regWin ∨ l.win = .multicast ∨ l.win = .reduce then .error (.trap deny va)
    else if l.drop then .ok (0, touchGuard s1 l)
    else if homeFaults s1 (cur s).ctx l.key || writesOwed s1 l.key n ||
        shielded s1 s.core (cur s).uid s.nextId true [(l.key, n)] false then .error (.wait .waitHome)
    else if l.away then
      match engFree n s1 with
      | .ok r => .ok r
      | .error _ => .ok (0, s1)
    else
      let k := movedKey s1 l.key
      if (List.range n).any (fun i => isMarked s1 (k + i)) then .error (.trap (if deny = 0x04 then 0x04 else 0x0A) va)
      else
        match specTask s1 (cur s1) with
        | some x => .ok (taskRead s1 x.id k n, specTrack s1 l.win va n false)
        | none => .ok (openRead s1 k n (peek s1 k n))

/-- The ranges of a descriptor, one after another. -/
def descPieces (deny : Nat) (s : State) : List (Word × Nat) → Except Stop (Nat × State)
  | [] => .ok (0, s)
  | (va, n) :: r => do
    let x ← descPiece s va n deny
    let y ← descPieces deny x.2 r
    .ok (x.1 + y.1 * 2 ^ (8 * n), y.2)

/-- A descriptor of n bytes, read by the instruction: its little-endian value; each page of it is translated for itself. An
unreadable one raises 0x04, a refused one `deny`; a word with an uncorrectable error raises `deny` where that is 0x04, else 0x0A.
Bytes of another device are free; a speculative task sees its own buffered bytes. The thread's own earlier writes to these bytes
are performed first (R284); the read waits while its home cannot serve it (R412). -/
def descRead (s : State) (va : Word) (n deny : Nat) : Except Stop (Nat × State) := descPieces deny s (pageCut va n)

/-- A 64-bit field of a descriptor's value. -/
def fieldAt (d off n : Nat) : Nat := d / 2 ^ (8 * off) % 2 ^ (8 * n)

/-- A 64-bit word of a descriptor's value. -/
def wordAt (d off : Nat) : Word := word (fieldAt d off 8)

/-- A signed 64-bit field. -/
def intAt (d off : Nat) : Int := toSigned 64 (fieldAt d off 8)

/-- The fields of a thread header (R176). -/
def headerOf (addr d : Nat) : Header :=
  { addr := addr, entry := BitVec.ofNat 32 (fieldAt d 0 4), g := fieldAt d 4 1, s := fieldAt d 5 1, l := fieldAt d 6 1,
    tiles := fieldAt d 7 1, flags := BitVec.ofNat 16 (fieldAt d 8 2), stack := fieldAt d 12 4 }

/-- The header is well formed (R177). -/
def headerOk (d : Nat) : Bool :=
  decide (fieldAt d 4 1 + 2 * fieldAt d 5 1 + fieldAt d 6 1 ≤ 63 ∧ fieldAt d 7 1 ≤ 16 ∧ fieldAt d 12 4 % 64 = 0 ∧
    fieldAt d 12 4 ≤ 16384 ∧ fieldAt d 0 1 % 4 = 0 ∧ fieldAt d 8 2 / 8 = 0 ∧ fieldAt d 10 2 = 0 ∧ fieldAt d 16 48 = 0)

/-- Header flags of R176. -/
def Header.restartable (h : Header) : Bool := h.flags.getLsbD 0
def Header.shapeRestart (h : Header) : Bool := h.flags.getLsbD 1
def Header.foldCapable (h : Header) : Bool := h.flags.getLsbD 2

/-! ### Shape records (R257 to R259) -/

/-- The fields of a record. -/
def shapeRecOf (addr : Word) (d : Nat) : ShapeRec :=
  { addr := addr, base := wordAt d 0, fmt := fieldAt d 8 1 % 32, scale := fieldAt d 9 1, swz := fieldAt d 10 1,
    rank := fieldAt d 11 1, ext := (List.range 4).map (fun i => fieldAt d (12 + 4 * i) 4),
    str := (List.range 4).map (fun i => wordAt d (28 + 8 * i)) }

/-- The record's format. -/
def ShapeRec.format (r : ShapeRec) : Fmt := (Fmt.ofCode (BitVec.ofNat 5 r.fmt)).getD .i8

/-- Extent and signed stride of a dimension. -/
def ShapeRec.extent (r : ShapeRec) (d : Nat) : Nat := r.ext.getD d 0
def ShapeRec.stride (r : ShapeRec) (d : Nat) : Word := r.str.getD d 0

/-- A format whose elements are packed along dimension 0. -/
def fmtPacked (f : Fmt) : Bool := f.isNibble || f.isSix

/-- The span of the dimensions inside dimension d (R259, code 0x08). -/
def spanBelow (r : ShapeRec) (d : Nat) : Nat :=
  let f := r.format
  match d with
  | 0 => elemBytes f
  | 1 =>
    if f.isNibble then (r.extent 0 + 1) / 2
    else if f.isSix then 24 * r.extent 0 / 32
    else r.extent 0 * (r.stride 0).toInt.natAbs
  | k => r.extent (k - 1) * (r.stride (k - 1)).toInt.natAbs

/-- The first failing field of a record: the codes of R259 in their order, 0 for none. `d` is the record's value; `accept`
says whether the command takes it. -/
def recordFault (d : Nat) (r : ShapeRec) (dst : Bool) (accept : ShapeRec → Bool) : Nat :=
  let f := r.format
  let dims := List.range (if r.rank < 4 then r.rank else 4)
  let above := (List.range 4).filter (fun i => decide (r.rank ≤ i))
  if fieldAt d 60 4 ≠ 0 ∨ fieldAt d 8 1 / 32 ≠ 0 ∨ above.any (fun i => r.extent i != 0 || r.stride i != 0) then 0x09
  else if r.rank = 0 ∨ 4 < r.rank then 0x05
  else if 0x13 ≤ r.fmt then 0x02
  else if r.scale ≠ 0 ∧ r.scale ≠ 5 then 0x03
  else if 3 < r.swz then 0x04
  else if (f.isSix && decide (r.base.toNat % 8 ≠ 0)) || (!fmtPacked f && decide (r.base.toNat % elemBytes f ≠ 0)) then 0x01
  else if (!fmtPacked f && dims.any (fun i => decide ((r.stride i).toNat % elemBytes f ≠ 0))) ||
      (fmtPacked f && r.stride 0 != 0) ||
      (f.isSix && dims.any (fun i => decide (0 < i ∧ (r.stride i).toNat % 8 ≠ 0))) then 0x07
  else if (f.isSix || r.scale == 5) && decide (r.extent 0 % 32 ≠ 0) then 0x06
  else if dst && dims.any (fun i => decide (1 < r.extent i) && !(fmtPacked f && i == 0) &&
      decide ((r.stride i).toInt.natAbs < spanBelow r i)) then 0x08
  else if !accept r then 0x0A
  else 0

/-- Report what a command's checks have found: FADDR and e21, with KIND and RECORD, then the cause (R258, R259). -/
def recordTrap {α : Type} (s : State) (cause field record kind : Nat) (faddr : Word) : Except Stop α :=
  let th := cur s
  .error (.trapAs { th with
    eng := mapSet 0 (mapSet 0 th.eng 20 faddr) 21 (word (cause + field * 2 ^ 8 + record * 2 ^ 16 + kind * 2 ^ 18)) } cause faddr)

/-- A failed check of a record's fields: cause 0x08 (R259). -/
def checkFault {α : Type} (s : State) (field record kind : Nat) (faddr : Word) : Except Stop α :=
  recordTrap s 0x08 field record kind faddr

/-- Read and check one record (R259). -/
def readRecord (s : State) (a : Word) (record kind : Nat) (dst : Bool) (accept : ShapeRec → Bool) :
    Except Stop (ShapeRec × State) := do
  if a.toNat % 64 ≠ 0 then recordTrap s 0x03 0 record kind a else .ok ()
  let (d, s1) ← match descRead s a 64 0x04 with
    | .error (.trap c _) => recordTrap s c 0 record kind a
    | x => x
  let r := shapeRecOf a d
  let f := recordFault d r dst accept
  if f = 0 then .ok (r, s1) else checkFault s1 f record kind a

/-! ### Elements of a record -/

/-- The indices of element i, dimension 0 first. -/
def elemIndices (r : ShapeRec) (i : Nat) : List Nat :=
  ((List.range r.rank).foldl (fun (acc : List Nat × Nat) d =>
    if d + 1 = r.rank then (acc.1 ++ [acc.2], 0) else (acc.1 ++ [acc.2 % r.extent d], acc.2 / r.extent d)) ([], i)).1

/-- The swizzle of an offset (R258). -/
def swizzle (m : Nat) (o : Word) : Word :=
  match m with
  | 1 => o ^^^ word (o.toNat / 128 % 8 * 16)
  | 2 => o ^^^ word (o.toNat / 128 % 4 * 32)
  | 3 => o ^^^ word (o.toNat / 128 % 2 * 64)
  | _ => o

/-- A piece of an element in memory: its address, bytes, and how its bits lie there: 0 whole bytes, 1 and 2 the low and high
nibble of a byte, 3 + j the pair j of bits of a high-plane byte. -/
structure Piece where
  va  : Word
  n   : Nat
  how : Nat

/-- Where element i of a record lies (R99, R100, R257, R258). -/
def elemPieces (r : ShapeRec) (i : Nat) : List Piece :=
  let f := r.format
  let ix := elemIndices r i
  let off := ((List.range r.rank).map (fun d => word (ix.getD d 0) * r.stride d)).foldl (· + ·) 0
  let at_ := fun (o : Word) => r.base + swizzle r.swz (off + o)
  let i0 := ix.getD 0 0
  if f.isNibble then [⟨at_ (word (i0 / 2)), 1, 1 + i0 % 2⟩]
  else if f.isSix then
    let b := word (24 * (i0 / 32))
    let j := i0 % 32
    [⟨at_ (b + word (j / 2)), 1, 1 + j % 2⟩, ⟨at_ (b + word (16 + j / 4)), 1, 3 + j % 4⟩]
  else [⟨at_ 0, elemBytes f, 0⟩]

/-- The bits of an element that a piece's bytes hold. -/
def pieceBits (p : Piece) (v : Nat) : Nat :=
  match p.how with
  | 0 => v
  | 1 => v % 16
  | 2 => v / 16 % 16
  | j => v / 4 ^ (j - 3) % 4 * 16

/-- A piece's bytes with an element's bits put in. -/
def pieceWith (p : Piece) (old v : Nat) : Nat :=
  match p.how with
  | 0 => v
  | 1 => old / 16 * 16 + v % 16
  | 2 => old % 16 + v % 16 * 16
  | j => old - old / 4 ^ (j - 3) % 4 * 4 ^ (j - 3) + v / 16 % 4 * 4 ^ (j - 3)

/-- Read element i: its bits, and whether it holds an uncorrectable error. -/
def readElem (ag : Agent) (r : ShapeRec) (i : Nat) : Eng (Nat × Bool) :=
  (elemPieces r i).foldlM (fun (acc : Nat × Bool) p => do
    let x ← engRead ag p.va p.n
    pure (acc.1 + pieceBits p x.1, acc.2 || x.2)) (0, false)

/-- The aligned words an element touches, by virtual address. -/
def elemWords (r : ShapeRec) (i : Nat) : List Nat :=
  ((elemPieces r i).map (fun p => p.va.toNat / 8)).eraseDups

/-- The elements of a record that lie on an aligned word or 64-byte line (unit u bytes, number k), of `count`. -/
def elemsOn (r : ShapeRec) (count u k : Nat) : List Nat :=
  (List.range count).filter (fun i => (elemPieces r i).any (fun p => p.va.toNat / u == k))

/-- The elements first to count - 1 of the record cover every byte of a unit. -/
def unitCovered (r : ShapeRec) (first count u k : Nat) : Bool :=
  (List.range u).all (fun b => ((List.range count).drop first).any (fun i => (elemPieces r i).any (fun p =>
    decide (p.va.toNat ≤ k * u + b ∧ k * u + b < p.va.toNat + p.n))))

/-- Write one piece. A marked word or line takes the write only where the whole command covers it; its mark goes with the
last of the elements on it (R405). The command writes elements first to count - 1; `isDone` says which elements are performed
without error once this one is. -/
def writePiece (ag : Agent) (r : ShapeRec) (first count : Nat) (isDone : Nat → Bool) (v : Nat) (p : Piece) : Eng Unit := do
  let x ← engFind ag p.va p.n false true
  let l := x.loc
  if x.lost then engLost ag p.va
  else if l.drop then engTouch ag l
  else if l.away then pure ()
  else do
    engTrack ag l p.va p.n
    modify (fun s =>
      let new := pieceWith p (peek s l.key p.n) v
      if isMarked s l.key then
        let u := markSize l.key
        let k := p.va.toNat / u
        if unitCovered r first count u k then
          let s1 := fireWatches { s with mem := memWrite s.mem l.key p.n new } l.key p.n 0
          if (elemsOn r count u k).all isDone then clearMark s1 l.key else s1
        else s
      else storeAt s l.key p.n new 0)

/-- Fill the words of an element whose last byte of the command is now performed (R255). -/
def fillWords (ag : Agent) (r : ShapeRec) (count : Nat) (isDone : Nat → Bool) (i : Nat) : Eng Unit :=
  (elemWords r i).forM (fun k =>
    if (elemsOn r count 8 k).all isDone then do
      let l ← engPlace ag (word (8 * k)) 8 false true
      if l.drop || l.away then pure () else modify (fun s => if keyHasState l.key then fillWord s l.key else s)
    else pure ())

/-- Write element i of a command's destination and fill its words. -/
def writeElem (ag : Agent) (r : ShapeRec) (count : Nat) (isDone : Nat → Bool) (i v : Nat) : Eng Unit := do
  (elemPieces r i).forM (writePiece ag r 0 count isDone v)
  fillWords ag r count isDone i

/-- Mark the destination words or lines of an element whose source held an error; host memory fails with 0x0A (R405). -/
def markElem (ag : Agent) (r : ShapeRec) (i : Nat) : Eng Unit :=
  (elemPieces r i).forM (fun p => do
    let l ← engPlace ag p.va p.n false true
    if l.win = .host then engFail 0x0A p.va
    else if l.drop || l.away then pure ()
    else do
      engTrack ag l p.va p.n
      modify (fun s => setMark s l.key))

/-- Empty a destination word (PREEMPTY, R255); one that no access can reach is left to the write that will fail. -/
def emptyWord (ag : Agent) (k : Nat) : Eng Unit :=
  engSkip (do
    let l ← engPlace ag (word (8 * k)) 8 false true
    if l.drop || l.away then pure () else modify (fun s => setEmpty s l.key))

/-- The words of a command's destination, by virtual address. -/
def recWords (r : ShapeRec) : List Nat := ((List.range (recCount r)).flatMap (elemWords r)).eraseDups

/-- Empty every destination word that carries state (PREEMPTY, R255, R262). -/
def emptyWords (ag : Agent) (r : ShapeRec) : Eng Unit := (recWords r).forM (emptyWord ag)

/-! ### Places of threads (R183, R447) -/

/-- A place: hardware level 0 to 5, index, family scope, and the logical level that names it (R371). -/
structure Place where
  level : Nat
  index : Nat
  scope : Nat
  lvl   : Nat
deriving DecidableEq, Repr

/-- The place of the launch a core belongs to, the package for a core of no launch. -/
def launchPlace (s : State) (c : Nat) : Place :=
  match coreLaunch s c with
  | some l => ⟨l.level, l.index, levelScope l.level, l.level⟩
  | none => ⟨5, 0, levelScope 5, 5⟩

/-- What a launch binds logical level j to: a hardware level and a scope (R371). -/
def boundLevel (binds : List Nat) (j : Nat) : Nat × Nat :=
  let e := binds.getD j 0
  if e % 16 = 0 then (j, levelScope j) else (e % 16 - 1, e / 16 % 8)

/-- The bindings in force on a core. -/
def coreBinds (s : State) (c : Nat) : List Nat := match coreLaunch s c with | some l => l.binds | none => []

/-- The place of a thread that is no row handler. -/
def basePlace (s : State) (c : Nat) (th : Thread) : Place :=
  match th.kind with
  | .member => match getFam s th.fam with | some f => ⟨f.place, f.index, f.scope, f.lvl⟩ | none => launchPlace s c
  | .task =>
    match s.tasks.find? (fun x => x.id == th.work) with
    | some x => ⟨x.place, x.index, x.scope, x.lvl⟩
    | none => launchPlace s c
  | .edgeHandler =>
    match s.runs.find? (fun r => r.id == th.work) with
    | some r => ⟨r.place, r.index, r.scope, r.lvl⟩
    | none => launchPlace s c
  | .rowHandler | .trapHandler => launchPlace s c
  | .kernel => ⟨5, 0, levelScope 5, 5⟩

/-- The place of a thread (R447): a row handler has its issuer's, which may stand spilled beneath a fold (R193). -/
def threadPlace (s : State) (c : Nat) (th : Thread) : Place :=
  match th.kind with
  | .rowHandler =>
    match getFam s th.fam with
    | some f => ⟨f.place, f.index, f.scope, f.lvl⟩
    | none =>
      match (liveThreads s).find? (fun p => p.2.2.uid == th.member) with
      | some p => basePlace s p.1 p.2.2
      | none =>
        match s.spilled.find? (fun p => p.2.uid == th.member) with
        | some p => basePlace s c p.2
        | none => launchPlace s c
  | .member | .task | .edgeHandler | .trapHandler | .kernel => basePlace s c th

/-- The cores of a place as logical and physical numbers; L0 is the thread's own core (R182). -/
def coresOf (s : State) (ctx c : Nat) (p : Place) : List (Nat × Nat) := coresAt s ctx c p.level p.index

/-- An L0 place seen from elsewhere: its core (R182). -/
def corePlace (s : State) (c ctx : Nat) (p : Place) : Place := if p.level = 0 then ⟨1, logicalCore s ctx c, p.scope, p.lvl⟩ else p

/-! ### A thread's counters and engine registers, changed from outside -/

/-- Lower a counter of a thread. -/
def lowerC (s : State) (c t uid n : Nat) : State := onThread s c t uid (fun th => { th with cntC := th.cntC - n })
def lowerM (s : State) (c t uid : Nat) : State := onThread s c t uid (fun th => { th with cntM := th.cntM - 1 })

/-- Write an engine register of a thread. -/
def setEng (s : State) (c t uid e : Nat) (v : Word) : State := onThread s c t uid (fun th => { th with eng := mapSet 0 th.eng e v })

/-- Report an engine fault: FADDR and e21 (R265). -/
def reportEngine (s : State) (c t uid : Nat) (faddr : Word) (cause field record kind dropped : Nat) : State :=
  setEng (setEng s c t uid 20 faddr) c t uid 21
    (word (cause + field * 2 ^ 8 + record * 2 ^ 16 + kind * 2 ^ 18 + (if dropped < 31 then dropped else 31) * 2 ^ 20))

end Sys2Proof.Machine
end

