-- ==== Sys2Proof/Machine/EdgeOps.lean ====
section
/-! DEFINITION. The edge engine's own steps (R359 to R369): bitmaps, the work area, measuring, the work of a round, and what a
handler thread's end does. -/
namespace Sys2Proof.Machine

/-- The engine acting for a run. -/
def runAgent (r : EdgeRun) : Agent := ⟨r.core, r.slot, r.uid, r.ctx, r.pc, 2, r.id, r.core⟩

/-- A run in progress. -/
def getRun (s : State) (id : Nat) : Option EdgeRun := s.runs.find? (fun r => r.id == id)

/-- Replace a run. -/
def setRun (s : State) (r : EdgeRun) : State := { s with runs := s.runs.map (fun x => if x.id = r.id then r else x) }

/-- The cores of a run's place. -/
def runCores (s : State) (r : EdgeRun) : List (Nat × Nat) := coresOf s r.ctx r.core ⟨r.place, r.index, 0, 0⟩

/-- nbins = ceil(n/c) (R360). -/
def runBins (s : State) (r : EdgeRun) : Nat :=
  let c := (runCores s r).length
  (r.desc.n + c - 1) / c

/-- route(v): the core and the bin (R360). -/
def routeVertex (s : State) (r : EdgeRun) (v : Nat) : Option (Nat × Nat) := routeKey (runCores s r) v

/-- Key of acc(v). -/
def accKey (s : State) (r : EdgeRun) (v : Nat) : Option Nat :=
  (routeVertex s r v).map (fun p => spKey p.1 + r.desc.work + 8 * p.2)

/-- Key of the word that holds received(v), and its bit. -/
def recvKey (s : State) (r : EdgeRun) (v : Nat) : Option (Nat × Nat) :=
  (routeVertex s r v).map (fun p => (spKey p.1 + r.desc.work + 8 * runBins s r + 8 * (p.2 / 64), p.2 % 64))

/-- received(v). -/
def received (s : State) (r : EdgeRun) (v : Nat) : Bool :=
  match recvKey s r v with
  | some p => (peek s p.1 8).testBit p.2
  | none => false

/-- acc(v). -/
def accOf (s : State) (r : EdgeRun) (v : Nat) : Word :=
  match accKey s r v with
  | some k => word (peek s k 8)
  | none => 0

/-- An engine write of one word of the work area, which fills it (R255). -/
def workWrite (s : State) (k v : Nat) : State := fillWord (storeAt s k 8 v 0) k

/-- acc(v) ← m. -/
def setAcc (s : State) (r : EdgeRun) (v : Nat) (m : Word) : State :=
  match accKey s r v with
  | some k => workWrite s k m.toNat
  | none => s

/-- received(v) ← 1. -/
def setRecv (s : State) (r : EdgeRun) (v : Nat) : State :=
  match recvKey s r v with
  | some p => workWrite s p.1 (peek s p.1 8 ||| 2 ^ p.2)
  | none => s

/-- Clear every received bit of the place. -/
def clearRecv (s : State) (r : EdgeRun) : State :=
  (runCores s r).foldl (fun st p =>
    (List.range ((runBins s r + 63) / 64)).foldl (fun st i =>
      workWrite st (spKey p.2 + r.desc.work + 8 * runBins s r + 8 * i) 0) st) s

/-- The hardware combines (R359): cop applied to acc and a message; `.f64` under rne without flushing. -/
def applyCop (cop : Nat) (a m : Word) : Word :=
  match cop with
  | 1 => a + m
  | 2 => if a.slt m then a else m
  | 3 => if a.slt m then m else a
  | 4 => a ||| m
  | 5 => if a.ult m then a else m
  | 6 => word (fpAdd .f64 envBare 0 a.toNat m.toNat).bits
  | 7 => word (fpMinMax .f64 envBare false a.toNat m.toNat).bits
  | 8 => word (fpMinMax .f64 envBare true a.toNat m.toNat).bits
  | _ => m

/-- Bit v of a bitmap (R360). -/
def readBit (ag : Agent) (base : Word) (v : Nat) : Eng Bool := do
  let w ← engReadClean ag (base + word (8 * (v / 64))) 8
  pure (w.testBit (v % 64))

/-- The word an engine has written becomes full where it carries state (R255). -/
def fillWords1 (ag : Agent) (va : Word) : Eng Unit := do
  let l ← engPlace ag va 8 false true
  if l.drop || l.away then pure () else modify (fun s => fillWord s l.key)

/-- An engine write of one word, which fills a word that carries state (R255). -/
def engWriteFull (ag : Agent) (va : Word) (v : Nat) : Eng Unit := do
  engWrite ag va 8 v
  fillWords1 ag va

/-- Set bit v of a bitmap. -/
def writeBit (ag : Agent) (base : Word) (v : Nat) : Eng Unit := do
  let a := base + word (8 * (v / 64))
  let w ← engReadClean ag a 8
  engWriteFull ag a (w ||| 2 ^ (v % 64))

/-- The vertices whose bit is set. -/
def bitmapSet (ag : Agent) (base : Word) (n : Nat) : Eng (List Nat) :=
  (List.range n).filterM (readBit ag base)

/-- The edges of a vertex by an offset array. -/
def edgeRange (ag : Agent) (offs : Word) (v : Nat) : Eng (Nat × Nat) := do
  let a ← engReadClean ag (offs + word (8 * v)) 8
  let b ← engReadClean ag (offs + word (8 * v + 8)) 8
  pure (a, b)

/-- The frontier in force. -/
def curFront (r : EdgeRun) : Word := if r.curA then r.desc.frontA else r.desc.frontB
def nextFront (r : EdgeRun) : Word := if r.curA then r.desc.frontB else r.desc.frontA

/-- measure(f) (R364): n_f, m_f, m_u. -/
def measure (r : EdgeRun) (f : Word) : Eng (Nat × Nat × Nat) := do
  let ag := runAgent r
  let vs ← bitmapSet ag f r.desc.n
  let outs ← if r.desc.out then vs.mapM (edgeRange ag r.desc.outOff) else pure []
  let fin ← if r.desc.inn then bitmapSet ag r.desc.doneBm r.desc.n else pure []
  let ins ← if r.desc.inn then ((List.range r.desc.n).filter (fun v => !fin.contains v)).mapM (edgeRange ag r.desc.inOff)
    else pure []
  pure (vs.length, (outs.map (fun p => p.2 - p.1)).sum, (ins.map (fun p => p.2 - p.1)).sum)

/-- choose() (R364): the direction of the next round, true for push. -/
def chooseDir (r : EdgeRun) (m : Nat × Nat × Nat) : Bool :=
  if r.desc.out && r.desc.inn then
    if r.push then !decide (m.2.2 < r.desc.alpha * m.2.1) else decide (r.desc.beta * m.1 < r.desc.n)
  else r.push

/-- One round of a pull scan of d ends here (R363). -/
def scanDone (s : State) (r : EdgeRun) (d : Nat) : Bool :=
  received s r d && (r.desc.finish == 1 || (r.desc.finish == 2 && accOf s r d == r.desc.fin))

/-- The next scatter of d's scan among `n` in-edges from edge e on: in-edges whose source is in the frontier (R363); a source
at or beyond n stops the run (R368). -/
def scanFrom (r : EdgeRun) (d : Nat) : Nat → Nat → Eng (Option (Nat × Nat))
  | 0, _ => pure none
  | n + 1, e => do
    let s ← get
    if scanDone s r d then pure none
    else do
      let ag := runAgent r
      let a := r.desc.inSrc + word (4 * e)
      let src ← engReadClean ag a 4
      if r.desc.n ≤ src then engFail 0x06 a
      else do
        let on ← readBit ag (curFront r) src
        if on then pure (some (src, e)) else scanFrom r d n (e + 1)

/-- Go on with the scan of d from edge e: the next item, if there is one. -/
def scanNext (r : EdgeRun) (d e : Nat) : Eng (Option EdgeItem) := do
  let p ← edgeRange (runAgent r) r.desc.inOff d
  let x ← scanFrom r d (p.2 - e) e
  pure (x.map (fun y => .scatter y.1 y.2 d))

/-- Number new items of work. -/
def newWork (s : State) (items : List EdgeItem) : List EdgeWork × State :=
  items.foldl (fun acc it =>
    let f := fresh acc.2
    (acc.1 ++ [⟨f.1, it, 0⟩], f.2)) ([], s)

/-- The source values of a round as they stand at its start. -/
def snapValues (r : EdgeRun) (vs : List Nat) : Eng (SMap Word) := do
  let xs ← vs.mapM (fun v => engReadClean (runAgent r) (r.desc.values + word (8 * v)) 8)
  pure ((vs.zip xs).foldl (fun m p => mapPut m p.1 (word p.2)) [])

/-- The accesses with which a round begins (R363): nxt is cleared word by word, then every received bit. -/
def clearRound (r : EdgeRun) : List (Eng Unit) :=
  (List.range ((r.desc.n + 63) / 64)).map (fun i => engWriteFull (runAgent r) (nextFront r + word (8 * i)) 0) ++
    [modify (fun s => clearRecv s r)]

/-- A cleared round begins (R363): push lists a scatter for every out-edge of the frontier, pull begins one scan for every vertex that
is not done. -/
def beginRound (r : EdgeRun) : Eng Unit := do
  let ag := runAgent r
  let vs ← bitmapSet ag (curFront r) r.desc.n
  let snap ← snapValues r vs
  if r.push then do
    let items ← vs.mapM (fun v => do
      let p ← edgeRange ag r.desc.outOff v
      (List.range (p.2 - p.1)).mapM (fun i => do
        let d ← engReadClean ag (r.desc.outTgt + word (4 * (p.1 + i))) 4
        pure (EdgeItem.scatter v (p.1 + i) d)))
    modify (fun s =>
      let w := newWork s items.flatten
      setRun w.2 { r with applyPhase := false, stage := 0, work := w.1, scans := [], applied := [], snap := snap })
  else do
    let fin ← bitmapSet ag r.desc.doneBm r.desc.n
    let its ← ((List.range r.desc.n).filter (fun d => !fin.contains d)).mapM (fun d => do
      let p ← edgeRange ag r.desc.inOff d
      scanNext r d p.1)
    modify (fun s =>
      let w := newWork s (its.filterMap id)
      setRun w.2 { r with applyPhase := false, stage := 0, work := w.1, scans := [], applied := [], snap := snap })

/-- The run has ended or stopped: e27 reports it (R367) and C falls. -/
def finishRun (s : State) (r : EdgeRun) (how : Nat) : State :=
  let v := word (r.rounds % 2 ^ 32 + (if r.push then 0 else 2 ^ 32) + (if r.curA then 0 else 2 ^ 33) + how * 2 ^ 34)
  let s := setEng s r.core r.slot r.uid 27 v
  lowerC { s with runs := s.runs.filter (fun x => !(x.id == r.id)) } r.core r.slot r.uid 1

/-- An access of a run fails: a fault at a home parks it there (R412), any other failure is noted. -/
def runFailed (s : State) (r : EdgeRun) (e : Nat × Word) : State :=
  if e.1 = 0 then engPark s (runAgent r) e.2 else failRun s r.id e.1 e.2

/-- Perform a step of a run, or note the failure it met. -/
def runStep (s : State) (r : EdgeRun) (m : Eng Unit) : State :=
  match runEng s m with
  | .ok s1 => s1
  | .error e => runFailed s r e

/-- Perform accesses one after another; those before a failure keep their effects. -/
def runKept (s : State) : List (Eng Unit) → State × Option (Nat × Word)
  | [] => (s, none)
  | m :: ms =>
    match runEng s m with
    | .ok s1 => runKept s1 ms
    | .error e => (s, some e)

/-- The work area is behind no earlier access that an order puts before the run's (R292): its words are then the run's alone. -/
def workClear (s : State) (r : EdgeRun) : Bool :=
  let n := 8 * runBins s r + 8 * ((runBins s r + 63) / 64)
  !shielded s r.core r.uid r.id false ((runCores s r).map (fun p => (spKey p.2 + r.desc.work, n))) true

/-- Replace an item of a run's work by others. -/
def replaceWork (s : State) (r : EdgeRun) (item : Nat) (more : List EdgeItem) : State :=
  let w := newWork s more
  setRun w.2 { r with work := r.work.filter (fun x => !(x.id == item)) ++ w.1 }

/-- The scan of d goes on from edge e (R363); where a read cannot be performed yet, the item waits to go on. -/
def scanOn (s : State) (id item d e : Nat) : State :=
  match getRun s id with
  | none => s
  | some r =>
    let go : Eng Unit := do
      let nx ← scanNext r d e
      modify (fun st => replaceWork st r item nx.toList)
    match runEng s go with
    | .error (0, _) => replaceWork (runStep s r go) r item [.scan d e]
    | .ok _ | .error _ => runStep s r go

/-- An item of work ends without a message to combine, or once its message is combined. -/
def itemDone (s : State) (id : Nat) (w : EdgeWork) : State :=
  match getRun s id with
  | none => s
  | some r =>
    match w.item with
    | .scatter _ e d => if r.push then replaceWork s r w.id [] else scanOn s id w.id d (e + 1)
    | .combine d _ =>
      if r.push then replaceWork s r w.id []
      else
        match r.scans.find? (fun p => p.1 == d) with
        | some p => scanOn s id w.id d (p.2 + 1)
        | none => replaceWork s r w.id []
    | .apply _ => replaceWork s r w.id []
    | .scan d e => scanOn s id w.id d e

/-- The value of a local at a handler's end, none while it is empty. -/
def endLocal (th : Thread) (j : Nat) : Option Word :=
  let r := mapGet Reg.empty th.regs (localNo th.hdr j)
  if j < th.hdr.l ∧ r.full then some r.val else none

/-- What a handler thread's exit leaves (R361, R363): a scatter's message becomes a combine, a combine's result the new acc, an
apply's results wait for the round's end. In a pull round the scan remembers the edge it stands at. -/
def edgeExit (s : State) (th : Thread) : State :=
  match getRun s th.work with
  | none => s
  | some r =>
    match r.work.find? (fun w => w.id == th.item) with
    | none => s
    | some w =>
      match w.item with
      | .scatter _ e d =>
        match endLocal th 5 with
        | some m => replaceWork s { r with scans := (d, e) :: r.scans.filter (fun p => !(p.1 == d)) } w.id [.combine d m]
        | none => itemDone s r.id w
      | .combine d _ =>
        let s := match endLocal th 3 with | some m => setAcc s r d m | none => s
        itemDone s r.id w
      | .apply v =>
        let f := match endLocal th 4 with | some x => x | none => 0
        let s := setRun s { r with applied := r.applied ++ [(v, endLocal th 3, f)] }
        itemDone s r.id w
      | .scan _ _ => s

end Sys2Proof.Machine
end

