-- ==== Sys2Proof/Machine/Family.lean ====
section
/-! DEFINITION. Family instructions (R184 to R204), and the end of a thread (R201, R353, R384). -/
namespace Sys2Proof.Machine

/-! ### Handles (R188) -/

/-- A failure handle. -/
def failHandle (code : Nat) : Word := word (2 ^ 63 + code)

/-- The code of a failure handle, none for any other value. -/
def failCode (h : Word) : Option Nat :=
  let c := bits h 7 0
  if bits h 63 63 = 1 ∧ bits h 62 8 = 0 ∧ 1 ≤ c ∧ c ≤ 8 then some c else none

/-- A live handle is opaque: the family's number below free bits (log 12). -/
def liveHandle (fam : Nat) (v : Word) : Word := word (fam % 2 ^ 40 + v.toNat % 2 ^ 23 * 2 ^ 40)

/-- What a handle names: a failure, or a family of the thread's table; anything else raises 0x06. -/
inductive Named where
  | failure (code : Nat)
  | family (fam : Nat)

/-- Look a handle up. -/
def lookHandle (th : Thread) (h : Word) : Except Stop Named :=
  match failCode h with
  | some c => .ok (.failure c)
  | none =>
    match th.famTable.find? (fun e => e.handle == h) with
    | some e => .ok (.family e.fam)
    | none => .error (.trap 0x06 0)

/-! ### Creating a family (R184 to R189, R196) -/

/-- A descriptor's nest extents. -/
def descExtents (d : Nat) : List Nat := (List.range 4).map (fun i => fieldAt d (24 + 4 * i) 4)

/-- A nonzero extent after a zero one. -/
def extentsBad : List Nat → Bool
  | [] => false
  | e :: r => if e = 0 then r.any (· != 0) else extentsBad r

/-- The member count of a descriptor (R185). -/
def descCount (d : Nat) : Nat := familyCount (intAt d 0) (intAt d 8) (intAt d 16)

/-- The place a descriptor names under a launch's bindings (R183, R371): none for a level code of 9 or more, or for L6 or L7.
The model's choice: L6 and L7 are looked for in the domain the code is bound to, not in the code (log 117). -/
def descPlace (binds : List Nat) (mine : Place) (d : Nat) : Option Place :=
  let w := fieldAt d 44 4
  let code := w % 16
  let b := boundLevel binds (code - 1)
  if code = 0 then some mine
  else if 9 ≤ code ∨ 6 ≤ b.1 then none
  else some ⟨b.1, w / 16, b.2, code - 1⟩

/-- The place lies inside the launch's place. -/
def placeInside (s : State) (ctx c : Nat) (p : Place) : Bool :=
  match coreLaunch s c with
  | none => true
  | some l =>
    if p.level = 0 then (placeLogical l.level l.index).contains (logicalCore s ctx c)
    else (placeLogical p.level p.index).all (fun x => (placeLogical l.level l.index).contains x)

/-- The failure code `crt` finds, 0 for none, in the order of R196. -/
def crtCode (s : State) (th : Thread) (d h : Nat) : Nat :=
  if fieldAt d 56 8 ≠ 0 ∨ extentsBad (descExtents d) = true ∨ fieldAt d 48 8 % 64 ≠ 0 ∨ 2 ^ 40 < descCount d then 0x01
  else if !headerOk h then 0x02
  else
    match descPlace (coreBinds s s.core) (threadPlace s s.core th) d with
    | none => 0x03
    | some p =>
      let count := if p.level = 0 then 1 else indexRange s p.level
      if count ≤ p.index ∨ placeInside s th.ctx s.core p = false ∨
          (p.level = 0 ∧ (headerOf 0 h).foldCapable = false) then 0x03
      else if 8 ≤ (th.famTable.filter (fun e => !e.synced)).length then 0x07
      else 0

/-- Take a free entry of the family table, else the one synced least recently (R188). -/
def takeEntry (tbl : List FamEntry) (e : FamEntry) : List FamEntry :=
  if tbl.length < 8 then tbl ++ [e]
  else
    let olds := tbl.filter (fun x => x.synced)
    match olds.foldl (fun (a : Option FamEntry) x =>
        match a with | none => some x | some y => some (if x.stamp < y.stamp then x else y)) none with
    | some o => tbl.filter (fun x => !(x.handle == o.handle)) ++ [e]
    | none => tbl

/-- Record a family at its home, the creator's core, and make its allocation round (R189, R196). -/
def makeFamily (s : State) (th : Thread) (d h : Nat) (p : Place) : Word × State :=
  let hdr := headerOf (fieldAt d 48 8) h
  let count := descCount d
  let (fam, s) := fresh s
  let (v, s) := freeVal s
  let handle := liveHandle fam v
  let granted :=
    if count = 0 ∨ p.level = 0 then []
    else ((coresOf s th.ctx s.core p).map (·.2)).filter (fun c => couldGrant s c hdr true fam)
  let f : Family :=
    { ctx := th.ctx, home := s.core, creator := th.uid, launch := (getCore s s.core).launch, start := intAt d 0,
      limit := intAt d 8, step := intAt d 16, ext := descExtents d, block := fieldAt d 40 4, place := p.level,
      index := p.index, scope := p.scope, lvl := p.lvl, hdr := hdr, count := count, claimed := 0, chunks := [], back := [], again := [],
      granted := granted, placed := !granted.isEmpty, folded := false,
      outcome := if count = 0 then .completed else .running, globals := [], deps := [], shareds := [], arrived := [],
      ended := 0, killed := [] }
  let s := { s with families := mapPut s.families fam f }
  (handle, setCur s { cur s with famTable := takeEntry (cur s).famTable ⟨handle, fam, false, 0⟩ })

/-- `crt` (R196): the descriptor and the header it names are read before any code is tested, whatever the header's address. It raises
0x06 in a row handler (R196) and in an edge run's handlers (R361); the model's choice: before the naming of registers, like a privilege
check (R52, log 91). -/
def execCrt (d a : RegNo) (s : State) :=
  runBody s (do
    let th := cur s
    if th.kind = .rowHandler ∨ th.kind = .edgeHandler then .error (.trap 0x06 0) else .ok ()
    let r ← readForm s [a] d
    checkHeld s 0b000001
    let va := on1 id r.1
    if va.toNat % 64 ≠ 0 then .error (.trap 0x03 va) else .ok ()
    checkSpec s
    checkCount th.cntL 15
    let (x, s1) ← descRead (setCur s r.2) va 64 0x06
    let ha := wordAt x 48
    let (h, s2) ← descRead s1 ha 64 0x06
    let code := crtCode s2 (cur s2) x h
    match descPlace (coreBinds s2 s2.core) (threadPlace s2 s2.core (cur s2)) x with
    | some p =>
      if code = 0 then
        let m := makeFamily s2 (cur s2) x h p
        .ok (retire (writeReg m.2 d m.1))
      else .ok (retire (writeReg s2 d (failHandle code)))
    | none => .ok (retire (writeReg s2 d (failHandle code))))

/-! ### Waiting on families (R192, R198 to R201) -/

/-- An unplaced family of a fold-capable header of which no chunk has ever been claimed folds when its creator waits on it
(R192). -/
def stillFolds (f : Family) : Bool :=
  !f.placed && f.claimed == 0 && !f.folded && f.hdr.foldCapable && f.outcome == .running

/-- Wait until a family has ended; an unplaced one of which no chunk is claimed folds if its header lets it (R192). -/
def awaitFam (s : State) (fam : Nat) : Except Stop Unit :=
  if famEnded s fam then .ok ()
  else
    match getFam s fam with
    | some f =>
      if stillFolds f then .error (.waitAs { cur s with wantFold := fam } .waitFamily)
      else .error (.wait .waitFamily)
    | none => .ok ()

/-- The last member's shared n. -/
def lastShared (f : Family) (n : Nat) : Option Reg := if f.count = 0 then none else mapFind f.shareds ((f.count - 1) * 64 + n)

/-- What a reader of the last member's shared n receives: poisoned or indeterminate as it was written, 0 where there is none. -/
def sharedReg (f : Family) (n : Nat) : Reg := { (lastShared f n).getD (fullReg 0) with full := true, pend := false }

/-- Wait until a completed family's last shareds are all full. -/
def awaitShareds (s : State) (fam : Nat) : Except Stop Unit :=
  match getFam s fam with
  | some f =>
    if f.outcome = .completed ∧ f.count ≠ 0 ∧ (List.range f.hdr.s).any (fun n => (lastShared f n).isNone) then
      .error (.wait .waitFamily)
    else .ok ()
  | none => .ok ()

/-- What `sync` returns (R199). -/
def syncValue (s : State) (fam : Nat) : Reg :=
  match getFam s fam with
  | some f =>
    match f.outcome with
    | .completed => if f.hdr.s = 0 ∨ f.count = 0 then fullReg 0 else sharedReg f 0
    | .broke _ v => fullReg v
    | .failed code => fullReg (word code)
    | .running => fullReg 0
  | none => fullReg 0

/-- Mark a table entry synced. -/
def markSynced (th : Thread) (fam stamp : Nat) : Thread :=
  { th with famTable := th.famTable.map (fun e => if e.fam = fam then { e with synced := true, stamp := stamp } else e)
            wantFold := 0 }

/-- `sync` (R199). -/
def execSync (d a : RegNo) (s : State) :=
  runBody s (do
    let r ← readForm s [a] d
    checkHeld s 0
    if 0 < (cur s).cntS then .error (.wait .waitFamily) else .ok ()
    checkPending (cur s)
    match (← lookHandle (cur s) (on1 id r.1)) with
    | .failure c => .ok (retire (writeReg (setCur s r.2) d (word c)))
    | .family fam =>
      awaitFam s fam
      awaitShareds s fam
      let (stamp, s1) := fresh (setCur s r.2)
      .ok (retire (putReg (setCur s1 (markSynced (cur s1) fam stamp)) d (syncValue s fam))))

/-- `fput` and `fput.s` (R197). -/
def fputForm (s : State) (n : BitVec 6) (a b : RegNo) (dep : Bool) : Except Stop State := do
  let r ← readOnlyForm s [a, b]
  checkHeld s 0
  match r.1 with
  | [h, v] =>
    match (← lookHandle (cur s) h) with
    | .failure _ => .ok (retire (setCur s r.2))
    | .family fam =>
      match getFam s fam with
      | none => .ok (retire (setCur s r.2))
      | some f =>
        if (if dep then f.hdr.s else f.hdr.g) ≤ n.toNat then .error (.trap 0x02 0)
        else if famEnded s fam then .ok (retire (setCur s r.2))
        else
          checkCount r.2.cntS 15
          let s1 := setCur s r.2
          .ok (retire (sendRequest (addS s1)
            { threadRequest s1 with kind := .famPut fam n.toNat dep, b := v, scope := f.scope, rel := true }))
  | _ => .ok (retire s)

/-- `fput` (R197). -/
def execFput (n : BitVec 6) (a b : RegNo) (s : State) := runBody s (fputForm s n a b false)

/-- `fput.s` (R197). -/
def execFputS (n : BitVec 6) (a b : RegNo) (s : State) := runBody s (fputForm s n a b true)

/-- `fget`: a global as the home records it (R198). -/
def execFget (d a : RegNo) (n : BitVec 6) (s : State) :=
  runBody s (do
    let r ← readForm s [a] d
    checkHeld s 0
    match (← lookHandle (cur s) (on1 id r.1)) with
    | .failure _ => .ok (retire (writeReg (setCur s r.2) d 0))
    | .family fam =>
      match getFam s fam with
      | none => .ok (retire (writeReg (setCur s r.2) d 0))
      | some f =>
        if f.hdr.g ≤ n.toNat then .error (.trap 0x02 0)
        else
          match mapFind f.globals n.toNat with
          | some v => .ok (retire (writeReg (setCur s r.2) d v))
          | none => .error (.wait .waitFamily))

/-- `fget.s`: a shared of the last member (R198). -/
def execFgetS (d a : RegNo) (n : BitVec 6) (s : State) :=
  runBody s (do
    let r ← readForm s [a] d
    checkHeld s 0
    match (← lookHandle (cur s) (on1 id r.1)) with
    | .failure _ => .ok (retire (writeReg (setCur s r.2) d 0))
    | .family fam =>
      match getFam s fam with
      | none => .ok (retire (writeReg (setCur s r.2) d 0))
      | some f =>
        if f.hdr.s ≤ n.toNat then .error (.trap 0x02 0)
        else
          awaitFam s fam
          awaitShareds s fam
          let v := if f.outcome = .completed then sharedReg f n.toNat else fullReg 0
          .ok (retire (putReg (setCur s { r.2 with wantFold := 0 }) d v)))

/-- What `fget.brk` returns (R198). -/
def breakValue (o : Outcome) : Word :=
  match o with
  | .broke k _ => word k
  | .failed _ => BitVec.allOnes 64 - 1
  | .completed => BitVec.allOnes 64
  | .running => 0

/-- `fget.brk` (R198). -/
def execFgetBrk (d a : RegNo) (s : State) :=
  runBody s (do
    let r ← readForm s [a] d
    checkHeld s 0
    match (← lookHandle (cur s) (on1 id r.1)) with
    | .failure _ => .ok (retire (writeReg (setCur s r.2) d (breakValue (.failed 0))))
    | .family fam =>
      awaitFam s fam
      let v := match getFam s fam with | some f => breakValue f.outcome | none => 0
      .ok (retire (writeReg (setCur s { r.2 with wantFold := 0 }) d v)))

/-! ### The end of a thread (R200, R201, R353) -/

/-- Wait until L, S, C and M are zero. -/
def countersZero (th : Thread) : Except Stop Unit :=
  if th.cntL = 0 ∧ th.cntS = 0 ∧ th.cntC = 0 ∧ th.cntM = 0 then .ok () else .error (.wait .waitReg)

/-- Wait until every family the thread created has ended, folding in creation order those that fold (R201). -/
def familiesEnded (s : State) : Except Stop Unit :=
  let mine := s.families.filter (fun p => p.2.creator == (cur s).uid && !famEnded s p.1)
  if mine.isEmpty then .ok ()
  else
    match mine.find? (fun p => stillFolds p.2) with
    | some p => awaitFam s p.1
    | none => .error (.wait .waitFamily)

/-- A `tenq` of the thread has not been accepted yet. -/
def tenqOwed (s : State) : Bool :=
  s.flights.any (fun r => r.uid == (cur s).uid && (match r.kind with | .tenq _ => true | _ => false))

/-- Wait until every task of which the thread is the root enqueuer has committed, those on their way to a queue included (R352). -/
def rootTasksDone (s : State) : Except Stop Unit :=
  if tenqOwed s || s.tasks.any (fun x => x.root == (cur s).uid) then .error (.wait .waitFamily) else .ok ()

/-- A task has executed `texit`: its slot is free, and the task stays uncommitted (R353). -/
def endTask (s : State) : State :=
  let th := cur s
  freeThread { s with tasks := s.tasks.map (fun x => if x.id = th.work then { x with exited := true } else x) }
    s.core s.slot

/-- A row handler has ended: its row is no longer handler-pending (R315). -/
def endRow (s : State) : State :=
  let th := cur s
  let co := getCore s s.core
  freeThread (putCore s s.core { co with rowPend := co.rowPend &&& ~~~((1 : BitVec 128) <<< th.item) }) s.core s.slot

/-- A result is still owed to a shared of the member (R126). -/
def sharedOwed (th : Thread) : Bool :=
  th.kind == .member && (List.range th.hdr.s).any (fun n => (mapGet Reg.empty th.regs (1 + th.hdr.g + n)).pend)

/-- The thread ends as `exit` ends it, by what it is. -/
def endThread (s : State) : State :=
  match (cur s).kind with
  | .member => exitMember s s.core s.slot
  | .task => endTask s
  | .rowHandler => endRow s
  | .edgeHandler => edgeExit (freeThread s s.core s.slot) (cur s)
  | .trapHandler => trapReturn s s.core
  | .kernel => freeThread s s.core s.slot

/-- `exit` (R201); in slot 31 it acts as `eret` (R384), in a task as `texit` (R353), after the 0x07 that may be pending (R254). A member
ends once the results owed to its shareds have been written and delivered (R126, R181). -/
def execExit (s : State) :=
  runBody s (do
    if s.slot = 31 then leaveHandler s
    else
      countersZero (cur s)
      if (cur s).kind = .task then
        checkPending (cur s)
        .ok (endTask s)
      else
        familiesEnded s
        rootTasksDone s
        if sharedOwed (cur s) then .error (.wait .waitReg) else .ok ()
        checkPending (cur s)
        .ok (endThread s))

/-- `brk` (R200): 0x06 in slots 29 and 30 (R304), in an edge run's handlers (R361), and in slot 31, where a delivery ends by `eret`,
`exit` or the loss of its context only (R384, log 13). The model's choice: that 0x06 comes before the naming of registers, like a
privilege check (R52, log 91). A task or a kernel thread has no home to send its value to and ends as it would
by `exit` (log 13). -/
def execBrk (a : RegNo) (s : State) :=
  runBody s (do
    let th := cur s
    if s.slot = 29 ∨ s.slot = 30 ∨ th.kind = .rowHandler ∨ th.kind = .edgeHandler ∨ th.kind = .trapHandler then .error (.trap 0x06 0)
    else .ok ()
    let r ← readOnlyForm s [a]
    countersZero th
    familiesEnded s
    checkPending th
    if th.kind = .member then
      let q := { threadRequest s with kind := .brk th.fam th.member, b := on1 id r.1 }
      .ok (dropThread (sendRequest s q) s.core s.slot)
    else .ok (endThread s))

/-- `yield`: the other threads of the core that may issue come first (R202, R380). -/
def execYield (s : State) :=
  runBody s (do
    checkHeld s 0
    let others := (coreThreads s s.core).filter (fun p => p.1 != s.slot && p.2.status.canIssue)
    let th := cur s
    .ok (retire (setCur s { th with yielded := true, yieldFor := others.map (fun p => p.2.uid), waited := 0 })))

/-! ### `qry` (R204) -/

/-- The index of a member. -/
def memberIndex (f : Family) (k : Nat) : Word := BitVec.ofInt 64 (f.start + (k : Int) * (if f.step = 0 then 1 else f.step))

/-- The value of a selector. A thread without a family has zero in 0x02 to 0x04, a task its own place in 0x05 (log 13). -/
def qryValue (s : State) (th : Thread) (n : Nat) : Word :=
  let fam := if th.kind = .member then getFam s th.fam else none
  match n with
  | 0x00 => word s.slot
  | 0x01 => word (logicalCore s th.ctx s.core)
  | 0x02 => if th.kind = .member then word th.member else 0
  | 0x03 => match fam with | some f => memberIndex f th.member | none => 0
  | 0x04 => match fam with | some f => word f.count | none => 0
  | 0x05 =>
    if th.kind = .member ∨ th.kind = .task then
      let p := threadPlace s s.core th
      word (p.lvl + 1 + 16 * p.index)
    else 0
  | 0x06 => word (th.ctx % 512)
  | 0x07 | 0x08 => th.fpStatus.zeroExtend 64
  | 0x09 => th.hdr.flags.zeroExtend 64
  | 0x0A => if th.kind = .member then word th.frames.length else 0
  | 0x0B => word (coresOf s th.ctx s.core (threadPlace s s.core th)).length
  | 0x0C => word (th.cntL % 16 + th.cntS % 16 * 2 ^ 4 + th.cntC % 32 * 2 ^ 8 + th.cntM % 16 * 2 ^ 13)
  | 0x0D => word ((List.range 29).filter (fun t => (getThread s s.core t).status == .free)).length
  | _ => if th.hdr.stack = 0 then 0 else word (0xF * 2 ^ 48 + th.stackBase)

/-- `qry` (R204): selectors above 0x0E raise 0x01; 0x08 clears the status word it returns. -/
def execQry (d : RegNo) (n : BitVec 6) (s : State) :=
  runBody s (do
    if 0x0E < n.toNat then .error (.trap 0x01 0) else .ok ()
    let r ← readForm s [] d
    checkHeld s 0
    let v := qryValue s r.2 n.toNat
    let th := if n.toNat = 0x08 then { r.2 with fpStatus := 0 } else r.2
    .ok (retire (writeReg (setCur s th) d v)))

end Sys2Proof.Machine
end

