-- ==== Sys2Proof/Machine/Tasks.lean ====
section
/-! DEFINITION. Timestamped tasks (R343 to R354): their instructions, and their acceptance, start, abort and commit. -/
namespace Sys2Proof.Machine

/-! ### Instructions -/

/-- A record `tenq` takes: not started, no reserved bit set (R174, R343). -/
def recordOk (d : Nat) : Bool :=
  decide (fieldAt d 0 8 % 64 = 0 ∧ fieldAt d 0 8 / 2 ^ 52 = 0 ∧ fieldAt d 48 8 / 2 ^ 16 % 2 ^ 8 = 0 ∧
    fieldAt d 56 8 % 64 = 0 ∧ fieldAt d 56 8 / 2 ^ 61 = 0)

/-- The task a `tenq` sends to the queue, before it has its key. -/
def newTask (s : State) (th : Thread) (va : Word) (d h : Nat) (stamp : Word) : Task :=
  let me := if th.kind = .task then s.tasks.find? (fun x => x.id == th.work) else none
  let p := corePlace s s.core th.ctx (threadPlace s s.core th)
  { id := 0, addr := va, ctx := th.ctx, t := stamp.toNat, q := 0, record := leBytes 64 d, hdr := headerOf (fieldAt d 0 8 / 64 * 64) h,
    place := p.level, index := p.index, scope := p.scope, lvl := p.lvl, launch := (getCore s s.core).launch,
    root := match me with | some x => x.root | none => th.uid, parent := match me with | some x => x.id | none => 0,
    core := none, uid := 0, spec := false, exited := false, abort := false, reads := 0, writes := 0, buf := [] }

/-- `tenq` (R343): 0x06 from slots 29 to 31 and in an edge run's handlers (R361). -/
def execTenq (a b : RegNo) (s : State) :=
  runBody s (do
    let th := cur s
    if 29 ≤ s.slot ∨ th.kind = .edgeHandler then .error (.trap 0x06 0) else .ok ()
    let r ← readOnlyForm s [a, b]
    checkHeld s 0
    match r.1 with
    | [va, stamp] =>
      if va.toNat % 64 ≠ 0 then .error (.trap 0x03 va) else .ok ()
      let (d, s1) ← descRead (setCur s r.2) va 64 0x04
      let ha := word (fieldAt d 0 8 % 2 ^ 52 / 64 * 64)
      let (h, s2) ← descRead s1 ha 64 0x04
      if !recordOk d || !headerOk h || fieldAt h 4 1 != 0 || fieldAt h 5 1 != 0 then .error (.trap 0x06 va) else .ok ()
      checkCount r.2.cntS 15
      let q := { threadRequest s2 with kind := .tenq (newTask s2 (cur s2) va d h stamp), va := va }
      .ok (retire (sendRequest (addS s2) q))
    | _ => .ok (retire s))

/-- `texit` (R353): 0x06 outside a task. -/
def execTexit (s : State) :=
  runBody s (do
    if (cur s).kind = .task then .ok () else .error (.trap 0x06 0)
    countersZero (cur s)
    checkIndet (cur s)
    .ok (endTask s))

/-- `tirr` (R352): 0x06 in an edge run's handlers (R361). It is held like every task instruction (R159). -/
def execTirr (s : State) :=
  runBody s (do
    if (cur s).kind = .edgeHandler then .error (.trap 0x06 0) else .ok ()
    checkHeld s 0
    if (cur s).kind = .task then checkSpec s else rootTasksDone s
    .ok (retire s))

/-! ### The strainer -/

/-- The task of this number. -/
def getTask (s : State) (id : Nat) : Option Task := s.tasks.find? (fun x => x.id == id)

/-- Change a task. -/
def onTask (s : State) (id : Nat) (f : Task → Task) : State :=
  { s with tasks := s.tasks.map (fun x => if x.id = id then f x else x) }

/-- The task has the least key of its context's uncommitted tasks (R350). -/
def leastTask (s : State) (x : Task) : Bool := s.tasks.all (fun y => y.ctx != x.ctx || y.id == x.id || keyLess x y)

/-- A request in flight, by its number. -/
def getRequest (s : State) (id : Nat) : Option Request := s.flights.find? (fun r => r.id == id)

/-- Take a request out of flight. -/
def dropRequest (s : State) (id : Nat) : State := { s with flights := s.flights.filter (fun r => !(r.id == id)) }

/-- Lower L or S of a request's thread. -/
def lowerL (s : State) (r : Request) : State := onThread s r.core r.slot r.uid (fun th => { th with cntL := th.cntL - 1 })
def lowerS (s : State) (r : Request) : State := onThread s r.core r.slot r.uid (fun th => { th with cntS := th.cntS - 1 })

/-- TASK_ACCEPT: the timestamp is raised to the parent's and to the greatest committed one, q is the next sequence number, and
the queued copy carries the key (R344). -/
def execTaskAccept (s : State) : Host.Outcome State Fault Refusal :=
  match s.event with
  | .taskAccept req =>
    match getRequest s req with
    | some r =>
      match r.kind, getCtx s r.ctx with
      | .tenq x, some c =>
        let up := match getTask s x.parent with | some p => if x.t < p.t then p.t else x.t | none => x.t
        let t := if up < c.taskMax then c.taskMax else up
        let (id, s1) := fresh s
        let rec2 := (x.record.take 8) ++ leBytes 8 t ++ x.record.drop 16
        let s2 := { s1 with tasks := s1.tasks ++ [{ x with id := id, t := t, q := c.taskSeq, record := rec2 }] }
        .next (lowerS (dropRequest (onCtx s2 r.ctx (fun c => { c with taskSeq := c.taskSeq + 1 })) req) r)
      | _, _ => .next s
    | none => .next s
  | _ => .next s

/-- The tasks a core can reach: queued ones of its launch, of a place that holds the core. -/
def reachable (s : State) (c : Nat) (x : Task) : Bool :=
  x.core.isNone && !x.exited && (getCore s c).launch == x.launch && (coresOf s x.ctx c ⟨x.place, x.index, 0, 0⟩).any (fun p => p.2 == c)

/-- Words 0 to 4 of a record. -/
def recordWords (x : Task) : List Word :=
  (List.range 5).map (fun i => word (leValue ((x.record.drop (16 + 8 * i)).take 8)))

/-- The tasks that a core runs, or has run and not committed; those of a pre-empted launch are none of them (R387). -/
def tasksOn (s : State) (c : Nat) : List Task :=
  s.tasks.filter (fun x => x.launch == (getCore s c).launch && (match x.core with | some p => p.1 == c | none => false))

/-- TASK_START: a core of the place starts the least-keyed task it can reach (R345). -/
def execTaskStart (s : State) : Host.Outcome State Fault Refusal :=
  match s.event with
  | .taskStart c id stack =>
    match getTask s id, freeSlot s c with
    | some x, some t =>
      if reachable s c x && !(getCore s c).killed && hasRoom s c x.hdr 0 stack && decide ((tasksOn s c).length < 16) &&
          s.tasks.all (fun y => !reachable s c y || y.id == x.id || keyLess x y) then
        let s1 := startThread s c t ⟨.task, x.ctx, 0, 0, x.id, 0, x.hdr, stack, localRegs x.hdr (recordWords x)⟩
        .next (onTask s1 id (fun x => { x with core := some (c, t), uid := (getThread s1 c t).uid, spec := true }))
      else .next s
    | _, _ => .next s
  | _ => .next s

/-- The tasks that descend from these. -/
def taskClosure (s : State) : Nat → List Nat → List Nat
  | 0, ids => ids
  | n + 1, ids =>
    match (s.tasks.filter (fun x => ids.contains x.parent && !ids.contains x.id)).map (·.id) with
    | [] => ids
    | more => taskClosure s n (ids ++ more)

/-- The threads that run these tasks. -/
def taskUids (s : State) (ids : List Nat) : List Nat :=
  (liveThreads s).filterMap (fun p => if p.2.2.kind = .task ∧ ids.contains p.2.2.work then some p.2.2.uid else none)

/-- Abort a task (R348): its descendants go, their threads stop, buffers and signatures are discarded, and the task returns to
the queue with its record and key. -/
def abortTask (s : State) (id : Nat) : State :=
  let all := taskClosure s s.tasks.length [id]
  let uids := taskUids s all
  let s := { s with flights := s.flights.filter (fun r =>
    match r.kind with | .tenq x => !all.contains x.parent | _ => true) }
  let s := { s with tasks := s.tasks.filter (fun x => x.id == id || !all.contains x.id) }
  let s := killThreads s uids
  onTask s id (fun x =>
    { x with core := none, spec := false, exited := false, abort := false, reads := 0, writes := 0, buf := [] })

/-- TASK_ABORT: a speculative task that lost a conflict aborts (R348). -/
def execTaskAbort (s : State) : Host.Outcome State Fault Refusal :=
  match s.event with
  | .taskAbort id =>
    match getTask s id with
    | some x => if x.spec && x.abort then .next (abortTask s id) else .next s
    | none => .next s
  | _ => .next s

/-- Perform buffered bytes: a word that is buffered whole as one store, the others byte by byte (R350, R405), each where its home
finds it now (R417). -/
def performBuffer (s : State) (buf : SMap Byte) (uid : Nat) : State :=
  ((buf.map (fun p => p.1 / 8)).eraseDups).foldl (fun st w =>
    let here := (List.range 8).filterMap (fun i => (mapFind buf (8 * w + i)).map (fun b => (8 * w + i, b)))
    if here.length = 8 then storeAt st (movedKey st (8 * w)) 8 (leValue (here.map (·.2))) uid
    else here.foldl (fun st p => storeAt st (movedKey st p.1) 1 p.2.toNat uid) st) s

/-- TASK_NONSPECULATIVE: once it is the least uncommitted task, its buffered stores are performed (R350); while a home cannot
serve one of them the step waits (R412). -/
def execTaskNonspeculative (s : State) : Host.Outcome State Fault Refusal :=
  match s.event with
  | .taskNonspeculative id =>
    match getTask s id with
    | some x =>
      if x.spec && !x.abort && leastTask s x && !x.buf.any (fun p => homeFaults s x.ctx p.1) then
        .next (onTask (performBuffer s x.buf x.uid) id (fun x => { x with spec := false, buf := [] }))
      else .next s
    | none => .next s
  | _ => .next s

/-- Accesses and commands of a task's thread that `texit` would have waited for are not over (R353, R354): not performed, or a counted
one that still waits at its home, unless the thread's core is lost. -/
def taskOwes (s : State) (x : Task) : Bool :=
  uidsOwe s [x.uid] ||
    s.flights.any (fun r => r.uid == x.uid && !(getCore s r.core).killed &&
      (match r.kind with
       | .delayed | .engine _ | .bar => false
       | _ => true))

/-- TASK_COMMIT: in ascending key, one at a time (R350), once every access of its thread is performed (R353, R354). -/
def execTaskCommit (s : State) : Host.Outcome State Fault Refusal :=
  match s.event with
  | .taskCommit id =>
    match getTask s id with
    | some x =>
      if x.exited && !x.spec && leastTask s x && !taskOwes s x then
        let s1 := { s with tasks := s.tasks.filter (fun y => !(y.id == id)) }
        .next (onCtx s1 x.ctx (fun c => { c with taskMax := if c.taskMax < x.t then x.t else c.taskMax }))
      else .next s
    | none => .next s
  | _ => .next s

end Sys2Proof.Machine
end

