-- ==== Sys2Proof/Machine/Copy.lean ====
section
/-! DEFINITION. Engine registers, the copy and chain commands, streams, overlays and random numbers (R260 to R272, R276,
R279). -/
namespace Sys2Proof.Machine

/-! ### Engine registers (R260, R261, R305) -/

/-- Registers that do not exist: e12 to e15 and e28 to e31. -/
def engReserved (e : Nat) : Bool := decide ((12 ≤ e ∧ e ≤ 15) ∨ 28 ≤ e)

/-- A field of ones from bit lo to bit hi. -/
def ones (hi lo : Nat) : Nat := 2 ^ (hi + 1) - 2 ^ lo

/-- The bits of an engine register that a write changes: neither RSV nor RO. -/
def engWritable (e : Nat) : Nat :=
  match e with
  | 4 => ones 5 0 + ones 13 8 + ones 47 16
  | 5 => ones 14 0 + ones 63 24
  | 9 => ones 12 0 + ones 63 32
  | 10 => ones 47 0
  | 16 => ones 7 0
  | 20 | 21 | 27 => 0
  | 24 => ones 50 0
  | _ => ones 63 0

/-- The bits of an engine register that are not RSV: those a write changes, and the RO fields e10[59:48], e20, e21[24:0] and
e27[35:0] (R260, R305, R362). -/
def engDefined (e : Nat) : Nat :=
  match e with
  | 10 => ones 59 0
  | 20 => ones 63 0
  | 21 => ones 24 0
  | 27 => ones 35 0
  | _ => if engReserved e then 0 else engWritable e

/-- Write an engine register of a thread as `ewr` does. -/
def writeEng (th : Thread) (e : Nat) (v : Word) : Thread :=
  let m := word (engWritable e)
  { th with eng := mapSet 0 th.eng e ((mapGet 0 th.eng e &&& ~~~m) ||| (v &&& m)) }

/-- `ewr` (R261). -/
def execEwr (e : BitVec 6) (a : RegNo) (s : State) :=
  runBody s (do
    if 32 ≤ e.toNat then .error (.trap 0x01 0) else .ok ()
    if engReserved e.toNat then .error (.trap 0x02 0) else .ok ()
    let r ← readOnlyForm s [a]
    .ok (retire (setCur s (writeEng r.2 e.toNat (on1 id r.1)))))

/-- `erd` (R261). -/
def execErd (d : RegNo) (e : BitVec 6) (s : State) :=
  runBody s (do
    if 32 ≤ e.toNat then .error (.trap 0x01 0) else .ok ()
    if engReserved e.toNat then .error (.trap 0x02 0) else .ok ()
    let r ← readForm s [] d
    .ok (retire (writeReg (setCur s r.2) d (mapGet 0 (cur s).eng e.toNat))))

/-- `rnd` (R279): the generator steps also where the value is discarded. -/
def execRnd (d : RegNo) (s : State) :=
  runBody s (do
    let r ← readForm s [] d
    .ok (retire (writeReg (setCur s (stepGen r.2)) d (nextDraw (cur s)))))

/-! ### The values of a copy or chain command (R262, R266, R267) -/

/-- A rounding code of an engine register: 0b101 acts as 0b000 (R260). -/
def engRf (c : Nat) : Rf :=
  match Rf.ofCode (BitVec.ofNat 3 c) with
  | some .rsr => .rne
  | some r => r
  | none => .rne

/-- An engine register of a command's snapshot. -/
def CopyCmd.eng (k : CopyCmd) (e : Nat) : Word := mapGet 0 k.regs e

/-- The formats a block-scaled record may have (R101). -/
def mxKind (f : Fmt) : Bool := f == .e4m3 || f == .e5m2 || f == .e3m2 || f == .e2m3 || f == .e2m1 || f == .i8

/-- A record is unscaled, or block-scaled in a format that can be. -/
def scaleOk (r : ShapeRec) : Bool := r.scale == 0 || mxKind r.format

/-- An element as read: its bits, its block's scale byte, and whether it holds an uncorrectable error. -/
structure ElemIn where
  bits  : Nat
  scale : Nat
  bad   : Bool

/-- Read element i of a record, with its block's scale (R102). -/
def readScaled (ag : Agent) (r : ShapeRec) (scales : Word) (i : Nat) : Eng ElemIn := do
  let x ← readElem ag r i
  if r.scale = 5 then do
    let c ← engRead ag (scales + word (i / 32)) 1
    pure ⟨x.1, c.1, x.2 || c.2⟩
  else pure ⟨x.1, 0, x.2⟩

/-- The exact value of an element, its encoding flushed under the environment (R101, R110, R114). -/
def elemInVal (r : ShapeRec) (env : Env) (x : ElemIn) : Val :=
  let f := r.format
  if r.scale = 5 then mxVal f (flushIn f env x.bits) x.scale
  else if f.isInt then intVal (decodeInt f x.bits)
  else operand f env x.bits

/-- An exact value in a format (R105, R108, R114). -/
def valBits (f : Fmt) (env : Env) (v : Val) : Nat :=
  if f.isInt then intBits f.width (roundInt f.width f.isSigned env.rf 0 v).1 else (roundFmt f env 0 v).bits

/-- The working type of a chain (R267). The model's choice: its 64-bit integers are signed, so that an unsigned source of 2^63 or more
saturates and minimum and maximum compare signed values (log 121). -/
def chainType (k : CopyCmd) : Fmt :=
  if k.dst.format.isInt then .i64
  else if k.src.format = .f64 ∨ k.dst.format = .f64 ∨ (match k.y with | some y => decide (y.format = .f64) | none => false) = true
    then .f64
  else .f32

/-- One chain operation on encodings of a floating working type. -/
def chainFloat (f : Fmt) (env : Env) (op v w k : Nat) : Nat :=
  match op with
  | 0x01 => (fpAdd f env 0 v w).bits
  | 0x02 => (fpSub f env 0 v w).bits
  | 0x03 => (fpMul f env 0 v w).bits
  | 0x04 => (fpMinMax f env false v w).bits
  | 0x05 => (fpMinMax f env true v w).bits
  | 0x06 => (fpAdd f env 0 v k).bits
  | 0x07 => (fpMul f env 0 v k).bits
  | 0x08 => (fpMinMax f env false v k).bits
  | 0x09 => (fpMinMax f env true v k).bits
  | 0x0A => (roundFmt f env 0 (operand f env v).neg).bits
  | 0x0B =>
    let x := operand f env v
    (roundFmt f env 0 (if x.sign then x.neg else x)).bits
  | 0x0C => (fpMinMax f env true v 0).bits
  | 0x0D => (fpSub f env 0 k v).bits
  | 0x0E => (fpFma f env 0 false v w k).bits
  | _ => v

/-- One chain operation on 64-bit integers. -/
def chainInt (op : Nat) (v w k : Word) : Word :=
  match op with
  | 0x01 => v + w
  | 0x02 => v - w
  | 0x03 => v * w
  | 0x04 => if v.slt w then v else w
  | 0x05 => if v.slt w then w else v
  | 0x06 => v + k
  | 0x07 => v * k
  | 0x08 => if v.slt k then v else k
  | 0x09 => if v.slt k then k else v
  | 0x0A => 0 - v
  | 0x0B => if v.slt 0 then 0 - v else v
  | 0x0C => if v.slt 0 then 0 else v
  | 0x0D => k - v
  | 0x0E => v * w + k
  | 0x0F => v &&& w
  | 0x10 => v ||| w
  | 0x11 => v ^^^ w
  | 0x12 => v <<< (k.toNat % 64)
  | 0x13 => v.sshiftRight (k.toNat % 64)
  | _ => v

/-- The operation codes of OPS up to the first zero. -/
def chainOps (ops : Word) : List Nat := ((List.range 8).map (fun j => bits ops (6 * j + 5) (6 * j))).takeWhile (· != 0)

/-- Codes that read y, and codes for integers only. -/
def opReadsY (op : Nat) : Bool := decide ((1 ≤ op ∧ op ≤ 5) ∨ op = 0x0E ∨ (0x0F ≤ op ∧ op ≤ 0x11))
def opIntOnly (op : Nat) : Bool := decide (0x0F ≤ op)

/-- The operation list is invalid (field 0x0D, R267). -/
def opsInvalid (ops : Word) (float hasY : Bool) : Bool :=
  let all := (List.range 8).map (fun j => bits ops (6 * j + 5) (6 * j))
  let used := chainOps ops
  all.any (fun o => decide (0x13 < o)) || (all.drop used.length).any (· != 0) || (float && used.any opIntOnly) ||
    (!hasY && used.any opReadsY)

/-- The chain's result for one element, as an exact value of the working type. -/
def chainVal (k : CopyCmd) (x y : ElemIn) : Val :=
  let env := envOf k.cfg .rne
  let f := chainType k
  let v := valBits f env (elemInVal k.src env x)
  let w := match k.y with | some r => valBits f env (elemInVal r env y) | none => 0
  let ops := chainOps (k.eng 24)
  if f.isInt then
    let r := ops.foldl (fun v op => chainInt op v (word w) (k.eng 26)) (word v)
    intVal (toSigned 64 r.toNat)
  else
    let c := (convertFmt f .f64 env 0 (k.eng 26).toNat).bits
    decodeFloat f (ops.foldl (fun v op => chainFloat f env op v w c) v)

/-- The final conversion's environment: RF of e16 for `cpy`, CRF of e24 for `chn`. -/
def copyEnv (k : CopyCmd) : Env :=
  envOf k.cfg (engRf (if k.chain then bits (k.eng 24) 50 48 else bits (k.eng 16) 2 0))

/-- The element's value before its final conversion. -/
def copyVal (k : CopyCmd) (x y : ElemIn) : Val :=
  let env := copyEnv k
  if k.chain then
    let v := chainVal k x y
    if chainType k = .i64 then v
    else
      let f := chainType k
      operand f env (roundFmt f envBare 0 v).bits
  else elemInVal k.src env x

/-- Bits are copied unchanged where formats and scale fields agree (R262). -/
def copyRaw (k : CopyCmd) : Bool := !k.chain && decide (k.src.fmt = k.dst.fmt ∧ k.src.scale = k.dst.scale)

/-- The bits written for the elements of one unit, and the scale byte of a block-scaled one (R262). -/
def copyOut (k : CopyCmd) (ins : List (ElemIn × ElemIn)) : List Nat × Nat :=
  let f := k.dst.format
  if copyRaw k then (ins.map (fun p => p.1.bits), (ins.head?.map (fun p => p.1.scale)).getD 0)
  else if k.dst.scale = 5 then
    let r := mxEncode f (copyEnv k) (ins.map (fun p => copyVal k p.1 p.2))
    (r.2, r.1)
  else (ins.map (fun p => valBits f (copyEnv k) (copyVal k p.1 p.2)), 0)

/-! ### Performing a command element by element -/

/-- Elements performed together: a block of a block-scaled destination, else one. -/
def copyUnit (k : CopyCmd) : Nat := if k.dst.scale = 5 then 32 else 1

/-- The first element a command performs: PROGRESS, down to its block. -/
def copyFirst (k : CopyCmd) : Nat := k.start / copyUnit k * copyUnit k

/-- The lowest element not performed, none when all are. -/
def copyLowest (k : CopyCmd) : Option Nat :=
  ((List.range (recCount k.dst)).drop (copyFirst k)).find? (fun i => !k.done.contains i)

/-- The agent of a command. -/
def copyAgent (core : Nat) (k : CopyCmd) : Agent := ⟨core, k.slot, k.uid, k.ctx, k.pc, if k.chain then 2 else 1, k.id, core⟩

/-- How many signal words a command writes, and the bound of one (R264). -/
def signalCount (k : CopyCmd) : Nat :=
  let n := recCount k.dst
  let st := (k.eng 23).toNat
  if bits (k.eng 16) 7 7 = 0 then 0 else if st = 0 then 1 else (n + st - 1) / st
def signalBound (k : CopyCmd) (j : Nat) : Nat :=
  let n := recCount k.dst
  let st := (k.eng 23).toNat
  if st = 0 ∨ n < (j + 1) * st then n else (j + 1) * st

/-- Write a signal word with its bound and set it full; a window without state refuses it (R260, R264). -/
def writeSignal (ag : Agent) (va : Word) (v : Nat) : Eng Unit := do
  let x ← engFind ag va 8 false true
  let l := x.loc
  if l.win.hasState || l.win = .unicast then
    if x.lost then engLost ag va
    else if l.drop then engTouch ag l
    else if l.away then pure ()
    else do
      engTrack ag l va 8
      modify (fun s => fillWord (storeAt s l.key 8 v 0) l.key)
  else engFail 0x06 va

/-- Write the signal words from j on whose elements are all performed; how many are written then. -/
def writeSignals (ag : Agent) (k : CopyCmd) (low : Nat) : Nat → Nat → Eng Nat
  | 0, j => pure j
  | n + 1, j =>
    if j < signalCount k ∧ signalBound k j ≤ low then do
      if signalBound k j ≤ k.start then pure ()
      else writeSignal ag (k.eng 19 + word (8 * j)) (signalBound k j)
      writeSignals ag k low n (j + 1)
    else pure j

/-- Read what a unit needs. -/
def copyReads (ag : Agent) (k : CopyCmd) (els : List Nat) : Eng (List (ElemIn × ElemIn)) :=
  els.mapM (fun i => do
    let x ← readScaled ag k.src (k.eng 17) i
    match k.y with
    | some r => do
      let y ← readScaled ag r 0 i
      pure (x, y)
    | none => pure (x, ⟨0, 0, false⟩))

/-- The elements of the unit that begins at e. -/
def unitElems (k : CopyCmd) (e : Nat) : List Nat := (List.range (copyUnit k)).map (e + ·)

/-- The scale bytes of a block-scaled destination, at DSCALE, as a record of bytes (R262). -/
def scaleRec (k : CopyCmd) : ShapeRec :=
  { addr := 0, base := k.eng 18, fmt := 0, scale := 0, swz := 0, rank := 1, ext := [recCount k.dst / 32, 0, 0, 0], str := [1, 0, 0, 0] }

/-- Write or mark the scale byte of the block at e, and fill the word it completes (R255, R262, R405). -/
def writeScale (ag : Agent) (k : CopyCmd) (e v : Nat) (bad : Bool) (isDone isGood : Nat → Bool) : Eng Unit := do
  let r := scaleRec k
  let first := copyFirst k / 32
  if bad then markElem ag r (e / 32)
  else (elemPieces r (e / 32)).forM (writePiece ag r first (recCount r) (fun j => isGood (32 * j)) v)
  fillWords ag r (recCount r) (fun j => isDone (32 * j)) (e / 32)

/-- Perform the unit at e: the new command, with what is done (R262, R264, R405). -/
def copyStep (core : Nat) (k : CopyCmd) (e : Nat) : Eng CopyCmd := do
  let ag := copyAgent core k
  let els := unitElems k e
  let count := recCount k.dst
  let ins ← copyReads ag k els
  let bad := ins.any (fun p => p.1.bad || p.2.bad)
  let k2 := { k with done := els.foldl setIns k.done, bad := if bad then k.bad ++ els else k.bad }
  let isDone := fun j => decide (j < copyFirst k) || k2.done.contains j
  let out := copyOut k ins
  (els.zip out.1).forM (fun p =>
    if bad then markElem ag k.dst p.1
    else (elemPieces k.dst p.1).forM
      (writePiece ag k.dst (copyFirst k) count (fun j => isDone j && !k2.bad.contains j) p.2))
  els.forM (fillWords ag k.dst count isDone)
  if k.dst.scale = 5 then writeScale ag k e out.2 bad isDone (fun j => isDone j && !k2.bad.contains j) else pure ()
  let low := (copyLowest k2).getD count
  let j ← writeSignals ag k low (signalCount k) k.sigs
  pure { k2 with sigs := j }

/-- The command the engine serves for a slot: the first issued (R263). -/
def firstCopy (s : State) (c t : Nat) : Option CopyCmd := (getCore s c).copies.find? (fun k => k.slot == t)

/-- Replace a command. -/
def setCopy (s : State) (c : Nat) (k : CopyCmd) : State :=
  let co := getCore s c
  putCore s c { co with copies := co.copies.map (fun x => if x.id = k.id then k else x) }

/-- The element begins a unit the command still owes. -/
def copyDue (k : CopyCmd) (e : Nat) : Bool :=
  decide (copyFirst k ≤ e ∧ e < recCount k.dst ∧ e % copyUnit k = 0) && !k.done.contains e

/-- COPY_ELEMENT_WRITE (R262). -/
def execCopyElementWrite (s : State) : Host.Outcome State Fault Refusal :=
  match s.event with
  | .copyElementWrite c t e =>
    match firstCopy s c t with
    | some k =>
      if copyDue k e then
        whenOk s (copyAgent c k) (do
          let k2 ← copyStep c k e
          modify (fun st => setCopy st c k2))
      else .next s
    | none => .next s
  | _ => .next s

/-- COPY_COMPLETE: PROGRESS returns to 0 and C falls (R262). -/
def execCopyComplete (s : State) : Host.Outcome State Fault Refusal :=
  match s.event with
  | .copyComplete c t =>
    match firstCopy s c t with
    | some k =>
      if (copyLowest k).isNone then
        let co := getCore s c
        let s1 := putCore s c { co with copies := co.copies.filter (fun x => !(x.id == k.id)) }
        .next (lowerC (setEng s1 c t k.uid 22 0) c t k.uid 1)
      else .next s
    | none => .next s
  | _ => .next s

/-- The record a failing unit names in e21: 0 the source, 2 y, else the destination. -/
def failedRecord (s : State) (core : Nat) (k : CopyCmd) (e : Nat) : Nat :=
  let ag := copyAgent core k
  match runEng s ((unitElems k e).forM (fun i => do let _ ← readScaled ag k.src (k.eng 17) i)) with
  | .error _ => 0
  | .ok _ =>
    match runEng s (do let _ ← copyReads ag k (unitElems k e)) with
    | .error _ => 2
    | .ok _ => 1

/-- A slot's first command stops: later ones are discarded, PROGRESS, FADDR and e21 tell of it, the thread traps, and each command lowers
the C of the thread that issued it, be it spilled beneath a fold in that slot (R265). -/
def stopCopy (s : State) (c t : Nat) (k : CopyCmd) (rec_ cause : Nat) (va : Word) : State :=
  let co := getCore s c
  let later := co.copies.filter (fun x => x.slot == t && x.id != k.id)
  let s1 := putCore s c { co with copies := co.copies.filter (fun x => x.slot != t) }
  let s2 := setEng s1 c t k.uid 22 (word ((copyLowest k).getD 0))
  let s3 := reportEngine s2 c t k.uid va cause 0 rec_ (if k.chain then 1 else 0) later.length
  let s4 := later.foldl (fun st x => lowerC st c t x.uid 1) (lowerC s3 c t k.uid 1)
  postTrap s4 c t k.uid k.id cause va k.pc

/-- What a failing unit leaves behind: its elements, where only its signal words fail; they count as not yet performed (R264,
R265). -/
def failedWrites (s : State) (core : Nat) (k : CopyCmd) (e : Nat) : State :=
  match runEng s (do let _ ← copyStep core { k with sigs := signalCount k } e) with
  | .ok s1 => s1
  | .error _ => s

/-- ENGINE_FAULT_STOP: a unit that cannot be performed stops the command (R265). -/
def execEngineFaultStop (s : State) : Host.Outcome State Fault Refusal :=
  match s.event with
  | .engineFaultStop c t e =>
    match firstCopy s c t with
    | some k =>
      if copyDue k e then
        match runEng s (do let _ ← copyStep c k e) with
        | .ok _ => .next s
        | .error (0, _) => .next s
        | .error (cause, va) => .next (stopCopy (failedWrites s c k e) c t k (failedRecord s c k e) cause va)
      else .next s
    | none => .next s
  | _ => .next s

/-! ### Issuing `cpy` and `chn` -/

/-- An engine register value is invalid (field 0x0E, R260). -/
def copyRegsBad (th : Thread) : Bool :=
  let e16 := mapGet 0 th.eng 16
  let sb := mapGet 0 th.eng 19
  let o := sb.toNat % 2 ^ 48
  let local_ := decide (o < 2 ^ 21 ∨ (0x100000000 ≤ o ∧ o < 0x180000000))
  decide (6 ≤ bits e16 5 3) ||
    (bits e16 7 7 == 1 && (decide (sb.toNat % 8 ≠ 0) || (bits sb 63 48 == 0xF && !local_)))

/-- The destination lies in the register window or a reduce-group window (R262). -/
def copyWindowBad (s : State) (va : Word) : Bool :=
  match (resolve s s.core s.slot (cur s).ctx va 1 false true).1 with
  | .ok l => l.win == .regWin || l.win == .reduce
  | .error _ => false

/-- Both commands (R262, R266). With PREEMPTY the destination's words are emptied before the issue completes; it waits while one of them
stands behind another access or its home cannot serve it (R292, R412). -/
def copyForm (s : State) (a b : RegNo) (chain : Bool) : Except Stop State := do
  let r ← readOnlyForm s [a, b]
  checkHeld s 0b001100
  checkSpec s
  match r.1 with
  | [x, y] =>
    let kind := if chain then 1 else 0
    let chy := mapGet 0 r.2.eng 25
    let (src, s1) ← readRecord s x 0 kind false scaleOk
    let (dst, s2) ← readRecord s1 y 1 kind true (fun d => scaleOk d && !(chain && d.scale == 5 && d.format.isInt))
    let (yrec, s3) ← if chain && chy != 0 then do
        let q ← readRecord s2 chy 2 kind false (fun d => d.scale == 0)
        .ok (some q.1, q.2)
      else .ok (none, s2)
    let n := recCount dst
    let k : CopyCmd :=
      { id := s3.nextId, slot := s.slot, uid := r.2.uid, ctx := r.2.ctx, chain := chain, pc := r.2.pc, a := x, b := y,
        src := src, dst := dst, y := yrec, regs := r.2.eng, cfg := curCfg s, start := (mapGet 0 r.2.eng 22).toNat
        done := [], bad := [], sigs := 0 }
    if recCount src ≠ n ∨ (match yrec with | some q => decide (recCount q ≠ n) | none => false) = true then
      checkFault s3 0x0C 0 kind x
    else if chain && opsInvalid (mapGet 0 r.2.eng 24) (!(chainType k).isInt) yrec.isSome then checkFault s3 0x0D 0 kind x
    else if copyRegsBad r.2 then checkFault s3 0x0E 0 kind x
    else if copyWindowBad s3 dst.base then .error (.trap 0x06 dst.base)
    else if n = 0 then
      let s4 := takePorts s3 r.2
      .ok (retire (setCur s4 { cur s4 with eng := mapSet 0 (cur s4).eng 22 0 }))
    else
      checkCount r.2.cntC 31
      let s3 := takePorts s3 r.2
      let s4 ← if bits (mapGet 0 r.2.eng 16) 6 6 = 1 then
          (match runEng s3 (emptyWords (copyAgent s.core k) dst) with
           | .ok st => .ok st
           | .error _ => .error (.wait .waitHome))
        else .ok s3
      let co := getCore s4 s.core
      let s5 := putCore { s4 with nextId := s4.nextId + 1 } s.core
        { co with copies := co.copies ++ [{ k with id := s4.nextId }] }
      .ok (retire (addC s5))
  | _ => .ok (retire s)

/-- `cpy` (R262). -/
def execCpy (a b : RegNo) (s : State) := runBody s (copyForm s a b false)

/-- `chn` (R266). -/
def execChn (a b : RegNo) (s : State) := runBody s (copyForm s a b true)

/-! ### Streams (R268 to R272) -/

/-- `sbind` (R268). -/
def execSbind (d a : RegNo) (s : State) :=
  runBody s (do
    checkNames (cur s) [a]
    let th := cur s
    if isLocal th.hdr d.toNat && (portOf th d).isNone && decide (th.ports.length < 4) then .ok () else .error (.trap 0x02 0)
    let r ← readFrom s [a]
    dstReady s th d
    let v := on1 id r.1
    let out := v.getLsbD 0
    checkHeld s (if out then 0b001000 else 0b000100)
    checkSpec s
    if bits v 5 2 ≠ 0 then .error (.trap 0x03 v) else .ok ()
    let va := word (v.toNat / 64 * 64)
    let (rec, s1) ← readRecord s va (if out then 1 else 0) 2 out (fun q => q.scale == 0)
    if out then checkCount th.cntC 31 else .ok ()
    let p : Port :=
      { id := s1.nextId, reg := d, addr := va, output := out, waitFull := v.getLsbD 1, pc := th.pc, shape := rec, pos := 0
        stopped := false, fetched := [] }
    let s1 := takePorts { s1 with nextId := s1.nextId + 1 } r.2
    let s2 := setCur s1 { cur s1 with ports := (cur s1).ports ++ [p] }
    .ok (retire (if out then addC s2 else s2)))

/-- `sunb` (R272): it waits for a result that is owed to d; C of an output port falls when every appended element has been
performed, or has fallen when the port stopped (R251). -/
def execSunb (d : RegNo) (s : State) :=
  runBody s (do
    checkNames (cur s) [d]
    checkHeld s 0
    checkSpec s
    match portOf (cur s) d with
    | none => .error (.trap 0x02 0)
    | some p =>
      dstReady s (cur s) d
      let th := { cur s with ports := (cur s).ports.filter (fun q => !(q.reg == d)) }
      let s1 := setCur s (setReg th d (fullReg 0))
      if p.output && !p.stopped then
        .ok (retire (sendRequest s1 { threadRequest s with kind := .streamEnd p.id p.shape p.pos, pc := p.pc, d := d, va := p.addr }))
      else .ok (retire s1))

/-- The register value of an element's bits (R269): signed integers are sign-extended, everything else zero-extended. -/
def streamVal (f : Fmt) (b : Nat) : Word := if f.isInt && f.isSigned then BitVec.ofInt 64 (decodeInt f b) else word b

/-- The words of an element are full, where they carry state. -/
def elemFull (ag : Agent) (r : ShapeRec) (i : Nat) : Eng Bool :=
  (elemWords r i).foldlM (fun ok k => do
    let l ← engPlace ag (word (8 * k)) 8 true false
    let s ← get
    pure (ok && (l.drop || l.away || isFull s l.key))) true

/-- The next fetch of a port: nothing while a word it waits for is empty (R269). -/
def fetchStep (ag : Agent) (p : Port) : Eng (Option Fetched) := do
  let i := p.pos + p.fetched.length
  let full ← if p.waitFull then elemFull ag p.shape i else pure true
  if full then do
    let x ← readElem ag p.shape i
    let va := ((elemPieces p.shape i).head?.map (·.va)).getD 0
    pure (some ⟨if x.2 then 0 else streamVal p.shape.format x.1, if x.2 then 0x0A else 0, va⟩)
  else pure none

/-- What a port's next fetch finds: none while it waits, else the element or the failure (R269, R271). -/
def fetchElem (ag : Agent) (p : Port) (s : State) : Option (Fetched × State) :=
  match fetchStep ag p s with
  | .ok (some e, s1) => some (e, s1)
  | .ok (none, _) => none
  | .error (0, _) => none
  | .error (cause, va) => some (⟨0, cause, va⟩, s)

/-- A fetch that its home cannot serve parks there (R412). -/
def fetchPark (ag : Agent) (p : Port) (s : State) : State :=
  match fetchStep ag p s with
  | .error (0, va) => engPark s ag va
  | _ => s

/-- The agent of an input port: the command that its `sbind` issued (R280). -/
def portAgent (c t : Nat) (th : Thread) (p : Port) : Agent := ⟨c, t, th.uid, th.ctx, p.pc, 2, p.id, c⟩

/-- STREAM_ELEMENT_ARRIVAL: at most 16 ahead of the reader (R269); nothing is fetched past a failed element. -/
def execStreamElementArrival (s : State) : Host.Outcome State Fault Refusal :=
  match s.event with
  | .streamElementArrival c t i =>
    let th := getThread s c t
    match th.ports[i]? with
    | some p =>
      if !p.output && decide (p.fetched.length < 16 ∧ p.pos + p.fetched.length < recCount p.shape) &&
          p.fetched.all (fun e => e.cause == 0) then
        match fetchElem (portAgent c t th p) p s with
        | some (e, s1) =>
          .next (onThread s1 c t th.uid (fun x =>
            { x with ports := x.ports.map (fun q => if q.reg = p.reg then { q with fetched := q.fetched ++ [e] } else q) }))
        | none => .next (fetchPark (portAgent c t th p) p s)
      else .next s
    | none => .next s
  | _ => .next s

/-! ### Overlays (R276) -/

/-- An instruction memory slot of a core. -/
def imemSlot (co : Core) (b : Nat) : ImemSlot := if b = 0 then co.im0 else co.im1

/-- Replace one. -/
def setImem (co : Core) (b : Nat) (im : ImemSlot) : Core := if b = 0 then { co with im0 := im } else { co with im1 := im }

/-- The caddy's entry for an overlay. -/
def caddyFind (s : State) (ctx num : Nat) : Option Overlay :=
  match getCtx s ctx with
  | some x => x.caddy.find? (fun o => o.num == num)
  | none => none

/-- The status `ovl` returns at once, 0 when the load starts. -/
def ovlStatus (s : State) (c ctx : Nat) (a b : Word) : Nat :=
  let co := getCore s c
  let other := imemSlot co (1 - b.toNat)
  if 2 ^ 16 ≤ a.toNat ∨ 1 < b.toNat then 4
  else if (imemSlot co b.toNat).state = .loading then 5
  else if other.state = .valid ∧ other.overlay = a.toNat then 6
  else
    match caddyFind s ctx a.toNat with
    | none => 2
    | some o => if o.bad then 3 else 0

/-- Start a load: the slot leaves its state at this boundary (R89). -/
def startLoad (s : State) (c ctx a b uid t : Nat) (d : Option RegNo) : State :=
  let co := getCore s c
  putCore { s with nextId := s.nextId + 1 } c (setImem co b
    { state := .loading, overlay := a, ctx := ctx, bytes := [], fetched := (imemSlot co b).fetched, drop := false, loadBy := uid,
      loadId := s.nextId, loadSlot := t, loadReg := d })

/-- `ovl` (R276). -/
def execOvl (d a b : RegNo) (s : State) :=
  runBody s (do
    let r ← readForm s [a, b] d
    checkHeld s 0b000100
    checkSpec s
    match r.1 with
    | [x, y] =>
      let st := ovlStatus s s.core r.2.ctx x y
      if st = 0 then
        checkCount r.2.cntC 31
        let s1 := pendReg (setCur s r.2) d
        .ok (retire (addC (startLoad s1 s.core r.2.ctx x.toNat y.toNat r.2.uid s.slot (some d))))
      else .ok (retire (writeReg (setCur s r.2) d (word st)))
    | _ => .ok (retire s))

/-- Quarantine every overlay of an image (R276). -/
def quarantine (s : State) (ctx image : Nat) : State :=
  onCtx s ctx (fun x => { x with caddy := x.caddy.map (fun o => if o.image = image then { o with bad := true } else o) })

/-- Hand a load's status to the thread that asked for it; C falls, of a thread that stands spilled beneath a fold too (R276). -/
def answerLoad (s : State) (c : Nat) (im : ImemSlot) (v : Nat) : State :=
  match im.loadReg with
  | none => s
  | some d =>
    let th := getThread s c im.loadSlot
    let s1 := if th.uid = im.loadBy ∧ th.status ≠ .free then writeLate s c im.loadSlot im.loadId d (fullReg (word v)) else s
    lowerC s1 c im.loadSlot im.loadBy 1

/-- OVERLAY_LOAD_COMPLETE: the hash decides between valid and invalid (R276). -/
def execOverlayLoadComplete (s : State) : Host.Outcome State Fault Refusal :=
  match s.event with
  | .overlayLoadComplete c b =>
    let co := getCore s c
    let im := imemSlot co b
    if im.state = .loading then
      match caddyFind s im.ctx im.overlay with
      | some o =>
        if sha256 o.bytes = o.hash then
          let after := if im.drop then ImemState.empty else .valid
          let s1 := putCore s c (setImem co b { im with state := after, drop := false, bytes := memSetBytes [] 0 o.bytes, loadReg := none })
          .next (answerLoad s1 c im 0)
        else
          let after := if im.drop then ImemState.empty else .invalid
          let s1 := putCore s c (setImem co b { im with state := after, drop := false, loadReg := none })
          .next (answerLoad (quarantine s1 im.ctx o.image) c im 1)
      | none =>
        .next (answerLoad (putCore s c (setImem co b { im with state := .invalid, drop := false, loadReg := none })) c im 1)
    else .next s
  | _ => .next s

end Sys2Proof.Machine
end

