-- ==== Sys2Proof/Machine/Msg.lean ====
section
/-! DEFINITION. Keyed sends and bin tables (R355 to R358), and watches (R273 to R275). -/
namespace Sys2Proof.Machine

/-! ### Bin tables and keyed sends -/

/-- Read n aligned words one by one, as one value. -/
def descWords (s : State) (va : Word) (deny : Nat) : Nat → Except Stop (Nat × State)
  | 0 => .ok (0, s)
  | n + 1 => do
    let (x, s1) ← descWords s va deny n
    let (w, s2) ← descRead s1 (va + word (8 * n)) 8 deny
    .ok (x + w * 2 ^ (64 * n), s2)

/-- The table of a descriptor, none where a field is out of range or reserved (R355). -/
def binTableOf (ctx d : Nat) : Option BinTable :=
  let b : BinTable := ⟨ctx, fieldAt d 0 8, fieldAt d 8 4, fieldAt d 12 1, fieldAt d 13 1⟩
  if b.base % 8 = 0 ∧ 1 ≤ b.nbins ∧ b.nbins ≤ 131072 ∧ b.op ≤ 5 ∧ b.typ ≤ 1 ∧ fieldAt d 14 18 = 0 ∧
      (b.typ = 0 ∨ (1 ≤ b.op ∧ b.op ≤ 3)) then some b else none

/-- A range of offsets lies within one allocation of the context. -/
def inAllocation (co : Core) (ctx off n : Nat) : Bool :=
  co.allocs.any (fun a => a.ctx == ctx && decide (a.entry < 32 ∧ a.off ≤ off ∧ off + n ≤ a.off + a.size))

/-- `rxa.b`N (R355). -/
def rxaForm (s : State) (a : RegNo) (table : Nat) : Except Stop State := do
  let r ← readOnlyForm s [a]
  checkHeld s 0
  let va := on1 id r.1
  if va.toNat % 8 ≠ 0 then .error (.trap 0x03 va) else .ok ()
  checkSpec s
  let (d, s1) ← descWords (setCur s r.2) va 0x06 4
  match binTableOf (cur s).ctx d with
  | none => .error (.trap 0x06 va)
  | some b =>
    if inAllocation (getCore s s.core) (cur s).ctx b.base (8 * b.nbins + 8) then .ok () else .error (.trap 0x06 va)
    checkCount r.2.cntS 15
    let cores := (coresOf s1 (cur s).ctx s.core (threadPlace s1 s.core (cur s))).map (·.2)
    .ok (retire (sendRequest (addS s1) { threadRequest s1 with kind := .rxa table b cores, va := va }))

/-- `rxa.b0` (R355). -/
def execRxaB0 (a : RegNo) (s : State) := runBody s (rxaForm s a 0)
/-- `rxa.b1` (R355). -/
def execRxaB1 (a : RegNo) (s : State) := runBody s (rxaForm s a 1)
/-- `rxa.b2` (R355). -/
def execRxaB2 (a : RegNo) (s : State) := runBody s (rxaForm s a 2)
/-- `rxa.b3` (R355). -/
def execRxaB3 (a : RegNo) (s : State) := runBody s (rxaForm s a 3)

/-- The home that a keyed send goes to is remembered for the fence's touched-bank mask (R298). -/
def touchTarget (s : State) (r : Request) (level index : Nat) : State :=
  match sendTarget s r level index with
  | some (c, _) => touchHome s (spKey c)
  | none => s

/-- `ksend.b`N: the key and the value leave for route(key) over the thread's place (R357). -/
def ksendForm (s : State) (a b : RegNo) (table : Nat) : Except Stop State := do
  let r ← readOnlyForm s [a, b]
  checkHeld s 0b000011
  checkSpec s
  match r.1 with
  | [k, v] =>
    checkCount r.2.cntS 15
    let s1 := setCur s r.2
    let p := threadPlace s s.core (cur s)
    let q := { threadRequest s1 with kind := .ksend table 1 p.level p.index, b := v, e := k }
    .ok (retire (sendRequest (addS (touchTarget s1 q p.level p.index)) q))
  | _ => .ok (retire s)

/-- `ksend.b0` (R357). -/
def execKsendB0 (a b : RegNo) (s : State) := runBody s (ksendForm s a b 0)
/-- `ksend.b1` (R357). -/
def execKsendB1 (a b : RegNo) (s : State) := runBody s (ksendForm s a b 1)
/-- `ksend.b2` (R357). -/
def execKsendB2 (a b : RegNo) (s : State) := runBody s (ksendForm s a b 2)
/-- `ksend.b3` (R357). -/
def execKsendB3 (a b : RegNo) (s : State) := runBody s (ksendForm s a b 3)

/-- The bin operation on two values (R357): add, min, max, or. -/
def binOp (op typ : Nat) (x y : Word) : Word :=
  if typ = 1 then
    match op with
    | 1 => word (fpAdd .f64 envBare 0 x.toNat y.toNat).bits
    | 2 => word (fpMinMax .f64 envBare false x.toNat y.toNat).bits
    | _ => word (fpMinMax .f64 envBare true x.toNat y.toNat).bits
  else
    match op with
    | 1 => x + y
    | 2 => if x.slt y then x else y
    | 3 => if x.slt y then y else x
    | _ => x ||| y

/-- One step of the receive-and-accumulate unit of a core (R357, R405): `times` sends of one key with operand v. A marked word is
left as it is; no watch is woken. -/
def binStep (s : State) (core : Nat) (b : BinTable) (bin times : Nat) (v : Word) : State :=
  let k := binKey core b bin
  if isMarked s k then s
  else
    let x := word (peek s k 8)
    let y := if b.op = 0 ∨ b.op = 5 then x + word times else binOp b.op b.typ x v
    storeQuiet s k 8 y.toNat

/-- A keyed send is performed at its target core. -/
def performSend (s : State) (r : Request) (table times level index : Nat) (v : Word) : State :=
  match sendTarget s r level index with
  | none => s
  | some (c, q) =>
    match coreTable s c r.ctx table with
    | none => s
    | some b => binStep s c b (q % b.nbins) times v

/-- The operand of two merged sends, as the target's table combines them (R155, R357). -/
def mergeValue (s : State) (r : Request) (table level index : Nat) (x y : Word) : Word :=
  match sendTarget s r level index with
  | none => x
  | some (c, _) =>
    match coreTable s c r.ctx table with
    | none => x
    | some b => if b.op = 0 ∨ b.op = 5 then x else binOp b.op b.typ x y

/-- Its target is sealed (R407, R408). -/
def sendSealed (s : State) (r : Request) (level index : Nat) : Bool :=
  match sendTarget s r level index with
  | some p => (getCore s p.1).sealed
  | none => false

/-- RXA_CONFIG_TAKE: one core takes a configuration; S falls with the last (R355). -/
def execRxaConfigTake (s : State) : Host.Outcome State Fault Refusal :=
  match s.event with
  | .rxaConfigTake req c =>
    match getRequest s req with
    | some r =>
      match r.kind with
      | .rxa table b cores =>
        if cores.contains c || cores.isEmpty then
          let co := getCore s c
          let s1 := if cores.isEmpty || co.killed then s else putCore s c { co with bins := mapPut co.bins table b }
          let left := cores.filter (fun x => !(x == c))
          if left.isEmpty then .next (lowerS (dropRequest s1 req) r)
          else .next (setRequest s1 { r with kind := .rxa table b left })
        else .next s
      | _ => .next s
    | none => .next s
  | _ => .next s

/-! ### Watches -/

/-- `wta` (R273). -/
def execWta (d a : RegNo) (s : State) :=
  runBody s (do
    let r ← readForm s [a] d
    checkHeld s 0
    let va := on1 id r.1
    let (l, s1) ← checkAddr (setCur s r.2) va 8 8 true false (fun w => w == .localSp || w == .urn)
    checkSpec s
    let co := getCore s1 s1.core
    let mine := co.mons.any (fun m => m.uid == (cur s1).uid && m.key == l.key)
    if l.drop then .ok (retire (writeReg (touchGuard s1 l) d 0))
    else if mine then .ok (retire (writeReg s1 d 0))
    else if 64 ≤ co.mons.length then .ok (retire (writeReg s1 d 1))
    else
      let s2 := putCore s1 s1.core { co with mons := co.mons ++ [⟨l.key, va, s1.slot, (cur s1).uid, 0⟩] }
      .ok (retire (writeReg s2 d 0)))

/-- The thread's earliest-fired entry. -/
def firstFired (uid : Nat) : List Monitor → Option Monitor
  | [] => none
  | m :: r =>
    let rest := firstFired uid r
    if m.uid = uid ∧ 0 < m.fired then
      match rest with
      | some x => if x.fired < m.fired then some x else some m
      | none => some m
    else rest

/-- `wtw` (R274): the thread waits while it has entries and none has fired. -/
def execWtw (d : RegNo) (s : State) :=
  runBody s (do
    let r ← readForm s [] d
    checkHeld s 0
    checkSpec s
    let co := getCore s s.core
    let uid := (cur s).uid
    match firstFired uid co.mons with
    | some m =>
      let s1 := putCore s s.core { co with mons := co.mons.filter (fun x => !(x.uid == uid && x.key == m.key)) }
      .ok (retire (writeReg (setCur s1 r.2) d m.va))
    | none =>
      if co.mons.any (fun m => m.uid == uid) then .error (.wait .waitHome)
      else .ok (retire (writeReg (setCur s r.2) d 0)))

/-- `wtd`: disarm the thread's entry on a word (R275). -/
def execWtd (a : RegNo) (s : State) :=
  runBody s (do
    let r ← readOnlyForm s [a]
    checkHeld s 0
    checkSpec s
    let va := on1 id r.1
    let key := match resolve s s.core s.slot (cur s).ctx va 8 true false with
      | (.ok l, _) => some l.key
      | (.error _, _) => none
    let co := getCore s s.core
    let uid := (cur s).uid
    let s1 := putCore s s.core { co with
      mons := co.mons.filter (fun m => !(m.uid == uid && (m.va == va || key == some m.key))) }
    .ok (retire (setCur s1 r.2)))

end Sys2Proof.Machine
end

