-- ==== Sys2Proof/Machine/Edge.lean ====
section
/-! DEFINITION. Edge programs: `edge` with its checks, and the steps of a run (R359 to R369). -/
namespace Sys2Proof.Machine

/-! ### The descriptor (R359, R362) -/

/-- Report a failed check of `edge`: FADDR and e21 with KIND 3. -/
def edgeFault {α : Type} (s : State) (cause field : Nat) (faddr : Word) : Except Stop α :=
  let th := cur s
  .error (.trapAs { th with
    eng := mapSet 0 (mapSet 0 th.eng 20 faddr) 21 (word (cause + field * 2 ^ 8 + 3 * 2 ^ 18)) } cause faddr)

/-- Read the 192 bytes, 64 at a time. -/
def edgeRead (s : State) (va : Word) : Except Stop (Nat × State) := do
  let (x, s1) ← descRead s va 64 0x04
  let (y, s2) ← descRead s1 (va + 64) 64 0x04
  let (z, s3) ← descRead s2 (va + 128) 64 0x04
  .ok (x + y * 2 ^ 512 + z * 2 ^ 1024, s3)

/-- The fields, the headers still to be read. -/
def edgeDescOf (a : Word) (d : Nat) : EdgeDesc :=
  let fl := fieldAt d 4 1
  { addr := a, n := fieldAt d 0 4, out := fl.testBit 0, inn := fl.testBit 1, hcomb := fl.testBit 2, wgt := fl.testBit 3,
    cop := fieldAt d 5 1, alpha := if fieldAt d 6 1 = 0 then 12 else fieldAt d 6 1,
    beta := if fieldAt d 7 1 = 0 then 20 else fieldAt d 7 1, outOff := wordAt d 8, outTgt := wordAt d 16, outWgt := wordAt d 24,
    inOff := wordAt d 32, inSrc := wordAt d 40, inWgt := wordAt d 48, values := wordAt d 56, frontA := wordAt d 64,
    frontB := wordAt d 72, doneBm := wordAt d 80, finish := fieldAt d 88 4,
    limit := if fieldAt d 92 4 = 0 then 2 ^ 32 - 1 else fieldAt d 92 4, scatter := Header.zero, combine := Header.zero,
    apply := Header.zero, fin := wordAt d 120, work := fieldAt d 128 8, log := wordAt d 136 }

/-- An array's address is zero or misaligned. -/
def badArray (a : Word) : Bool := a == 0 || decide (a.toNat % 8 ≠ 0)

/-- The first failing field below the headers, as its offset over 8. -/
def edgeFieldsBad (x : EdgeDesc) (d : Nat) : Option Nat :=
  let tests : List (Nat × Bool) := [
    (0, x.n == 0 || fieldAt d 4 1 / 16 != 0 || (!x.out && !x.inn) || (!x.hcomb && !decide (1 ≤ x.cop ∧ x.cop ≤ 8))),
    (1, x.out && badArray x.outOff), (2, x.out && badArray x.outTgt), (3, x.out && x.wgt && badArray x.outWgt),
    (4, x.inn && badArray x.inOff), (5, x.inn && badArray x.inSrc), (6, x.inn && x.wgt && badArray x.inWgt),
    (7, badArray x.values), (8, badArray x.frontA), (9, badArray x.frontB), (10, badArray x.doneBm),
    (11, decide (2 < x.finish) || (x.finish != 0 && !x.inn))]
  (tests.find? (·.2)).map (·.1)

/-- The first failing field above the headers; `fits` says that the work area lies in an allocation. -/
def edgeTailBad (x : EdgeDesc) (d : Nat) (fits : Bool) : Option Nat :=
  let tests : List (Nat × Bool) := [
    (16, !fits), (17, x.log != 0 && decide (x.log.toNat % 8 ≠ 0)), (18, fieldAt d 144 48 != 0)]
  (tests.find? (·.2)).map (·.1)

/-- Read and check one header of a descriptor (R361): at least `l` locals. -/
def edgeHeader (s : State) (desc a : Word) (field l : Nat) : Except Stop (Header × State) := do
  let bad := fun (s : State) => edgeFault (α := Unit) s 0x06 (0x10 + field) desc
  if a.toNat % 64 ≠ 0 then bad s else .ok ()
  match descRead s a 64 0x04 with
  | .error (.trap c _) => edgeFault s c (0x10 + field) a
  | .error e => .error e
  | .ok (d, s1) =>
    let h := headerOf a.toNat d
    if !headerOk d || h.g != 0 || h.s != 0 || decide (h.l < l) then bad s1 else .ok ()
    .ok (h, s1)

/-- The work area lies within one allocation of the context on every core of the place (R360). -/
def workFits (s : State) (ctx : Nat) (cores : List (Nat × Nat)) (x : EdgeDesc) : Bool :=
  let c := cores.length
  let nb := (x.n + c - 1) / c
  decide (0 < c ∧ x.work % 8 = 0) &&
    cores.all (fun p => inAllocation (getCore s p.2) ctx x.work (8 * nb + 8 * ((nb + 63) / 64)))

/-- `edge` (R362). The 0x06 of an edge handler's kind comes first, as a privilege check does (log 91). A trap leaves the thread's
ports as they were (R52). -/
def execEdge (a : RegNo) (s : State) :=
  runBody s (do
    if (cur s).kind = .edgeHandler then .error (.trap 0x06 0) else .ok ()
    let r ← readOnlyForm s [a]
    checkHeld s 0b001100
    checkSpec s
    let va := on1 id r.1
    if va.toNat % 64 ≠ 0 then edgeFault s 0x06 0 va else .ok ()
    let (d, s1) ← edgeRead s va
    let x := edgeDescOf va d
    match edgeFieldsBad x d with
    | some f => edgeFault s1 0x06 (0x10 + f) va
    | none =>
      let (hs, s2) ← edgeHeader s1 va (wordAt d 96) 12 6
      let (hc, s3) ← if x.hcomb then edgeHeader s2 va (wordAt d 104) 13 4
        else if wordAt d 104 ≠ 0 then edgeFault s2 0x06 0x1D va else .ok (Header.zero, s2)
      let (ha, s4) ← edgeHeader s3 va (wordAt d 112) 14 5
      let p := corePlace s4 s4.core r.2.ctx (threadPlace s4 s4.core r.2)
      match edgeTailBad x d (workFits s4 r.2.ctx (coresOf s4 r.2.ctx s4.core p) x) with
      | some f => edgeFault s4 0x06 (0x10 + f) va
      | none =>
        checkCount r.2.cntC 31
        let run : EdgeRun :=
          { id := s4.nextId, core := s.core, slot := s.slot, uid := r.2.uid, ctx := r.2.ctx, fam := r.2.fam, place := p.level,
            index := p.index, scope := p.scope, lvl := p.lvl, pc := r.2.pc
            desc := { x with scatter := hs, combine := hc, apply := ha }, started := false,
            push := x.out, curA := true, rounds := 0, applyPhase := false, stage := 0, work := [], scans := [], applied := [], snap := [],
            fail := none }
        let s5 := takePorts s4 r.2
        .ok (retire (addC { s5 with runs := s5.runs ++ [run], nextId := s5.nextId + 1 })))

/-! ### The steps of a run -/

/-- Two runs hold a core in common. -/
def runsMeet (s : State) (a b : EdgeRun) : Bool :=
  (runCores s a).any (fun p => (runCores s b).any (fun q => q.2 == p.2))

/-- The next round begins: what it has cleared stays cleared where a later access fails (R363). A run whose accesses have to wait
stands before the round still. -/
def beginStep (s : State) (r : EdgeRun) : State :=
  match runKept (setRun s r) (clearRound r) with
  | (s1, none) => runStep s1 r (beginRound r)
  | (s1, some e) => runFailed s1 r e

/-- EDGE_RUN_START: in acceptance order, once no other run holds a core of the place (R362, R363). A run whose first counts have to
wait has not started. -/
def execEdgeRunStart (s : State) : Host.Outcome State Fault Refusal :=
  match s.event with
  | .edgeRunStart id =>
    match getRun s id with
    | some r =>
      if r.started || s.runs.any (fun x => decide (x.id < id) && runsMeet s x r) || !workClear s r then .next s
      else
        let r1 := { r with started := true }
        match measure r1 (curFront r1) (setRun s r1) with
        | .ok (m, s1) =>
          if m.1 = 0 then .next (finishRun s1 r1 1) else .next (beginStep s1 { r1 with push := chooseDir r1 m, stage := 2 })
        | .error (0, va) => .next (engPark s (runAgent r) va)
        | .error (cause, va) => .next (failRun (setRun s r1) id cause va)
    | none => .next s
  | _ => .next s

/-- The work words of a vertex hold an uncorrectable error (R368). -/
def workBad (s : State) (r : EdgeRun) (v : Nat) : Bool :=
  (match accKey s r v with | some k => isMarked s k | none => false) ||
    (match recvKey s r v with | some p => isMarked s p.1 | none => false)

/-- The address of a vertex's acc word, as FADDR names it. -/
def workAddr (s : State) (r : EdgeRun) (v : Nat) : Word :=
  match routeVertex s r v with
  | some p => word (0xF000100000000 + logicalCore s r.ctx p.1 * 2 ^ 21 + r.desc.work + 8 * p.2)
  | none => 0

/-- What a handler thread of an item needs: the vertex that routes it, its header and its first locals (R361). -/
def itemStart (r : EdgeRun) (it : EdgeItem) : Eng (Nat × Header × List Word) :=
  let ag := runAgent r
  match it with
  | .scatter src e dst => do
    let tgt := r.desc.outTgt + word (4 * e)
    if r.push ∧ r.desc.n ≤ dst then engFail 0x06 tgt
    else do
      let w ← if r.desc.wgt then engReadClean ag ((if r.push then r.desc.outWgt else r.desc.inWgt) + word (8 * e)) 8 else pure 0
      pure (if r.push then src else dst, r.desc.scatter, [word src, word e, word dst, word w, mapGet 0 r.snap src])
  | .combine d m => do
    let s ← get
    if workBad s r d then engFail 0x0A (workAddr s r d)
    else pure (d, r.desc.combine, [word d, accOf s r d, m])
  | .apply v => do
    let s ← get
    if workBad s r v then engFail 0x0A (workAddr s r v)
    else do
      let old ← engReadClean ag (r.desc.values + word (8 * v)) 8
      pure (v, r.desc.apply, [word v, word old, accOf s r v])
  | .scan d _ => pure (d, r.desc.scatter, [])

/-- An item waits for a thread: a combine only where a handler combines and d has received, one at a time for each d
(R365). -/
def itemNeedsThread (s : State) (r : EdgeRun) (w : EdgeWork) : Bool :=
  w.uid == 0 &&
    (match w.item with
     | .scatter _ _ _ | .apply _ => true
     | .combine d _ =>
       r.desc.hcomb && received s r d && !r.work.any (fun x => x.uid != 0 &&
         (match x.item with | .combine d2 _ => d2 == d | .scatter _ _ _ | .apply _ | .scan _ _ => false))
     | .scan _ _ => false)

/-- EDGE_HANDLER_START: a scatter, combine or apply thread starts as a member does (R361). -/
def execEdgeHandlerStart (s : State) : Host.Outcome State Fault Refusal :=
  match s.event with
  | .edgeHandlerStart id item stack =>
    match getRun s id with
    | some r =>
      match r.work.find? (fun w => w.id == item) with
      | some w =>
        if r.started && r.fail.isNone && itemNeedsThread s r w then
          match itemStart r w.item s with
          | .error (0, va) => .next (engPark s (runAgent r) va)
          | .error (cause, va) => .next (failRun s id cause va)
          | .ok ((v, h, ls), s1) =>
            match routeVertex s1 r v with
            | some (c, _) =>
              match freeSlot s1 c with
              | some t =>
                if !(getCore s1 c).killed && hasRoom s1 c h 0 stack then
                  let s2 := startThread s1 c t ⟨.edgeHandler, r.ctx, r.fam, 0, id, item, h, stack, localRegs h ls⟩
                  let uid := (getThread s2 c t).uid
                  .next (setRun s2 { r with work := r.work.map (fun x => if x.id = item then { x with uid := uid } else x) })
                else .next s
              | none => .next s
            | none => .next s
        else .next s
      | none => .next s
    | none => .next s
  | _ => .next s

/-- EDGE_COMBINE: the first message of a round becomes acc; later ones are combined by the hardware operation in one
indivisible step (R363, R365). A pull scan whose read had to wait goes on. -/
def execEdgeCombine (s : State) : Host.Outcome State Fault Refusal :=
  match s.event with
  | .edgeCombine id item =>
    match getRun s id with
    | some r =>
      match r.work.find? (fun w => w.id == item) with
      | some w =>
        match w.item with
        | .combine d m =>
          if !r.started || r.fail.isSome || w.uid != 0 then .next s
          else if workBad s r d then .next (failRun s id 0x0A (workAddr s r d))
          else if !received s r d then .next (itemDone (setRecv (setAcc s r d m) r d) id w)
          else if r.desc.hcomb then .next s
          else .next (itemDone (setAcc s r d (applyCop r.desc.cop (accOf s r d) m)) id w)
        | .scan _ _ => if r.started && r.fail.isNone then .next (itemDone s id w) else .next s
        | .scatter _ _ _ | .apply _ => .next s
      | none => .next s
    | none => .next s
  | _ => .next s

/-- EDGE_APPLY_PHASE: once every scatter and combine has ended, each vertex that has received is owed an apply. -/
def execEdgeApplyPhase (s : State) : Host.Outcome State Fault Refusal :=
  match s.event with
  | .edgeApplyPhase id =>
    match getRun s id with
    | some r =>
      if r.started && r.stage == 0 && !r.applyPhase && r.fail.isNone && r.work.isEmpty then
        match (List.range r.desc.n).find? (workBad s r) with
        | some v => .next (failRun s id 0x0A (workAddr s r v))
        | none =>
          let w := newWork s (((List.range r.desc.n).filter (received s r)).map EdgeItem.apply)
          .next (setRun w.2 { r with applyPhase := true, work := w.1 })
      else .next s
    | none => .next s
  | _ => .next s

/-- The stores of a round's applies (R363). -/
def storeApplied (r : EdgeRun) : Eng Unit :=
  let ag := runAgent r
  r.applied.forM (fun a => do
    match a.2.1 with
    | some x => engWriteFull ag (r.desc.values + word (8 * a.1)) x.toNat
    | none => pure ()
    if a.2.2.getLsbD 0 then writeBit ag (nextFront r) a.1 else pure ()
    if a.2.2.getLsbD 1 then writeBit ag r.desc.doneBm a.1 else pure ())

/-- The log entry of a round (R366): `r` stands after the increment, `dir` is the direction just run. -/
def writeLog (r : EdgeRun) (dir next : Bool) (m : Nat × Nat × Nat) : Eng Unit :=
  if r.desc.log = 0 then pure ()
  else do
    let ag := runAgent r
    let at_ := r.desc.log + word (32 * (r.rounds - 1))
    engWriteFull ag at_ (r.rounds % 2 ^ 32 + (if dir then 0 else 2 ^ 32) + (if next then 0 else 2 ^ 40))
    engWriteFull ag (at_ + 8) m.1
    engWriteFull ag (at_ + 16) m.2.1
    engWriteFull ag (at_ + 24) m.2.2

/-- A run once a round's results are stored: the round counts, and the frontiers are swapped (R363). -/
def roundStored (r : EdgeRun) : EdgeRun :=
  { r with rounds := r.rounds + 1, curA := !r.curA, applyPhase := false, applied := [], stage := 1 }

/-- The counts of the new frontier and the log entry of the round; then the run ends, or its next round begins (R363, R364, R366). -/
def measureStep (s : State) (r : EdgeRun) : State :=
  let next := fun (m : Nat × Nat × Nat) => if m.1 = 0 then r.push else chooseDir r m
  let go : Eng (Nat × Nat × Nat) := do
    let m ← measure r (curFront r)
    writeLog r r.push (next m) m
    pure m
  match go s with
  | .ok (m, s1) =>
    let r2 := { r with push := next m, stage := 2 }
    if m.1 = 0 then finishRun s1 r2 1
    else if r.rounds < r.desc.limit then beginStep s1 r2 else finishRun s1 r2 2
  | .error (0, va) => engPark (setRun s r) (runAgent r) va
  | .error (cause, va) => failRun (setRun s r) r.id cause va

/-- A round's results are stored, and what follows them. -/
def storeStep (s : State) (r : EdgeRun) : State :=
  match runEng s (storeApplied r) with
  | .ok s1 => measureStep s1 (roundStored r)
  | .error (0, va) => engPark s (runAgent r) va
  | .error (cause, va) => failRun s r.id cause va

/-- EDGE_ROUND_END: results are stored, frontiers swapped, counts measured and the log written; the run ends or its next
round begins (R363 to R366). A run that had to wait on the way goes on from there. -/
def execEdgeRoundEnd (s : State) : Host.Outcome State Fault Refusal :=
  match s.event with
  | .edgeRoundEnd id =>
    match getRun s id with
    | some r =>
      if r.started && r.fail.isNone && r.work.isEmpty then
        match r.stage with
        | 0 => if r.applyPhase then .next (storeStep s r) else .next s
        | 1 => .next (measureStep s r)
        | _ => .next (beginStep s r)
      else .next s
    | none => .next s
  | _ => .next s

/-- EDGE_RUN_STOP: once none of its handler threads is left and their accesses are performed (R369), a run that met a failure stops
and reports it (R368). -/
def execEdgeRunStop (s : State) : Host.Outcome State Fault Refusal :=
  match s.event with
  | .edgeRunStop id =>
    match getRun s id with
    | some r =>
      match r.fail with
      | some (cause, va) =>
        if (liveThreads s).any (fun p => p.2.2.kind == .edgeHandler && p.2.2.work == id) || uidsOwe s (r.work.map (·.uid)) then .next s
        else
          let later := s.runs.filter (fun x => x.uid == r.uid && decide (id < x.id) && !x.started)
          let s1 := finishRun { s with runs := s.runs.filter (fun x => !later.any (fun y => y.id == x.id)) } r 3
          let faddr := if va = 0 then mapGet 0 (threadOf s1 r.core r.slot r.uid).eng 20 else va
          let s2 := reportEngine s1 r.core r.slot r.uid faddr cause 0 0 3 later.length
          .next (postTrap (lowerC s2 r.core r.slot r.uid later.length) r.core r.slot r.uid r.id cause va r.pc)
      | none => .next s
    | none => .next s
  | _ => .next s

end Sys2Proof.Machine
end

