-- ==== Sys2Proof/Machine/Paging.lean ====
section
/-! DEFINITION. Changes to the translation tables, and the reads of the hub's own agents (R249, R250, R395). -/
namespace Sys2Proof.Machine

/-! ### Tables -/

/-- Remove every byte of a range, so that it reads as zero. -/
def clearRange (s : State) (k n : Nat) : State := { s with mem := s.mem.filter (fun c => !decide (k ≤ c.1 ∧ c.1 < k + n)) }

/-- A leaf entry (R249). -/
def leafEntry (pa : Nat) (rd wr priv : Bool) : Nat :=
  pa / 2 ^ 16 * 2 ^ 16 + 3 + (if rd then 4 else 0) + (if wr then 8 else 0) + (if priv then 16 else 0)

/-- A 64 KiB block a table may start at. -/
def tableBlock (k : Nat) : Bool := k % 2 ^ 16 == 0 && physWin k == some .gddr && physWin (k + 0xFFFF) == some .gddr

/-- Write an entry at a level, taking blocks for tables that are absent; none where a larger page stands in the way or no
block is left. -/
def putEntry (s : State) (va entry target : Nat) : Nat → Nat → List Nat → Option (State × List Nat)
  | level, table, blocks =>
    let k := table + 8 * walkIndex va level
    if level = target then some (pokeBytes s k (leBytes 8 entry), blocks)
    else
      match level with
      | 0 => none
      | l + 1 =>
        let e := peek s k 8
        if e % 2 = 1 then
          if e / 2 % 2 = 1 then none else putEntry s va entry target l (nbits e 47 16 * 2 ^ 16) blocks
        else
          match blocks with
          | [] => none
          | b :: r =>
            if tableBlock b then
              putEntry (pokeBytes (clearRange s b (2 ^ 16)) k (leBytes 8 (b + 1))) va entry target l b r
            else none

/-- The mapping is valid under R249: aligned addresses, a translated address, a first byte in some window. -/
def mappingOk (va pa : Nat) (size : PageSize) : Bool :=
  let n := pageBytes size.level
  decide (va % n = 0 ∧ pa % n = 0 ∧ va + n ≤ 0xF000000000000 ∧ pa < 2 ^ 48) && (physWin pa).isSome

/-- Map pages one after another. -/
def mapRange (root : Nat) (size : PageSize) (rd wr priv : Bool) : Nat → Nat → Nat → State → List Nat → Option (State × List Nat)
  | 0, _, _, s, blocks => some (s, blocks)
  | n + 1, va, pa, s, blocks =>
    if mappingOk va pa size then
      match putEntry s va (leafEntry pa rd wr priv) size.level 3 root blocks with
      | some (s1, b1) => mapRange root size rd wr priv n (va + pageBytes size.level) (pa + pageBytes size.level) s1 b1
      | none => none
    else none

/-! ### Accesses of the hub's agents -/

/-- Where an address of a context lies for the hub. -/
def hubPlace (s : State) (ctx : Nat) (va : Word) (n : Nat) (wr : Bool) : Option Loc :=
  match (resolve s hubCore 0 ctx va n (!wr) wr).1 with
  | .ok l =>
    if l.drop || l.park || l.win == .regWin || l.away then none else some l
  | .error _ => none

/-- One range within a page, as the hub reads it. -/
def hubPiece (s : State) (ctx : Nat) (va : Word) (n : Nat) : Option Nat :=
  match hubPlace s ctx va n false with
  | some l =>
    if homeFaults s ctx l.key || (List.range n).any (fun i => isMarked s (movedKey s l.key + i)) then none
    else some (peek s (movedKey s l.key) n)
  | none => none

/-- Ranges that stand one behind another, as one number. -/
def hubPieces (s : State) (ctx : Nat) : List (Word × Nat) → Option Nat
  | [] => some 0
  | (va, n) :: r =>
    match hubPiece s ctx va n, hubPieces s ctx r with
    | some x, some y => some (x + y * 2 ^ (8 * n))
    | _, _ => none

/-- n bytes of a context as the hub reads them, each page of them for itself: none where they cannot be read. -/
def hubRead (s : State) (ctx : Nat) (va : Word) (n : Nat) : Option Nat := hubPieces s ctx (pageCut va n)

/-- Every page of a range is mapped onto a window. -/
def rangeIn (s : State) (ctx : Nat) (w : Win) (va n : Nat) : Bool :=
  (List.range ((n + 0xFFFF) / 2 ^ 16)).all (fun i =>
    match hubPlace s ctx (word (va + i * 2 ^ 16)) 1 true with
    | some l => l.win == w
    | none => false)

end Sys2Proof.Machine
end

