-- ==== Sys2Proof/Machine/Launch.lean ====
section
/-! DEFINITION. Launch records, the arbiter, the start and end of a launch, gangs, and the delivery of traps (R370 to R379,
R383, R385). -/
namespace Sys2Proof.Machine

/-! ### Launch records (R370 to R373) -/

/-- The index that means any free place. -/
def anyIndex : Nat := 0x0FFFFFFF

/-- The launch a record's 256 bytes describe. The place is a hardware domain: level code less one. -/
def launchOf (d owner : Nat) (addr : Word) : Launch :=
  let w := fieldAt d 4 4
  { id := 0, ctx := fieldAt d 0 2, prio := fieldAt d 2 1, gang := (fieldAt d 3 1).testBit 0, noPreempt := (fieldAt d 3 1).testBit 1,
    owner := owner, level := w % 16 - 1, index := w / 16, header := wordAt d 8, family := wordAt d 16,
    awaits := (List.range 4).map (fun i => wordAt d (24 + 8 * i)), tick := fieldAt d 56 8, handler := fieldAt d 64 8,
    saveBase := wordAt d 72, saveSize := fieldAt d 80 8, spillBase := wordAt d 88, spillSize := fieldAt d 96 8,
    binds := (List.range 8).map (fun j => fieldAt d (104 + 2 * j) 2), status := wordAt d 120, done := wordAt d 128,
    group := fieldAt d 136 8, recAddr := addr, state := .queued, cores := [], rootFam := 0, missed := false, preempt := false, closing := none,
    defSave := fieldAt d 80 8 == 0, defSpill := fieldAt d 96 8 == 0, saved := [], savedReqs := [], savedRuns := [] }

/-- How many cores a level's place has. -/
def levelCores (level : Nat) : Nat :=
  match level with
  | 0 | 1 => 1 | 2 => 4 | 3 => 16 | 4 => 256 | _ => 1024

/-- The launch's context is marked damaged (R391, R443). -/
def damaged (s : State) (ctx : Nat) : Bool := (ctxCfg s ctx).getLsbD 9

/-- A descriptor of 64 bytes at a 64-byte aligned address of a context. -/
def hubRecord (s : State) (ctx : Nat) (va : Word) : Option Nat := if va.toNat % 64 = 0 then hubRead s ctx va 64 else none

/-- The place the root descriptor names under the record's bindings: none where it names no place (R371, R378). -/
def rootPlace (l : Launch) (index d : Nat) : Option Place :=
  let w := fieldAt d 44 4
  let code := w % 16
  let b := boundLevel l.binds (code - 1)
  if w = 0 then some ⟨l.level, index, levelScope l.level, l.level⟩
  else if code = 0 ∨ 9 ≤ code ∨ b.1 = 0 then none
  else some ⟨b.1, w / 16, b.2, code - 1⟩

/-- A place lies within another. -/
def placeWithin (s : State) (p : Place) (level index : Nat) : Bool :=
  decide (p.index < indexRange s p.level) && (placeLogical p.level p.index).all (fun x => (placeLogical level index).contains x)

/-- The root family's place lies within the launch's, whichever index the launch gets. -/
def rootInside (s : State) (l : Launch) (d : Nat) : Bool :=
  let idx := if l.index = anyIndex then List.range (indexRange s l.level) else [l.index]
  idx.all (fun i => match rootPlace l i d with | some p => placeWithin s p l.level i | none => false)

/-- A family descriptor is malformed (R187 code 0x01). -/
def descBad (d : Nat) : Bool :=
  fieldAt d 56 8 != 0 || extentsBad (descExtents d) || fieldAt d 48 8 % 64 != 0 || decide (2 ^ 40 < descCount d)

/-- A binding entry is invalid (R371). -/
def bindBad (e : Nat) : Bool :=
  let code := e % 16
  let scope := e / 16 % 8
  decide (e / 2 ^ 7 ≠ 0 ∨ 8 < code) || (code != 0 && decide (scope = 0 ∨ 5 < scope ∨ scope < levelScope (code - 1)))

/-- The set domain codes do not decrease. -/
def bindsRise (es : List Nat) : Bool :=
  let cs := (es.map (· % 16)).filter (· != 0)
  (cs.zip cs.tail).all (fun p => decide (p.1 ≤ p.2))

/-- A status, done or await address: 0, or an aligned word of the urn or of the remote-scratchpad window (R373). -/
def launchWordOk (s : State) (ctx : Nat) (va : Word) : Bool :=
  va == 0 || (va.toNat % 8 == 0 &&
    (if bits va 63 48 = 0xF then
      decide (0x100000000 ≤ va.toNat % 2 ^ 48 ∧ va.toNat % 2 ^ 48 < 0x180000000) &&
        (physCore s ctx (bits va 30 21)).isSome
    else
      match hubPlace s ctx va 8 false with
      | some l => l.win == .urn
      | none => false))

/-- Save and spill areas outside their limits (R370, R372). -/
def areasBad (l : Launch) : Bool :=
  let c := levelCores l.level
  (if l.saveBase = 0 ∧ l.saveSize = 0 then false
   else decide (l.saveBase = 0 ∨ l.saveBase.toNat % 65536 ≠ 0 ∨ l.saveSize < c * 2 ^ 22)) ||
  (if l.spillBase = 0 ∧ l.spillSize = 0 then false
   else decide (l.spillBase = 0 ∨ l.spillBase.toNat % 64 ≠ 0 ∨ l.spillSize < c * 18432))

/-- The context in which a record's addresses are resolved: its own, or the submission's `sub` where the submitter does not own
that one (R373). -/
def recordContext (l : Launch) (sub : Nat) (mine : Nat → Bool) : Nat := if mine l.ctx then l.ctx else sub

/-- The first failing status of R373, 0 for none. `d` is the record where it could be read; `mine` says whether the
submitter owns the context. -/
def recordStatus (s : State) (addr : Nat) (d : Option Nat) (owner sub : Nat) (mine : Nat → Bool) : Nat :=
  match d with
  | none => 1
  | some d =>
    let l := launchOf d owner 0
    let w := fieldAt d 4 4
    let code := w % 16
    match hubRecord s (recordContext l sub mine) l.family, hubRecord s (recordContext l sub mine) l.header with
    | some f, some h =>
      if addr % 64 ≠ 0 ∨ fieldAt d 144 112 ≠ 0 ∨ fieldAt d 3 1 / 4 ≠ 0 then 1
      else if 23 < l.prio ∨ (owner ≠ 2 ∧ (19 < l.prio ∨ l.noPreempt)) then 2
      else if !mine l.ctx || (getCtx s l.ctx).isNone || damaged s l.ctx then 3
      else if code ≤ 1 ∨ 8 < code ∨ (l.index ≠ anyIndex ∧ indexRange s l.level ≤ l.index) ∨ (6 ≤ l.level ∧ l.gang = false) ∨
          rootInside s l f = false then 4
      else if descBad f || !headerOk h || l.header != wordAt f 48 then 5
      else if l.binds.any bindBad || !bindsRise l.binds || areasBad l ||
          !([l.status, l.done] ++ l.awaits).all (launchWordOk s l.ctx) then 6
      else if l.gang then (if l.tick = 0 ∨ l.group = 0 ∨ l.level < 6 then 7 else 0)
      else if l.group ≠ 0 then 7 else 0
    | _, _ => 1

/-- Take a record into the arbiter's FIFO, or discard it; the status goes to its status word, an address of the launch's context,
or of the submission's own `sub` where the record's context is not the submitter's. -/
def submitRecord (s : State) (addr : Word) (d : Option Nat) (owner sub : Nat) (mine : Nat → Bool) : Nat × State :=
  let st := recordStatus s addr.toNat d owner sub mine
  match d with
  | none => (st, s)
  | some x =>
    let l := launchOf x owner addr
    let s1 := if st = 0 then
        let (id, s1) := fresh s
        { s1 with launches := s1.launches ++ [{ l with id := id }] }
      else s
    (st, hubStoreFull s1 (recordContext l sub mine) l.status (word st))

/-- LAUNCH_RECORD_COPY: a record that a thread put into its context's launch port (R374); a thread of a control core is the device
kernel (R25, R381). -/
def execLaunchRecordCopy (s : State) : Host.Outcome State Fault Refusal :=
  match s.event with
  | .launchRecordCopy ctx =>
    match getCtx s ctx with
    | some x =>
      if x.portKey ≠ 0 ∧ isFull s x.portKey = true ∧ s.dev.handover = none then
        let addr := word (peek s x.portKey 8)
        let owner := if 1088 ≤ x.portBy ∧ x.portBy < 1104 then 2 else 1
        let s1 := (submitRecord s addr (hubRead s ctx addr 256) owner ctx (· == ctx)).2
        .next (setEmpty s1 x.portKey)
      else .next s
    | none => .next s
  | _ => .next s

/-! ### The arbiter (R375 to R377) -/

/-- Every await word is full. -/
def awaitsFull (s : State) (l : Launch) : Bool :=
  (l.awaits.filter (· != 0)).all (fun va =>
    match hubPlace s l.ctx va 8 false with | some p => isFull s p.key | none => false)

/-- A launch the arbiter may serve: a queued one whose awaits are full and whose tick has come and was not missed (R375, R379), or a
pre-empted one that `ctxs` does not hold; none of a damaged context (R391). -/
def eligible (s : State) (l : Launch) : Bool :=
  !damaged s l.ctx &&
    (match l.state with
     | .queued => awaitsFull s l && decide (l.tick ≤ s.dev.timebase.toNat) && !l.missed
     | .preempted => !l.preempt
     | .running | .ended => false)

/-- It is its context's first eligible launch at its priority. -/
def firstEligible (s : State) (l : Launch) : Bool :=
  eligible s l &&
    ((s.launches.find? (fun x => x.ctx == l.ctx && x.prio == l.prio && eligible s x)).map (·.id)) == some l.id

/-- The indices a launch may take. -/
def placeIndices (s : State) (l : Launch) : List Nat :=
  if l.index = anyIndex then List.range (indexRange s l.level) else [l.index]

/-- The physical cores of a launch's place at an index: for a pre-empted launch, those of its saved logical cores. -/
def launchCores (s : State) (l : Launch) (i : Nat) : List Nat :=
  if l.state = .preempted then l.saved.filterMap (fun x => physCore s l.ctx x.logical)
  else (placeCores s l.ctx l.level i).map (·.2)

/-- No core of the place belongs to a running launch. -/
def coresFree (s : State) (cs : List Nat) : Bool := !cs.isEmpty && cs.all (fun c => (getCore s c).launch == 0)

/-- The running launches that hold a core of a place. -/
def holders (s : State) (cs : List Nat) : List Launch :=
  s.launches.filter (fun l => l.state == .running && l.cores.any (fun c => cs.contains c))

/-- The place can be taken by pre-empting its holders (R377). -/
def canPreempt (s : State) (prio : Nat) (cs : List Nat) : Bool :=
  !(holders s cs).isEmpty && (holders s cs).all (fun x => decide (x.prio < prio) && !x.noPreempt)

/-- The place chosen for a launch that finds no free one. -/
def chosenPlace (s : State) (l : Launch) : List Nat :=
  let ps := (placeIndices s l).map (launchCores s l)
  match ps.find? (canPreempt s l.prio) with
  | some cs => cs
  | none => ps.headD []

/-- How many contexts the round of a priority passes before this one's next visit; the one visited last comes last. -/
def cycleDist (s : State) (l : Launch) : Nat := (l.ctx + 512 - mapGet 511 s.lastCtx l.prio - 1) % 512

/-- The deficit of a launch's context at its priority. -/
def deficitOf (s : State) (l : Launch) : Nat := mapGet 0 s.deficits (l.prio * 512 + l.ctx)

/-- The visit of the round in which a launch of this cost would start: 0 for the visit its context has now, while the deficit lasts,
else the number of visits until its context's next one (R376). -/
def roundDist (s : State) (l : Launch) (cost : Nat) : Nat :=
  if l.ctx = mapGet 511 s.lastCtx l.prio ∧ cost ≤ deficitOf s l then 0 else cycleDist s l + 1

/-- The order of a launch in the round of its priority, by the cost of the first of its places. -/
def headDist (s : State) (l : Launch) : Nat := roundDist s l (launchCores s l ((placeIndices s l).headD 0)).length

/-- It is the first eligible launch at its priority, contexts taken in the order of the round. -/
def headAtPrio (s : State) (l : Launch) : Bool :=
  firstEligible s l && s.launches.all (fun x => x.prio != l.prio || !firstEligible s x || decide (headDist s l ≤ headDist s x))

/-- The first eligible launch at a priority, beside what higher ones have reserved: where it finds no place that is free and not
reserved, its chosen place is kept for it (R377). -/
def reserveAt (s : State) (res : List (Launch × List Nat)) (prio : Nat) : List (Launch × List Nat) :=
  match s.launches.find? (fun l => l.prio == prio && headAtPrio s l) with
  | some l =>
    let free := fun (cs : List Nat) => coresFree s cs && !res.any (fun x => x.2.any (fun c => cs.contains c))
    if (placeIndices s l).any (fun i => free (launchCores s l i)) then res else res ++ [(l, chosenPlace s l)]
  | none => res

/-- The launches that wait for a place and the places reserved for them, priorities from 23 down (R377). -/
def reservations (s : State) : List (Launch × List Nat) := (List.range 24).foldl (fun r i => reserveAt s r (23 - i)) []

/-- The first eligible launch at a priority finds no free place: its chosen place is kept for it (R377). -/
def waitsForPlace (s : State) (l : Launch) : Bool := (reservations s).any (fun x => x.1.id == l.id)

/-- Some core of the place is reserved for another launch of at least this priority (R377, log 92). -/
def reservedFor (s : State) (l : Launch) (cs : List Nat) : Bool :=
  (reservations s).any (fun x => x.1.id != l.id && decide (l.prio ≤ x.1.prio) && x.2.any (fun c => cs.contains c))

/-- The index at which a launch can start now. -/
def startIndex (s : State) (l : Launch) : Option Nat :=
  (placeIndices s l).find? (fun i => coresFree s (launchCores s l i) && !reservedFor s l (launchCores s l i))

/-- What the start of a launch costs: the number of cores of its place (R376). -/
def startCost (s : State) (l : Launch) : Nat := (launchCores s l ((startIndex s l).getD 0)).length

/-- The visit in which a launch would start (R376). -/
def visitDist (s : State) (l : Launch) : Nat := roundDist s l (startCost s l)

/-- The deficit a launch's context has in that visit: 1,024 more in a new one. -/
def visitDeficit (s : State) (l : Launch) : Nat := deficitOf s l + (if visitDist s l = 0 then 0 else 1024)

/-- It could start now, as far as its own context, deficit and place go. -/
def canStart (s : State) (l : Launch) : Bool :=
  firstEligible s l && (startIndex s l).isSome && decide (startCost s l ≤ visitDeficit s l)

/-- The arbiter serves this launch next: no higher priority has one that can start, and no context comes earlier in the
round. -/
def served (s : State) (l : Launch) : Bool :=
  s.dev.handover.isNone && canStart s l &&
    s.launches.all (fun x => x.id == l.id || !canStart s x || decide (x.prio < l.prio) ||
      (x.prio == l.prio && decide (visitDist s l ≤ visitDist s x)))

/-- A context without an eligible launch at a priority has a deficit of 0 there (R376). -/
def settleDeficits (s : State) : State :=
  { s with deficits := s.deficits.filter (fun p =>
      s.launches.any (fun x => x.prio * 512 + x.ctx == p.1 && eligible s x)) }

/-- Account the visits of a round up to the one in which a launch starts (R376): every context visited with an eligible launch gains
1,024, and the cost is taken from the deficit of the one that starts (log 92). -/
def chargeVisit (s : State) (l : Launch) : State :=
  let n := visitDist s l
  let s1 := settleDeficits s
  let visited := ((s.launches.filter (fun x => x.prio == l.prio && eligible s x && decide (cycleDist s x < n))).map (·.ctx)).eraseDups
  let d := visited.foldl (fun d c => mapSet 0 d (l.prio * 512 + c) (mapGet 0 d (l.prio * 512 + c) + 1024)) s1.deficits
  let k := l.prio * 512 + l.ctx
  { s1 with deficits := mapSet 0 d k (mapGet 0 d k - startCost s l), lastCtx := mapSet 511 s.lastCtx l.prio l.ctx }

/-- Replace a launch. -/
def setLaunch (s : State) (l : Launch) : State := { s with launches := s.launches.map (fun x => if x.id = l.id then l else x) }

/-- A launch by its number. -/
def getLaunch (s : State) (id : Nat) : Option Launch := s.launches.find? (fun l => l.id == id)

/-! ### Starting a launch (R10, R378) -/

/-- A spare core of a die that the context does not map already and that is not retired: the one in the lowest row (log 93). -/
def freeSpare (s : State) (used : List Nat) (die : Nat) : Option Nat :=
  ((List.range 16).map (fun r => die * 272 + 17 * r + 16)).find? (fun p => !(getCore s p).retired && !used.contains p)

/-- The physical cores that a context maps. -/
def mappedCores (s : State) (ctx : Nat) : List Nat := (List.range 1024).filterMap (physCore s ctx)

/-- Map a core of a context under a logical number: in the entry of its own core table, or beside the identity table (R10, R434). -/
def mapCore (s : State) (ctx l p : Nat) : State :=
  match getCtx s ctx with
  | none => s
  | some x =>
    if x.coreTbl = 0 then onCtx s ctx (fun z => { z with spares := mapPut z.spares l p })
    else pokeBytes s (x.coreTbl.toNat + 2 * l) (leBytes 2 (2 ^ 15 + p))

/-- A logical core that a context's core table maps to a retired core and that no running launch of the context holds. -/
def wantsSpare (s : State) (ctx l : Nat) : Bool :=
  (physCore s ctx l).any (fun p => (getCore s p).retired) &&
    !s.launches.any (fun k => k.ctx == ctx && k.state == .running && (placeLogical k.level k.index).contains l)

/-- Map a spare of the same die for every such core, while the die has a free one (R10). -/
def mapSpares (s : State) (ctx : Nat) : State :=
  ((List.range 1024).filter (wantsSpare s ctx)).foldl (fun st l =>
    match freeSpare st (mappedCores st ctx) ((physCore s ctx l).getD 0 / 272) with
    | some q => mapCore st ctx l q
    | none => st) s

/-- Load the `.scratch` allocations of a context on a core: bytes, zeros after them, every word full (R41, R252, R255). -/
def loadScratch (s : State) (c : Nat) (x : List Scratch) : State :=
  x.foldl (fun st a =>
    let st1 := pokeBytes (clearRange st (spKey c + a.off) a.size) (spKey c + a.off) a.bytes
    { st1 with
      empties := st1.empties.filter (fun k => !decide (spKey c + a.off ≤ k ∧ k < spKey c + a.off + a.size))
      marks := st1.marks.filter (fun k => !decide (spKey c + a.off ≤ k ∧ k < spKey c + a.off + a.size)) }) s

/-- The allocation entries of the `.scratch` sections (R252). -/
def scratchAllocs (ctx : Nat) (x : List Scratch) : List Alloc :=
  ((List.range x.length).zip x).map (fun p => ⟨ctx, p.1, p.2.off, p.2.size⟩)

/-- Take a core for a launch: its accumulators, tables and instruction memory as at a launch's start (R302, R355, R378). -/
def takeCore (s : State) (l : Launch) (x : Context) (c : Nat) : State :=
  let co := getCore s c
  let s1 := putCore s c { co with
    launch := l.id, handler := l.handler, acc := [], accKind := [], rowEmpty := 0, rowPend := 0, rowPoison := 0, bins := []
    allocs := scratchAllocs l.ctx x.scratch, queue := [], current := none, poolBy := 0, mons := [], im0 := .init, im1 := .init }
  loadScratch s1 c x.scratch

/-- Load an overlay at once into a slot of some cores, as `ovl` would: valid, or invalid with the image quarantined (R276); an
overlay that `ovl` would not load leaves the slots as they were. -/
def loadOverlays (s : State) (cs : List Nat) (b ctx num : Nat) : State :=
  match caddyFind s ctx num with
  | none => s
  | some o =>
    if o.bad then s
    else
      let ok := sha256 o.bytes = o.hash
      let im : ImemSlot :=
        { ImemSlot.init with
          state := if ok then .valid else .invalid, overlay := num, ctx := ctx, bytes := if ok then memSetBytes [] 0 o.bytes else [] }
      let s1 := cs.foldl (fun st c => putCore st c (setImem (getCore st c) b im)) s
      if ok then s1 else quarantine s1 ctx o.image

/-- Give a launch its default areas (R372): physical and virtual places of the kernel's choice, mapped by 64 KiB pages. None
where a place that is needed does not suit. -/
def giveAreas (s : State) (l : Launch) (areas : List Nat) : Option (State × Launch) :=
  let c := levelCores l.level
  let root := match getCtx s l.ctx with | some x => x.troot.toNat | none => 0
  let one := fun (st : State) (need : Bool) (pa va bytes : Nat) (blocks : List Nat) =>
    if need then
      if va ≠ 0 ∧ physWin (pa + bytes - 1) = some .gddr then
        mapRange root .p64K true true false ((bytes + 0xFFFF) / 2 ^ 16) va pa st blocks
      else none
    else some (st, blocks)
  match areas with
  | spa :: sva :: ppa :: pva :: blocks =>
    match one s l.defSave spa sva (c * 2 ^ 22) blocks with
    | none => none
    | some (s1, b1) =>
      match one s1 l.defSpill ppa pva (c * 2 ^ 18) b1 with
      | none => none
      | some (s2, _) =>
        some (s2, { l with
          saveBase := if l.defSave then word sva else l.saveBase
          saveSize := if l.defSave then c * 2 ^ 22 else l.saveSize
          spillBase := if l.defSpill then word pva else l.spillBase
          spillSize := if l.defSpill then c * 2 ^ 18 else l.spillSize })
  | _ => if l.defSave || l.defSpill then none else some (s, l)

/-- Kill every thread that stands on some cores, and free what remains in their slots. -/
def clearCores (s : State) (cs : List Nat) : State :=
  let s1 := killThreads s ((liveThreads s).filterMap (fun p => if cs.contains p.1 then some p.2.2.uid else none))
  cs.foldl (fun st c => (List.range 32).foldl (fun st t =>
    if (getThread st c t).status = .free then st else freeThread st c t) st) s1

/-- End a running launch with a done status: its cores are cleared and released, its tasks go, its areas are returned, and the
done word and the event tell of it (R372, R378). -/
def endLaunch (s : State) (l : Launch) (status : Nat) : State :=
  let s1 := clearCores s l.cores
  settleDeficits (closeLaunch { s1 with tasks := s1.tasks.filter (fun x => x.launch != l.id) } { l with state := .running } status)

/-- Make the root family at the lowest-numbered core of its place, and make its allocation round (R189, R378). -/
def makeRoot (s : State) (l : Launch) (p : Place) (d h : Nat) : State :=
  let hdr := headerOf l.header.toNat h
  let count := descCount d
  let cs := placeCores s l.ctx p.level p.index
  let (fam, s) := fresh s
  let granted := if count = 0 then [] else (cs.map (·.2)).filter (fun c => couldGrant s c hdr true fam)
  let f : Family :=
    { ctx := l.ctx, home := (cs.map (·.2)).headD 0, creator := 0, launch := l.id, start := intAt d 0, limit := intAt d 8,
      step := intAt d 16, ext := descExtents d, block := fieldAt d 40 4, place := p.level, index := p.index, scope := p.scope,
      lvl := p.lvl, hdr := hdr, count := count, claimed := 0, chunks := [], back := [], again := [], granted := granted,
      placed := !granted.isEmpty, folded := false, outcome := if count = 0 then .completed else .running, globals := [],
      deps := [], shareds := [], arrived := [], ended := 0, killed := [] }
  setLaunch { s with families := mapPut s.families fam f } { l with rootFam := fam }

/-- Start a launch at an index whose cores are free. -/
def startLaunch (s : State) (l : Launch) (i : Nat) (areas : List Nat) : Option State :=
  match getCtx s l.ctx, giveAreas s l areas with
  | some x, some (s1, l1) =>
    let cs := launchCores s l i
    let l2 := { l1 with state := LaunchState.running, index := i, cores := cs }
    let s2 := cs.foldl (fun st c => takeCore st l2 x c) (settleDeficits (setLaunch (chargeVisit s1 l) l2))
    match hubRecord s2 l.ctx l.family with
    | none => some (endLaunch s2 l2 (2 + 0x100))
    | some d =>
      if descBad d then some (endLaunch s2 l2 (2 + 0x100))
      else
        match hubRecord s2 l.ctx l.header, rootPlace l2 i d with
        | some h, some p =>
          if headerOk h then
            let s3 := loadOverlays s2 cs 0 l.ctx (fieldAt h 2 2)
            some (makeRoot s3 l2 p d h)
          else some (endLaunch s2 l2 (2 + 0x200))
        | none, _ => some (endLaunch s2 l2 (2 + 0x200))
        | some _, none => some (endLaunch s2 l2 (2 + 0x100))
  | _, _ => none

/-- LAUNCH_START (R378). -/
def execLaunchStart (s : State) : Host.Outcome State Fault Refusal :=
  match s.event with
  | .launchStart id areas =>
    match getLaunch s id with
    | some l =>
      let s0 := mapSpares s l.ctx
      if l.state = .queued ∧ served s0 l = true then
        match startIndex s0 l with
        | some i => .next ((startLaunch s0 l i areas).getD s)
        | none => .next s
      else .next s
    | none => .next s
  | _ => .next s

/-- The done status of a family's outcome (R378). -/
def doneStatus (o : Outcome) : Nat :=
  match o with
  | .completed | .running => 0
  | .broke _ _ => 1
  | .failed code => 2 + code * 256

/-- LAUNCH_END: the root family has ended, or the launch was ended early, and everything the launch's threads accessed is performed
(R285, R378). -/
def execLaunchEnd (s : State) : Host.Outcome State Fault Refusal :=
  match s.event with
  | .launchEnd id =>
    match getLaunch s id with
    | some l =>
      if l.state = .running ∧ l.rootFam ≠ 0 ∧ famEnded s l.rootFam = true ∧ launchOwes s l = false then
        match getFam s l.rootFam with
        | some f => .next (endLaunch s l (doneStatus f.outcome))
        | none => .next s
      else
        match l.closing with
        | some status => if launchOwes s l then .next s else .next (settleDeficits (closeNow s l status))
        | none => .next s
    | none => .next s
  | _ => .next s

/-! ### Gang launches (R379) -/

/-- A gang launch's tick has come and its share cannot start: its place is not free or its awaits are not full. -/
def missesTick (s : State) (l : Launch) : Bool :=
  l.gang && l.state == .queued && !l.missed && decide (l.tick ≤ s.dev.timebase.toNat) &&
    (!awaitsFull s l || (startIndex s l).isNone)

/-- The share's miss is told to the group, and it starts no more. -/
def missGang (s : State) (l : Launch) : State :=
  setLaunch { s with dev := { s.dev with gangMsgs := s.dev.gangMsgs ++ [l.group] } } { l with missed := true }

/-- GANG_START_TICK: at the tick a share that cannot start sends a gang-miss message to the group. -/
def execGangStartTick (s : State) : Host.Outcome State Fault Refusal :=
  match s.event with
  | .gangStartTick id =>
    match getLaunch s id with
    | some l => if missesTick s l then .next (missGang s l) else .next s
    | none => .next s
  | _ => .next s

/-- Time passes: what could not start at its tick has missed it (R379). -/
def passTime (s : State) (ns : Nat) : State :=
  tickTime ((s.launches.filter (missesTick s)).foldl missGang s) ns

/-- GANG_MISS: the launch is abandoned here, whoever missed its tick. -/
def execGangMiss (s : State) : Host.Outcome State Fault Refusal :=
  match s.event with
  | .gangMiss id =>
    match getLaunch s id with
    | some l =>
      if !l.gang || l.state == .ended then .next s
      else if l.state = .running then .next (endLaunch s l (2 + 0x300))
      else .next (settleDeficits (closeLaunch s l (2 + 0x300)))
    | none => .next s
  | _ => .next s

/-! ### Trap delivery (R383, R385) -/

/-- The instruction memory slot from which nothing has been fetched for longest. -/
def coldSlot (co : Core) : Nat := if co.im1.fetched < co.im0.fetched then 1 else 0

/-- Start the handler for a delivery in slot 31, at the low 32 bits of the record's handler field (log 94). -/
def startHandler (s : State) (c : Nat) (d : Delivery) : State :=
  let co := getCore s c
  let th := getThread s c d.slot
  let hdr : Header := { Header.zero with entry := BitVec.ofNat 32 co.handler, l := 16 }
  let rec_ := word (0xF * 2 ^ 48 + co.saveBase + 64 * d.slot)
  let regs := localRegs hdr
    [rec_, word d.cause, pcWord d.pc, d.detail, word (logicalCore s th.ctx c), word d.slot]
  let s1 := putCore s c { co with queue := co.queue.tail, current := some d }
  startThread s1 c 31 ⟨.trapHandler, th.ctx, 0, 0, 0, 0, hdr, 0, regs⟩

/-- A launch without a handler: the thread ends and the context's owner is told (R385). -/
def unhandled (s : State) (c : Nat) (d : Delivery) : State :=
  let th := getThread s c d.slot
  let co := getCore s c
  let s1 := endTrapped (putCore s c { co with queue := co.queue.tail }) c d.slot d.cause
  postEvent s1 ⟨0x82, th.ctx, 0, 0, [d.cause, d.pc.toNat, logicalCore s th.ctx c]⟩

/-- Bring the handler's overlay into instruction memory (R383): a load is started, or it fails and the context is lost. -/
def loadHandler (s : State) (c ctx num : Nat) : State :=
  let co := getCore s c
  if imemMatches co.im0 num && co.im0.state == .loading || imemMatches co.im1 num && co.im1.state == .loading then s
  else if imemMatches co.im0 num || imemMatches co.im1 num then loseContext s ctx 0x0D 0
  else
    match caddyFind s ctx num with
    | none => loseContext s ctx 0x0C 0
    | some o =>
      if o.bad then loseContext s ctx 0x0D 0
      else if (imemSlot co (coldSlot co)).state = .loading then s
      else startLoad s c ctx num (coldSlot co) 0 0 none

/-- TRAP_DELIVERY: the oldest delivery of a core whose slot 31 is free (R383). -/
def execTrapDelivery (s : State) : Host.Outcome State Fault Refusal :=
  match s.event with
  | .trapDelivery c =>
    let co := getCore s c
    match co.queue with
    | [] => .next s
    | d :: _ =>
      if co.current.isSome || co.killed || !((getThread s c 31).status == .free) then .next s
      else
        let th := getThread s c d.slot
        if th.uid ≠ d.uid ∨ th.status ≠ .trapped then .next (putCore s c { co with queue := co.queue.tail })
        else if co.handler = 0 then .next (unhandled s c d)
        else
          let num := co.handler / 2 ^ 16 % 2 ^ 16
          let valid := fun (im : ImemSlot) => imemMatches im num && im.state == .valid
          if valid co.im0 || valid co.im1 then .next (startHandler s c d) else .next (loadHandler s c th.ctx num)
  | _ => .next s

end Sys2Proof.Machine
end

