-- ==== Sys2Proof/Machine/Matrix.lean ====
section
/-! DEFINITION. The matrix unit's arithmetic and its operands: the fields of a command, dense and sparse rows, tile
directories (R116, R117, R305 to R308, R328 to R339), and the drain of a row (R312). -/
namespace Sys2Proof.Machine

/-! ### The fields of a snapshot (R305) -/

/-- An engine register of a command's snapshot. -/
def MatCmd.eng (k : MatCmd) (e : Nat) : Word := mapGet 0 k.regs e
def MatCmd.rows (k : MatCmd) : Nat := bits (k.eng 4) 5 0
def MatCmd.cols (k : MatCmd) : Nat := bits (k.eng 4) 13 8
def MatCmd.depth (k : MatCmd) : Nat := bits (k.eng 4) 47 16
def MatCmd.acc (k : MatCmd) : Nat := bits (k.eng 9) 1 0
def MatCmd.zero (k : MatCmd) : Bool := bits (k.eng 9) 2 2 == 1
def MatCmd.drain (k : MatCmd) : Nat := bits (k.eng 9) 4 3
def MatCmd.ascaled (k : MatCmd) : Bool := bits (k.eng 5) 6 6 == 1
def MatCmd.bscaled (k : MatCmd) : Bool := bits (k.eng 5) 7 7 == 1
def MatCmd.dstride (k : MatCmd) : Word := sextWord 32 (word (bits (k.eng 9) 63 32))
def MatCmd.bsoff (k : MatCmd) : Word := sextWord 40 (word (bits (k.eng 5) 63 24))

/-- The format of A, and of B (R307). -/
def MatCmd.fmtA (k : MatCmd) : Fmt := (Fmt.ofCode (BitVec.ofNat 5 k.fmt)).getD .i8
def MatCmd.codeB (k : MatCmd) : Nat := if bits (k.eng 5) 5 5 = 1 then bits (k.eng 5) 4 0 else k.fmt
def MatCmd.fmtB (k : MatCmd) : Fmt := (Fmt.ofCode (BitVec.ofNat 5 k.codeB)).getD .i8

/-- An 8-bit integer operand. -/
def intByte (f : Fmt) : Bool := f == .i8 || f == .z8

/-- The command follows the integer path (R308). -/
def MatCmd.intPath (k : MatCmd) : Bool := intByte k.fmtA && intByte k.fmtB && !k.ascaled && !k.bscaled

/-- Operands are flushed under RF of e5; sums round to nearest even and flush under the context's FTZ (R116, R305). -/
def MatCmd.env (k : MatCmd) : Env :=
  let rf := bits (k.eng 5) 14 12
  { rf := .rne, daz := (envOf k.cfg (if rf = 6 then .fz else if rf = 7 then .nf else .rne)).daz, ftz := k.cfg.getLsbD 1 }

/-- Commands that compute and commit rows. -/
def MatOp.computes : MatOp → Bool
  | .mma | .s24 | .s48 | .mmag | .mrc | .mbs | .mss => true
  | .mclr | .mdrn => false

/-- The offsets of A and B (R306): a gang's operands are its mask and its barrier word, and its offsets are zero; `mrc` takes
A's from a[63:16] (R319). -/
def MatCmd.offA (k : MatCmd) : Word :=
  match k.op with
  | .mma | .s24 | .s48 => k.a
  | .mrc => BitVec.ofInt 64 (toSigned 48 (bits k.a 63 16))
  | .mmag | .mbs | .mss | .mclr | .mdrn => 0
def MatCmd.offB (k : MatCmd) : Word :=
  match k.op with
  | .mma | .s24 | .s48 | .mrc => k.b
  | .mmag | .mbs | .mss | .mclr | .mdrn => 0

/-- The agent of a command on the core that executes it: only on its own core does the issuer's stack belong to it. -/
def matAgent (c : Nat) (k : MatCmd) : Agent := ⟨c, if c = k.core then k.slot else 32, k.uid, k.ctx, k.pc, 3, k.id, k.core⟩

/-! ### Operands -/

/-- One operand: whether it is zero after flush_in, its exact value with its scale, and its integer value. -/
structure MatIn where
  zero : Bool
  val  : Val
  int  : Int

/-- An operand that is zero: an absent element. -/
def MatIn.none : MatIn := ⟨true, .fin false 0 0 false, 0⟩

/-- An operand from its encoding and its block's scale byte (R101, R116). -/
def matOperand (f : Fmt) (env : Env) (scale : Option Nat) (b : Nat) : MatIn :=
  let x := flushIn f env b
  let v := elemVal f x
  ⟨v.isZero, match scale with | some c => mxVal f x c | none => v, if f.isInt then decodeInt f x else 0⟩

/-- Rows of elements as a record of two dimensions (R306): `n` elements in each row. -/
def matRec (base : Word) (code swz n rows : Nat) (stride : Word) : ShapeRec :=
  let f := (Fmt.ofCode (BitVec.ofNat 5 code)).getD .i8
  { addr := 0, base := base, fmt := code, scale := 0, swz := swz, rank := 2, ext := [n, rows, 0, 0],
    str := [if fmtPacked f then 0 else word (elemBytes f), stride, 0, 0] }

/-- An element of operand rows; an uncorrectable error fails with 0x0A (R313). -/
def readOperand (ag : Agent) (r : ShapeRec) (e : Nat) : Eng Nat := do
  let x ← readElem ag r e
  if x.2 then engFail 0x0A (((elemPieces r e).head?.map (·.va)).getD 0) else pure x.1

/-- Bytes of a block of 32 elements (R307). -/
def blockBytes (f : Fmt) : Nat := if f.isSix then 24 else if f.isNibble then 16 else 32

/-- The scale byte of the block that starts `off` bytes from the operand's base (R307). -/
def readScale (ag : Agent) (scales off : Word) (f : Fmt) : Eng Nat :=
  engReadClean ag (scales + BitVec.ofInt 64 (off.toInt / (blockBytes f : Int))) 1

/-- Operand row `i` of `n` elements, block by block. `scales` is where the scale of the block at offset 0 of the operand
lies, and the operand's own offset. -/
def matRow (ag : Agent) (r : ShapeRec) (env : Env) (scales : Option (Word × Word)) (i n : Nat) : Eng (List MatIn) := do
  let f := r.format
  let blocks ← (List.range ((n + 31) / 32)).mapM (fun b => do
    let sc ← match scales with
      | some p => do
        let v ← readScale ag p.1 (p.2 + word i * r.stride 1 + word (blockBytes f * b)) f
        pure (some v)
      | none => pure none
    (List.range (if n - 32 * b < 32 then n - 32 * b else 32)).mapM (fun k => do
      let x ← readOperand ag r (i * n + (32 * b + k))
      pure (matOperand f env sc x)))
  pure blocks.flatten

/-- The stored rows of B (R306), `n` elements each. -/
def MatCmd.recB (k : MatCmd) (n : Nat) : ShapeRec :=
  matRec (k.eng 2 + k.offB) k.codeB (bits (k.eng 5) 11 10) n k.cols (k.eng 3)

/-- B's scales (R307). -/
def MatCmd.scalesB (k : MatCmd) : Option (Word × Word) := if k.bscaled then some (k.eng 6 + k.bsoff, k.offB) else none

/-- The rows of A, `n` stored elements each. -/
def MatCmd.recA (k : MatCmd) (n : Nat) : ShapeRec :=
  matRec (k.eng 0 + k.offA) k.fmt (bits (k.eng 5) 9 8) n k.rows (k.eng 1)

/-- A's scales. -/
def MatCmd.scalesA (k : MatCmd) : Option (Word × Word) := if k.ascaled then some (k.eng 6, k.offA) else none

/-! ### Groups (R116, R117) -/

/-- Add one group of products to an accumulator element: the new bits and the flags. -/
def matGroup (int : Bool) (env : Env) (c : BitVec 32) (grp : List (MatIn × MatIn)) : BitVec 32 × Nat :=
  let live := grp.filter (fun p => !p.1.zero && !p.2.zero)
  if live.isEmpty then (c, 0)
  else if int then (c + BitVec.ofInt 32 ((live.map (fun p => p.1.int * p.2.int)).foldl (· + ·) 0), 0)
  else
    let ps := live.map (fun p => mulVals p.1.val p.2.val)
    let sum := sumVals .rne (ps.map (·.1))
    let g := roundWith .f32 env 0 sum
    let o := roundWith .f32 env 0 (sumVals .rne [decodeFloat .f32 c.toNat, decodeFloat .f32 g.bits])
    (BitVec.ofNat 32 o.bits, ps.foldl (fun a p => a ||| p.2) (g.flags ||| o.flags))

/-- Add groups in ascending order. -/
def matGroups (int : Bool) (env : Env) (c : BitVec 32) (gs : List (List (MatIn × MatIn))) : BitVec 32 × Nat :=
  gs.foldl (fun acc g =>
    let r := matGroup int env acc.1 g
    (r.1, acc.2 ||| r.2)) (c, 0)

/-- Cut a list into pieces of n. -/
def chunksOf {α : Type} (n : Nat) : Nat → List α → List (List α)
  | 0, _ => []
  | k + 1, l => if l.isEmpty then [] else l.take n :: chunksOf n k (l.drop n)

/-! ### Rows of products, a list of groups for each column -/

/-- Dense rows (R310). -/
def denseRow (ag : Agent) (k : MatCmd) (i : Nat) : Eng (List (List (List (MatIn × MatIn)))) := do
  let n := k.depth
  let a ← matRow ag (k.recA n) k.env k.scalesA i n
  (List.range k.cols).mapM (fun j => do
    let b ← matRow ag (k.recB n) k.env k.scalesB j n
    pure (chunksOf 32 (n / 32 + 1) (a.zip b)))

/-- The indices of one metadata group of row i (R329): an illegal group fails with 0x10 at the byte that holds it (R330). -/
def metaGroup (ag : Agent) (k : MatCmd) (i g : Nat) : Eng (List Nat) := do
  let base := k.eng 8 + word i * k.dstride
  if k.op = .s24 then do
    let a := base + word (g / 2)
    let v ← engReadClean ag a 1
    let n := v / 16 ^ (g % 2) % 16
    let ix := [n % 4, n / 4]
    if n % 4 = n / 4 then engFail 0x10 a else pure ix
  else do
    let a := base + word (2 * g)
    let lo ← engReadClean ag a 1
    let hi ← engReadClean ag (a + 1) 1
    let n := lo + 256 * hi
    let ix := [n % 8, n / 8 % 8, n / 64 % 8, n / 512 % 8]
    if ix.eraseDups.length ≠ 4 ∨ 4096 ≤ n then engFail 0x10 a else pure ix

/-- Structured-sparse rows (R328 to R331): stored element s of a group is paired with the position its index names. -/
def sparseRow (ag : Agent) (k : MatCmd) (i : Nat) : Eng (List (List (List (MatIn × MatIn)))) := do
  let n := k.depth
  let w := if k.op = .s24 then 4 else 8
  let metas ← (List.range (n / w)).mapM (metaGroup ag k i)
  let a ← matRow ag (k.recA (n / 2)) k.env .none i (n / 2)
  let named := ((List.range (n / w)).zip metas).flatMap (fun p => p.2.map (fun x => w * p.1 + x))
  (List.range k.cols).mapM (fun j => do
    let b ← matRow ag (k.recB n) k.env .none j n
    pure (chunksOf 16 (n / 16 + 1) (a.zip (named.map (fun x => (b[x]?).getD MatIn.none)))))

/-- Element (i, t) of a directory entry's tile (R334); an absent sub-block is zero. -/
def tileOf (ag : Agent) (k : MatCmd) (e : DirEnt) (i t : Nat) : Eng MatIn := do
  let b := i / 4 * 8 + t / 4
  if e.bitmap.getLsbD b then do
    let n := ((List.range b).filter (fun x => e.bitmap.getLsbD x)).length
    let r := matRec (e.values + word (n * 16 * k.fmtA.width / 8)) k.fmt 0 16 1 0
    let x ← readOperand ag r (i % 4 * 4 + t % 4)
    pure (matOperand k.fmtA k.env none x)
  else pure MatIn.none

/-- A block row times dense B (R338). -/
def blockRow (ag : Agent) (k : MatCmd) (es : List DirEnt) (i : Nat) : Eng (List (List (List (MatIn × MatIn)))) := do
  let n := 32 * k.dirA.ncols
  let as_ ← es.mapM (fun e => (List.range 32).mapM (fun t => tileOf ag k e i t))
  (List.range k.cols).mapM (fun j =>
    (es.zip as_).mapM (fun p => do
      let b ← (List.range 32).mapM (fun t => do
        let x ← readOperand ag (k.recB n) (j * n + (32 * p.1.pos + t))
        pure (matOperand k.fmtB k.env none x))
      pure (p.2.zip b)))

/-- Two block rows (R339): positions present in both. -/
def blockPair (ag : Agent) (k : MatCmd) (ea eb : List DirEnt) (i : Nat) : Eng (List (List (List (MatIn × MatIn)))) := do
  let both := ea.filterMap (fun x => (eb.find? (fun y => y.pos == x.pos)).map (fun y => (x, y)))
  let as_ ← both.mapM (fun p => (List.range 32).mapM (fun t => tileOf ag k p.1 i t))
  (List.range k.cols).mapM (fun j =>
    (both.zip as_).mapM (fun p => do
      let b ← (List.range 32).mapM (fun t => tileOf ag k p.1.2 j t)
      pure (p.2.zip b)))

/-! ### Directories (R333 to R336) -/

/-- Why the reading of a directory's entries stops: the next field is still to be read, or an entry fails its check. -/
inductive DirStop where
  | need (va at_ : Word) (n : Nat)
  | bad (va : Word)

/-- What is made of the fields of a directory's entries, taken one by one from those read so far (R342). -/
abbrev DirP (α : Type) := StateT (List Nat) (Except DirStop) α

/-- The next field: n bytes at `va`, of the entry or word at `at_`. -/
def dirField (va at_ : Word) (n : Nat) : DirP Nat := fun vs =>
  match vs with
  | x :: r => .ok (x, r)
  | [] => .error (.need va at_ n)

/-- An entry fails its check. -/
def dirBad {α : Type} (va : Word) : DirP α := fun _ => .error (.bad va)

/-- The entries from index e on, checked (R335): positions ascend and stay below ncols. -/
def dirEntries (d : Dir) (size : Nat) : Nat → Nat → Int → DirP (List DirEnt)
  | 0, _, _ => pure []
  | n + 1, e, prev => do
    let a := d.elist + word (32 * e)
    let pos ← dirField a a 4
    let len ← dirField (a + 4) a 1
    let r0 ← dirField (a + 6) a 2
    let bm ← dirField (a + 8) a 8
    let vs ← dirField (a + 16) a 8
    let r1 ← dirField (a + 24) a 8
    let count := ((List.range 64).filter (fun b => bm.testBit b)).length
    if count ≠ len ∨ d.ncols ≤ pos ∨ (pos : Int) ≤ prev ∨ vs % size ≠ 0 ∨ r0 ≠ 0 ∨ r1 ≠ 0 then dirBad a
    else do
      let r ← dirEntries d size n (e + 1) pos
      pure (⟨pos, word bm, word vs⟩ :: r)

/-- The entries of block row r (R336). -/
def dirRow (d : Dir) (f : Fmt) (r : Nat) : DirP (List DirEnt) := do
  let a := d.rowptr + word (4 * r)
  let lo ← dirField a a 4
  let hi ← dirField (a + 4) (a + 4) 4
  if hi < lo then dirBad (d.elist + word (32 * lo))
  else dirEntries d (if f.width < 8 then 1 else f.width / 8) (hi - lo) lo (-1)

/-- The block rows a command uses. The spec gives the two directories of `mss` no order: the model's choice is to read A's block row before
B's, so that A's failure is reported first (log 123). -/
def dirLoad (k : MatCmd) : DirP (List DirEnt × List DirEnt) :=
  match k.op with
  | .mbs => do
    let a ← dirRow k.dirA k.fmtA k.b.toNat
    pure (a, [])
  | .mss => do
    let a ← dirRow k.dirA k.fmtA (bits (k.eng 0) 31 0)
    let b ← dirRow k.dirB k.fmtA (bits (k.eng 2) 31 0)
    pure (a, b)
  | .mma | .s24 | .s48 | .mmag | .mrc | .mclr | .mdrn => pure ([], [])

/-- The next read of a command that has not read its directories yet, one field at a time before its first commit (R336, R342): the
command with that field or with its entries, or what hinders it; none once it has them. -/
def dirStep (c : Nat) (k : MatCmd) (s : State) : Option (Except (Nat × Word) (MatCmd × State)) :=
  if k.ents.isSome then none
  else
    match dirLoad k k.dirVals with
    | .ok (es, _) => some (.ok ({ k with ents := some es }, s))
    | .error (.bad va) => some (.error (0x11, va))
    | .error (.need va at_ n) =>
      match engReadClean (matAgent c k) va n s with
      | .ok (x, s1) => some (.ok ({ k with dirVals := k.dirVals ++ [x] }, s1))
      | .error (0, a) => some (.error (0, a))
      | .error _ => some (.error (0x12, at_))

/-! ### One row -/

/-- An accumulator element. -/
def accElem (co : Core) (tile row col : Nat) : BitVec 32 := mapGet 0 co.acc (tile * 1024 + row * 32 + col)

/-- The bit of a row among the 128 rows of a core. -/
def rowBit (tile row : Nat) : BitVec 128 := (1 : BitVec 128) <<< (tile * 32 + row)

/-- The products of row i. -/
def rowProducts (ag : Agent) (k : MatCmd) (es : List DirEnt × List DirEnt) (i : Nat) :
    Eng (List (List (List (MatIn × MatIn)))) :=
  match k.op with
  | .s24 | .s48 => sparseRow ag k i
  | .mbs => blockRow ag k es.1 i
  | .mss => blockPair ag k es.1 es.2 i
  | .mma | .mmag | .mrc | .mclr | .mdrn => denseRow ag k i

/-- The new row's elements below N and its flags (R310). -/
def rowSums (co : Core) (k : MatCmd) (i : Nat) (gs : List (List (List (MatIn × MatIn)))) : List (BitVec 32) × Nat :=
  let rs := ((List.range gs.length).zip gs).map (fun p =>
    matGroups k.intPath k.env (if k.zero then 0 else accElem co k.acc i p.1) p.2)
  (rs.map (·.1), rs.foldl (fun a r => a ||| r.2) 0)

/-- Compute row `k.row` on core c: the elements and the flags. -/
def rowCompute (c : Nat) (k : MatCmd) : Eng (List (BitVec 32) × Nat) := do
  let gs ← rowProducts (matAgent c k) k (k.ents.getD ([], [])) k.row
  let s ← get
  pure (rowSums (getCore s c) k k.row gs)

/-! ### Draining a row (R312) -/

/-- Hold the 32 elements of a row for its drain. -/
def keepRow (co : Core) (k : MatCmd) (row : Nat) (int : Bool) : MatCmd :=
  { k with
    held := (List.range 32).foldl (fun m j => mapSet 0 m (row * 32 + j) (accElem co k.acc row j)) k.held
    kept := k.kept ||| ((1 : BitVec 32) <<< row), int := int
    bad := if co.rowPoison &&& rowBit k.acc row = 0 then k.bad &&& ~~~((1 : BitVec 32) <<< row)
           else k.bad ||| ((1 : BitVec 32) <<< row) }

/-- The tile's kind is integer. -/
def accInt (co : Core) (tile : Nat) : Bool := mapGet AccKind.clear co.accKind tile == .integer

/-- The row to be drained: its elements, whether they are integers, and whether the row held an error. -/
def drainRow (co : Core) (k : MatCmd) (row : Nat) : List (BitVec 32) × Bool × Bool :=
  if k.kept.getLsbD row then
    ((List.range 32).map (fun j => mapGet 0 k.held (row * 32 + j)), k.int, k.bad.getLsbD row)
  else
    ((List.range 32).map (accElem co k.acc row), accInt co k.acc, !(co.rowPoison &&& rowBit k.acc row == 0))

/-- How many global rows the whole command drains: those of every member of a gang (R310). -/
def MatCmd.allRows (k : MatCmd) : Nat := if k.gang = 0 then k.rows else k.rows * ((List.range 4).filter (fun p => k.mask.testBit p)).length

/-- The whole command's drained rows as a record. -/
def drainRec (k : MatCmd) : ShapeRec :=
  if k.op = .mdrn then matRec k.a k.fmt 0 k.cols k.allRows k.b
  else matRec (k.eng 8) (bits (k.eng 9) 9 5) 0 k.cols k.allRows k.dstride

/-- The members of a command's gang that stand in queues or on the mesh. -/
def gangMates (s : State) (k : MatCmd) : List MatCmd :=
  ((s.cores.flatMap (fun p => p.2.mq ++ p.2.drains)) ++ s.mesh.map (·.2)).filter (fun m =>
    m.gang != 0 && m.gang == k.gang && m.id != k.id)

/-- The rank of quad position p in a command's mask (R320). -/
def MatCmd.rank (k : MatCmd) (p : Nat) : Nat := ((List.range p).filter (fun x => k.mask.testBit x)).length

/-- Row r of the member with rank q is drained: a member that has stopped has drained the rows below its DRN, and one that no
longer stands anywhere every row (R312, R313, R321). -/
def mateDrained (s : State) (k : MatCmd) (q r : Nat) : Bool :=
  match (gangMates s k).find? (fun m => m.q == q) with
  | some m => decide (r < m.drn)
  | none =>
    match s.gangs.find? (fun g => g.id == k.gang) with
    | some g =>
      match g.stopped.find? (fun x => k.rank x.1 == q) with
      | some x => decide (r < x.2.2)
      | none => !g.left.any (fun p => k.rank p == q)
    | none => true

/-- The command's drain draws for its rounding (`.rsr`, R107). -/
def MatCmd.draws (k : MatCmd) : Bool := Rf.ofCode (BitVec.ofNat 3 (bits (k.eng 9) 12 10)) == some .rsr

/-- The issuer of a command stands in a pre-empted launch: what the command has to tell it waits for the restore (R387, log 116). -/
def issuerAway (s : State) (k : MatCmd) : Bool := uidAway s k.uid

/-- A drain that draws has its issuer's generator at hand, and the rows of every lower rank of its gang are drained, or their members
have stopped: `.rsr` draws in ascending r over the whole command (R312). -/
def drawsDue (s : State) (k : MatCmd) : Bool :=
  !(k.draws && (issuerAway s k || (gangMates s k).any (fun m => decide (m.q < k.q ∧ m.drn < m.rows))))

/-- The thread whose generator a drain draws from (R107, R312): the issuer, spilled beneath a fold too; draws of one that is gone are
values the spec leaves open (log 115). -/
def drawThread (s : State) (k : MatCmd) : Thread × State :=
  let th := threadOf s k.core k.slot k.uid
  if th.status = .free then
    let (p, s1) := freeVal s
    let (q, s2) := freeVal s1
    ({ th with genP := p, genQ := q }, s2)
  else (th, s)

/-- Drain a row to memory; the issuer's thread gives the draws of `.rsr` and comes back with them taken. -/
def drainWrite (c : Nat) (k : MatCmd) (row : Nat) (th : Thread) : Eng (Nat × Thread) := do
  let ag := matAgent c k
  let s ← get
  let (vs, int, bad) := drainRow (getCore s c) k row
  let r := drainRec k
  let env := envOf k.cfg ((Rf.ofCode (BitVec.ofNat 3 (bits (k.eng 9) 12 10))).getD .rne)
  let els := (List.range k.cols).map (fun j => (row, j))
  let f := r.format
  let o := formElems th els (fun w _ j =>
    convertFmt f (if int then .i32 else .f32) env w ((vs[j]?).getD 0).toNat)
  let first := k.q * k.rows
  let isDone := fun e =>
    let g := e / k.cols
    if first ≤ g ∧ g < first + k.rows then decide (g - first ≤ row) else mateDrained s k (g / k.rows) (g % k.rows)
  let clean := fun e =>
    let g := e / k.cols
    isDone e && !(decide (first ≤ g ∧ g < first + k.rows) && k.bad.getLsbD (g - first))
  let count := k.allRows * k.cols
  o.1.forM (fun x =>
    let e := (first + row) * k.cols + x.2.1
    if bad then markElem ag r e else (elemPieces r e).forM (writePiece ag r 0 count clean x.2.2))
  o.1.forM (fun x => fillWords ag r count isDone ((first + row) * k.cols + x.2.1))
  pure (o.2.1, o.2.2)

end Sys2Proof.Machine
end

