-- ==== Sys2Proof/Machine/MatCmds.lean ====
section
/-! DEFINITION. Matrix commands: their checks at issue, the queue, row commits and drains, row handlers, stops, gangs and
commands for other cores (R302 to R327). -/
namespace Sys2Proof.Machine

/-! ### The issuer's progress register (R305) -/

/-- e10 with the ROW and DRN fields of quad position p. -/
def withProgress (v : Word) (p row drn : Nat) : Word :=
  (v &&& ~~~(word (0xFFF * 2 ^ (12 * p)))) ||| word ((row % 64 + drn % 64 * 64) * 2 ^ (12 * p))

/-- e10 with a reason code. -/
def withReason (v : Word) (reason : Nat) : Word := (v &&& ~~~(word (0xFF * 2 ^ 52))) ||| word (reason % 256 * 2 ^ 52)

/-- ROW and DRN of a quad position. -/
def rowField (v : Word) (p : Nat) : Nat := bits v (12 * p + 5) (12 * p)
def drnField (v : Word) (p : Nat) : Nat := bits v (12 * p + 11) (12 * p + 6)

/-- Change the issuer of a command, if it still stands. -/
def onIssuer (s : State) (k : MatCmd) (f : Thread → Thread) : State := onThread s k.core k.slot k.uid f

/-- Change e10 of the issuer. -/
def onE10 (s : State) (k : MatCmd) (f : Word → Word) : State :=
  onIssuer s k (fun th => { th with eng := mapSet 0 th.eng 10 (f (mapGet 0 th.eng 10)) })

/-- The issuer's fields take a command's progress, when it stops (R313); until then the command itself carries it. -/
def setProgress (s : State) (k : MatCmd) : State := onE10 s k (fun v => withProgress v k.p k.row k.drn)

/-! ### The queue (R303, R311) -/

/-- Where a command of these registers begins at quad position p: the first row not committed, and the first not drained; `mclr` has no
rows (R305, R323, R324). -/
def MatOp.firstRow (op : MatOp) (v : Word) (p : Nat) : Nat := if op = .mclr then 0 else if op = .mdrn then drnField v p else rowField v p
def MatOp.firstDrn (op : MatOp) (v : Word) (p : Nat) : Nat := if op = .mclr then 0 else drnField v p

/-- The command has rows to compute. -/
def MatCmd.hasRows (k : MatCmd) : Bool := k.op.computes && decide (0 < k.rows ∧ 0 < k.cols ∧ k.row < k.rows)

/-- Hold the rows that `mdrn` may drain at its turn: those that are full. Rows that a later command has emptied are taken
when they are full again (R324). -/
def keepFull (co : Core) (k : MatCmd) : MatCmd :=
  (List.range k.rows).foldl (fun k i =>
    if k.drn ≤ i ∧ co.rowEmpty &&& rowBit k.acc i = 0 then keepRow co k i (accInt co k.acc) else k) k

/-- A command whose rows are all committed, or that only drains, makes way for the next one. -/
def advanceQueue (co : Core) : Nat → Core
  | 0 => co
  | n + 1 =>
    match co.mq with
    | [] => co
    | k :: rest =>
      if k.hasRows || k.op == .mclr then co
      else
        let k := if k.op = .mdrn then keepFull co k else k
        advanceQueue { co with mq := rest, drains := co.drains ++ [k] } n

/-- Accept a command on a core: its rows become empty, and rows of an earlier pass are held for their drains (R311, R313); without
drains DRN follows ROW (R312). -/
def acceptCmd (s : State) (c : Nat) (k : MatCmd) : State :=
  let co := getCore s c
  let todo := if k.hasRows then (List.range k.rows).filter (fun i => decide (k.row ≤ i)) else []
  let old := if k.op.computes ∧ k.drain ≠ 0 then (List.range k.row).filter (fun i => decide (k.drn ≤ i)) else []
  let k := old.foldl (fun k i => keepRow co k i (accInt co k.acc)) k
  let k := if k.op.computes ∧ k.drain = 0 then { k with drn := k.row } else k
  let co := { co with
    rowEmpty := todo.foldl (fun b i => b ||| rowBit k.acc i) co.rowEmpty
    mq := co.mq ++ [k] }
  putCore s c (advanceQueue co 9)

/-- The queue of eight entries has room. -/
def queueRoom (co : Core) : Bool := decide (co.mq.length + co.drains.length < 8)

/-! ### Checks at issue (R309, R327) -/

/-- A failed check: the reason in REASON and cause 0x0F. -/
def reasonFault {α : Type} (th : Thread) (reason : Nat) : Except Stop α :=
  let v := withReason (mapGet 0 th.eng 10) reason
  .error (.trapAs { th with eng := mapSet 0 th.eng 10 v } 0x0F v)

/-- Fail with a reason where a test holds. -/
def reasonIf (th : Thread) (bad : Bool) (reason : Nat) : Except Stop Unit := if bad then reasonFault th reason else .ok ()

/-- A product format (R80). -/
def productCode (c : Nat) : Bool :=
  match ProductFmt.ofCode (BitVec.ofNat 5 c) with | some _ => true | none => false

/-- A format that may be block-scaled (R307). -/
def scalable (f : Fmt) : Bool := mxKind f

/-- The sparse commands. -/
def MatOp.sparse : MatOp → Bool
  | .s24 | .s48 | .mbs | .mss => true
  | .mma | .mmag | .mrc | .mclr | .mdrn => false

/-- The operands a command reads by address: format, base and offset, stride, scaled. -/
def matOperands (k : MatCmd) : List (Fmt × Word × Word × Word × Bool) :=
  let a := (k.fmtA, k.eng 0, k.offA, k.eng 1, k.ascaled)
  let b := (k.fmtB, k.eng 2, k.offB, k.eng 3, k.bscaled)
  match k.op with
  | .mma | .s24 | .s48 | .mmag | .mrc => [a, b]
  | .mbs => [b]
  | .mss | .mclr | .mdrn => []

/-- Reason 0x02. -/
def badFormats (k : MatCmd) : Bool :=
  !productCode k.codeB || intByte k.fmtA != intByte k.fmtB || (k.ascaled && !scalable k.fmtA) ||
    (k.bscaled && !scalable k.fmtB) || (k.op.sparse && (k.fmtA.isSix || k.fmtB.isSix))

/-- Reason 0x04. -/
def badScaling (k : MatCmd) : Bool :=
  (matOperands k).any (fun o =>
    let bb := blockBytes o.1
    o.2.2.2.2 && ((k.op != .mbs && decide (k.depth % 32 ≠ 0)) || decide (o.2.2.1.toInt % bb ≠ 0 ∨ o.2.2.2.1.toInt % bb ≠ 0)))

/-- Reason 0x05. -/
def badAlignment (k : MatCmd) : Bool :=
  (matOperands k).any (fun o =>
    let ad := (o.2.1 + o.2.2.1).toNat
    let st := o.2.2.2.1.toNat
    (o.1.width == 16 && decide (ad % 2 ≠ 0 ∨ st % 2 ≠ 0)) ||
      (o.1.isSix && decide (ad % 8 ≠ 0 ∨ st % 8 ≠ 0 ∨ k.depth % 32 ≠ 0)))

/-- Reason 0x06. -/
def badDrain (k : MatCmd) : Bool :=
  if k.drain = 3 then true
  else if k.op = .mdrn then
    let n := elemBytes k.fmtA
    decide (k.a.toNat % n ≠ 0 ∨ k.b.toNat % n ≠ 0)
  else if k.drain = 1 then
    match DrainFmt.ofCode (BitVec.ofNat 5 (bits (k.eng 9) 9 5)) with
    | none => true
    | some f =>
      let n := elemBytes f.toFmt
      decide ((k.eng 8).toNat % n ≠ 0 ∨ k.dstride.toNat % n ≠ 0)
  else false

/-- The row handler's header (reason 0x07). -/
def readHandler (s : State) (k : MatCmd) : Except Stop (Header × State) := do
  let va := k.eng 7
  reasonIf (cur s) (decide (va.toNat % 64 ≠ 0)) 0x07
  let (d, s1) ← descRead s va 64 0x06
  let h := headerOf va.toNat d
  reasonIf (cur s) (!headerOk d || h.g != 0 || h.s != 0 || h.l == 0 || h.tiles == 0) 0x07
  .ok (h, s1)

/-- Reason 0x08: the tile's kind is the other path's (R308). -/
def badKind (co : Core) (k : MatCmd) : Bool :=
  let kind := mapGet AccKind.clear co.accKind k.acc
  !k.zero && kind != .clear && ((kind == .integer) != k.intPath)

/-- Reason 0x09, for the quad positions a command uses. -/
def badProgress (k : MatCmd) (ps : List Nat) : Bool :=
  ps.any (fun p => decide (rowField (k.eng 10) p < drnField (k.eng 10) p ∨ k.rows < rowField (k.eng 10) p))

/-- The quad positions of a gang mask. -/
def maskBits (m : Nat) : List Nat := (List.range 4).filter (fun p => m.testBit p)

/-- The checks of R309 in their order, and what they read. -/
def matChecks (s : State) (k : MatCmd) : Except Stop (MatCmd × State) := do
  let th := cur s
  reasonIf th (decide (32 < k.rows ∨ 32 < k.cols)) 0x01
  if k.op = .mdrn then
    reasonIf th (badDrain k) 0x06
    reasonIf th (badProgress k [0]) 0x09
    .ok (k, s)
  else
    reasonIf th (badFormats k) 0x02
    let rf := bits (k.eng 5) 14 12
    reasonIf th (rf != 0 && rf != 6 && rf != 7) 0x03
    reasonIf th (badScaling k) 0x04
    reasonIf th (badAlignment k) 0x05
    reasonIf th (badDrain k) 0x06
    let (h, s1) ← if k.drain = 2 then readHandler s k else .ok (Header.zero, s)
    reasonIf th (k.op != .mmag && k.op != .mrc && badKind (getCore s s.core) k) 0x08
    reasonIf th (badProgress k (if k.op = .mmag then maskBits (k.a.toNat % 16) else [0])) 0x09
    .ok ({ k with header := h }, s1)

/-- A directory descriptor's fields (R333). -/
def dirOf (d : Nat) : Dir := ⟨wordAt d 0, wordAt d 8, fieldAt d 16 4, fieldAt d 20 4⟩

/-- Reason 0x0C for one descriptor. -/
def badDir (k : MatCmd) (va : Word) (d : Nat) : Bool :=
  decide (va.toNat % 64 ≠ 0 ∨ fieldAt d 25 39 ≠ 0 ∨ fieldAt d 24 1 ≠ k.fmt ∨ fieldAt d 8 8 % 32 ≠ 0 ∨ fieldAt d 0 8 % 4 ≠ 0)

/-- Reason 0x0E. -/
def badSparse (k : MatCmd) : Bool :=
  k.drain == 1 || k.ascaled || k.bscaled || ((k.op == .s24 || k.op == .s48) && decide (k.depth % 32 ≠ 0)) ||
    (k.op == .mss && bits (k.eng 5) 5 5 == 1)

/-- The further checks of the sparse commands, and their descriptors (R327, R338, R339). -/
def sparseChecks (s : State) (k : MatCmd) : Except Stop (MatCmd × State) := do
  let th := cur s
  match k.op with
  | .mbs =>
    let (d, s1) ← descRead s k.a 64 0x06
    let x := dirOf d
    reasonIf th (badDir k k.a d) 0x0C
    reasonIf th (decide (x.nrows ≤ k.b.toNat)) 0x0D
    reasonIf th (badSparse k) 0x0E
    .ok ({ k with dirA := x }, s1)
  | .mss =>
    let (d, s1) ← descRead s k.a 64 0x06
    let (e, s2) ← descRead s1 k.b 64 0x06
    let x := dirOf d
    let y := dirOf e
    reasonIf th (badDir k k.a d || badDir k k.b e || x.ncols != y.ncols) 0x0C
    reasonIf th (decide (x.nrows ≤ bits (k.eng 0) 31 0 ∨ y.nrows ≤ bits (k.eng 2) 31 0)) 0x0D
    reasonIf th (badSparse k) 0x0E
    .ok ({ k with dirA := x, dirB := y }, s2)
  | .s24 | .s48 =>
    reasonIf th (badSparse k) 0x0E
    .ok (k, s)
  | .mma | .mmag | .mrc | .mclr | .mdrn => .ok (k, s)

/-! ### Issue -/

/-- A command of the thread at the focus. -/
def newCmd (s : State) (th : Thread) (op : MatOp) (fmt : Nat) (a b : Word) : MatCmd :=
  let v := mapGet 0 th.eng 10
  { id := 0, op := op, fmt := fmt, a := a, b := b, regs := th.eng, cfg := curCfg s, ctx := th.ctx, core := s.core,
    slot := s.slot, uid := th.uid, pc := th.pc, d := 0, p := 0, q := 0, mask := 0, whole := 0, gang := 0,
    row := op.firstRow v 0, drn := op.firstDrn v 0
    ended := false, flags := 0, header := Header.zero, fam := th.fam, dirA := ⟨0, 0, 0, 0⟩, dirB := ⟨0, 0, 0, 0⟩,
    ents := if op = .mbs ∨ op = .mss then none else some ([], []), dirVals := [], hands := [], held := [], kept := 0, bad := 0, int := false }

/-- What every matrix command checks first: 0x06 in slots 29 and 30 (R304), like a privilege check before its registers' names (R52,
log 91). -/
def matIssue (s : State) : Except Stop Unit := do
  if s.slot = 29 ∨ s.slot = 30 then .error (.trap 0x06 0) else .ok ()

/-- The sets of R280 in which a command has accesses. -/
def MatCmd.sets (k : MatCmd) : BitVec 6 := (if k.op.reads then 0b010000 else 0) ||| (if k.writes then 0b100000 else 0)

/-- Waits at issue (R296, R304, R346). -/
def matWaits (s : State) (k : MatCmd) : Except Stop Unit := do
  checkHeld s k.sets
  checkSpec s
  checkCount (cur s).cntM 15

/-- The command is accepted: FAULTED and REASON are cleared and M rises (R304, R305). -/
def matAccepted (s : State) : State :=
  let th := cur s
  setCur s { th with eng := mapSet 0 th.eng 10 (mapGet 0 th.eng 10 &&& word (2 ^ 48 - 1)), cntM := th.cntM + 1, gangMask := 0 }

/-- A command into the issuing core's own queue (R317, R323, R324, R332, R338, R339). A failed check takes nothing from the thread's
ports (R52). -/
def localForm (s : State) (a b : RegNo) (op : MatOp) (fmt : Nat) : Except Stop State := do
  matIssue s
  let r ← readOnlyForm s (if op = .mclr then [a] else [a, b])
  let k := newCmd s r.2 op fmt (r.1.headD 0) (if op = .mclr then 0 else r.1.getLastD 0)
  matWaits s k
  let (k1, s1) ← if op = .mclr then .ok (k, s) else matChecks s k
  let (k2, s2) ← sparseChecks s1 k1
  if queueRoom (getCore s2 s2.core) then
    let (id, s3) := fresh (matAccepted (takePorts s2 r.2))
    .ok (retire (acceptCmd s3 s3.core { k2 with id := id }))
  else .error (.wait .waitReg)

/-- `mma` (R317). -/
def execMma (a b : RegNo) (fmt : ProductFmt) (s : State) := runBody s (localForm s a b .mma fmt.code.toNat)
/-- `mmas.s24` (R332). -/
def execMmasS24 (a b : RegNo) (fmt : ProductFmt) (s : State) := runBody s (localForm s a b .s24 fmt.code.toNat)
/-- `mmas.s48` (R332). -/
def execMmasS48 (a b : RegNo) (fmt : ProductFmt) (s : State) := runBody s (localForm s a b .s48 fmt.code.toNat)
/-- `mclr` (R323). -/
def execMclr (a : RegNo) (s : State) := runBody s (localForm s a a .mclr 0)
/-- `mdrn` (R324). -/
def execMdrn (a b : RegNo) (fmt : DrainFmt) (s : State) := runBody s (localForm s a b .mdrn fmt.code.toNat)
/-- `mbs` (R338). -/
def execMbs (a b : RegNo) (fmt : ProductFmt) (s : State) := runBody s (localForm s a b .mbs fmt.code.toNat)
/-- `mss` (R339). -/
def execMss (a b : RegNo) (fmt : ProductFmt) (s : State) := runBody s (localForm s a b .mss fmt.code.toNat)

/-- `dpf` asks for a read-ahead, which changes no architectural state; it waits for nothing (R341). -/
def execDpf (a b : RegNo) (s : State) :=
  runBody s (do
    checkNames (cur s) [a, b]
    .ok (retire s))

/-- The logical core at quad position p of a logical core's quad (R305). -/
def quadCore (l p : Nat) : Nat :=
  let x := l % 32
  let y := l / 32
  32 * (y - y % 2 + p / 2) + (x - x % 2 + p % 2)

/-- The physical cores at the positions of a gang mask: position and core; none where one is not mapped (R320). -/
def gangCores (s : State) (k : MatCmd) (mask : Nat) : Option (List (Nat × Nat)) :=
  let l := logicalCore s k.ctx k.core
  (maskBits mask).mapM (fun p => (physCore s k.ctx (quadCore l p)).map (fun c => (p, c)))

/-- The mask of the gang whose members a command's own arrive among: its mask, and where that is FAULTED as a gang's stop has left it,
the mask of that gang, whose barrier target does not change (R321). -/
def wholeMask (th : Thread) (mask : Nat) : Nat :=
  if th.gangMask ≠ 0 ∧ mask = bits (mapGet 0 th.eng 10) 51 48 then th.gangMask else mask

/-- The barrier word of a gang on a member's core (R320). -/
def gangWord (s : State) (k : MatCmd) (c : Nat) : Option Loc :=
  match (resolve s c (if c = k.core then k.slot else 32) k.ctx k.b 8 true true).1 with
  | .ok l => if l.win = .localSp ∨ l.win = .urn then some l else none
  | .error _ => none

/-- `mmag` (R320): one member for each bit of the mask, over the mesh. -/
def execMmag (a b : RegNo) (fmt : ProductFmt) (s : State) :=
  runBody s (do
    matIssue s
    let r ← readOnlyForm s [a, b]
    let k := newCmd s r.2 .mmag fmt.code.toNat (r.1.headD 0) (r.1.getLastD 0)
    matWaits s k
    let (k1, s1) ← matChecks s k
    let cores := gangCores s1 k1 (k1.a.toNat % 16)
    reasonIf (cur s1) (k1.a == 0 || decide (16 ≤ k1.a.toNat) || cores.isNone || decide (k1.b.toNat % 8 ≠ 0) ||
      (cores.getD []).any (fun p => (gangWord s1 k1 p.2).isNone)) 0x0A
    if (cores.getD []).any (fun p => (getCore s1 p.2).killed) then .error (.trap 0x15 0) else .ok ()
    let (g, s2) := fresh (matAccepted (takePorts s1 r.2))
    let mask := k1.a.toNat
    let whole := wholeMask (cur s) mask
    let gang : Gang :=
      { id := g, core := s.core, slot := s.slot, uid := r.2.uid, ctx := r.2.ctx, pc := r.2.pc, whole := whole, writes := k1.writes, left := maskBits mask,
        cause := 0, reason := 0, faddr := 0, stopped := [], ended := false }
    let v := k1.eng 10
    let s3 := (cores.getD []).foldl (fun st p =>
      let (id, st) := fresh st
      { st with mesh := st.mesh ++ [(p.2, { k1 with
          id := id, p := p.1, q := ((maskBits mask).filter (fun x => decide (x < p.1))).length, mask := mask
          whole := whole, gang := g, row := rowField v p.1, drn := drnField v p.1 })] }) s2
    .ok (retire { s3 with gangs := s3.gangs ++ [gang] }))

/-- `mrc` (R319): the command leaves for another core, d is empty. -/
def execMrc (d a b : RegNo) (fmt : ProductFmt) (s : State) :=
  runBody s (do
    matIssue s
    let r ← readForm s [a, b] d
    let va := r.1.headD 0
    let k := newCmd s r.2 .mrc fmt.code.toNat va (r.1.getLastD 0)
    matWaits s k
    match physCore s r.2.ctx (bits va 9 0) with
    | none => .error (.trap 0x06 0)
    | some c =>
      let (k1, s1) ← matChecks s k
      let (id, s2) := fresh (pendReg (matAccepted (takePorts s1 r.2)) d)
      .ok (retire { s2 with mesh := s2.mesh ++ [(c, { k1 with id := id, d := d })] }))

/-- `macc` (R322): the tile register is written once the rows are full. b[2:0] rounds, b[8] clears. -/
def execMacc (t : BitVec 6) (a b : RegNo) (fmt : DrainFmt) (s : State) :=
  runBody s (do
    if 16 ≤ t.toNat then .error (.trap 0x01 0) else .ok ()
    matIssue s
    let tn : TileNo := t.setWidth 4
    checkTiles (cur s) [tn]
    let r ← readOnlyForm s [a, b]
    if tileBusy s r.2 tn then .error (.wait .waitReg) else .ok ()
    checkHeld s 0
    checkSpec s
    checkCount r.2.cntM 15
    let x := r.1.headD 0
    let y := r.1.getLastD 0
    let s1 := addM (setCur s r.2)
    .ok (retire (sendRequest s1 { threadRequest s1 with
      kind := .macc tn fmt (bits x 1 0) (bits x 12 8) (bits y 2 0) (y.getLsbD 8), e := curCfg s })))

/-- The rows of a `macc`. -/
def maccRows (row : Nat) : List Nat := (List.range 8).filter (fun r => decide (row + r < 32))

/-- Perform a `macc` on its core, none while a row is empty (R322). -/
def maccResult (s : State) (r : Request) (t : TileNo) (fmt : DrainFmt) (acc row rf : Nat) (clr : Bool) : Option State :=
  let co := getCore s r.core
  let rows := maccRows row
  if rows.any (fun i => !(co.rowEmpty &&& rowBit acc (row + i) == 0)) then none
  else
    let th := threadOf s r.core r.slot r.uid
    let f := fmt.toFmt
    let env := envOf r.e ((Rf.ofCode (BitVec.ofNat 3 rf)).getD .rne)
    let src : Fmt := if accInt co acc then .i32 else .f32
    let o := formElems th (rows.flatMap (fun i => (List.range 32).map (fun c => (i, c))))
      (fun w i c => convertFmt f src env w (accElem co acc (row + i) c).toNat)
    let bad := rows.any (fun i => !(co.rowPoison &&& rowBit acc (row + i) == 0))
    let th1 := orStatus (writeElems o.2.2 t f o.1) o.2.1
    let th2 := { th1 with
      cntM := th1.cntM - 1
      tilePoison := if bad then th1.tilePoison ||| ((1 : BitVec 16) <<< t.toNat) else th1.tilePoison }
    let co1 := if clr then
        { co with acc := rows.foldl (fun m i => (List.range 32).foldl (fun m c =>
            mapSet 0 m (acc * 1024 + (row + i) * 32 + c) 0) m) co.acc }
      else co
    some (putCore (onThread s r.core r.slot r.uid (fun _ => th2)) r.core co1)

/-! ### The end of a command -/

/-- A trap of a command for its issuer (R265, R313), behind those that already wait: its detail is FADDR, or e10 for cause 0x0F. -/
def matTrap (s : State) (k : MatCmd) (cause : Nat) (faddr : Word) : State :=
  postTrap s k.core k.slot k.uid (if k.gang = 0 then k.id else k.gang) cause
    (if cause = 0x0F then mapGet 0 (threadOf s k.core k.slot k.uid).eng 10 else faddr) k.pc

/-- The trap for row handlers that were ended without resuming (R314). -/
def endedTrap (s : State) (k : MatCmd) (ended : Bool) : State :=
  if ended then matTrap (onE10 s k (fun v => withReason v 0x0B)) k 0x0F 0 else s

/-- Write the answer of `mrc`. -/
def answerMrc (s : State) (k : MatCmd) (r : Reg) : State :=
  let th := getThread s k.core k.slot
  if k.op = .mrc ∧ th.uid = k.uid ∧ th.status ≠ .free then writeLate s k.core k.slot k.id k.d r else s

/-- What a gang that has ended writes for its members that stopped (R313, R321): ROW and DRN, FAULTED and the first stop's REASON in
e10, and its FADDR; the issuer's core keeps the gang's mask beside FAULTED. -/
def reportGang (s : State) (k : MatCmd) (g : Gang) : State :=
  let s1 := onE10 s k (fun v =>
    let v1 := g.stopped.foldl (fun v x => withProgress v x.1 x.2.1 x.2.2 ||| word (2 ^ (48 + x.1))) v
    if g.cause = 0x0F then withReason v1 g.reason else v1)
  let s2 := onIssuer s1 k (fun th => { th with gangMask := g.whole })
  matTrap (setEng s2 k.core k.slot k.uid 20 g.faddr) k g.cause g.faddr

/-- M falls, and the issuer traps where row handlers of the command were ended without resuming (R314); for a gang's member, when its
last member has ended, and then the members that stopped are reported and the first stop's cause is raised before that (R321). -/
def lowerCmd (s : State) (k : MatCmd) : State :=
  if k.gang = 0 then endedTrap (lowerM s k.core k.slot k.uid) k k.ended
  else
    let gs := s.gangs.map (fun g => if g.id = k.gang then { g with left := g.left.filter (· != k.p), ended := g.ended || k.ended } else g)
    match gs.find? (fun g => g.id == k.gang) with
    | some g =>
      if g.left.isEmpty then
        let s1 := lowerM { s with gangs := gs.filter (fun x => x.id != k.gang) } k.core k.slot k.uid
        endedTrap (if g.stopped.isEmpty then s1 else reportGang s1 k g) k g.ended
      else { s with gangs := gs }
    | none => s

/-- Note a member's stop in its gang, with its progress; the first stop gives the cause. -/
def noteStop (s : State) (k : MatCmd) (cause reason : Nat) (faddr : Word) : State :=
  { s with gangs := s.gangs.map (fun g =>
      if g.id = k.gang then
        let g1 := { g with stopped := g.stopped ++ [(k.p, k.row, k.drn)] }
        if g.stopped.isEmpty then { g1 with cause := cause, reason := reason, faddr := faddr } else g1
      else g) }

/-- Take a command off a core. -/
def dropCmd (s : State) (c id : Nat) : State :=
  let co := getCore s c
  putCore s c (advanceQueue { co with mq := co.mq.filter (fun m => m.id != id), drains := co.drains.filter (fun m => m.id != id) } 9)

/-- The issuer's flags gain a command's. -/
def joinFlags (s : State) (k : MatCmd) : State := onIssuer s k (fun th => { th with fpStatus := th.fpStatus ||| k.flags })

/-- A stop's report to the issuer (R313): progress, FAULTED, REASON for 0x0F, FADDR. -/
def reportStop (s : State) (k : MatCmd) (cause reason : Nat) (faddr : Word) : State :=
  let s1 := onE10 (setProgress (joinFlags s k) k) k (fun v =>
    let v := v ||| word (2 ^ (48 + k.p))
    if cause = 0x0F then withReason v reason else v)
  setEng s1 k.core k.slot k.uid 20 faddr

/-- A queued command that a stop of its slot discards: it lowers M (R313). -/
def discardCmd (s : State) (k : MatCmd) : State :=
  lowerCmd (answerMrc s k (fullReg 2)) k

/-- Discard the later commands of an issuer that are still queued, here or on their way: behind the head of a queue, or at the head
without a row or tile done (R313). The model's choice: of a later gang the members that are still queued are discarded, each by itself,
and those that already run go on, with the gang ending when they do (log 122). -/
def discardLater (s : State) (k : MatCmd) : State :=
  let later := fun (m : MatCmd) => m.uid == k.uid && decide (k.id < m.id) && (k.gang == 0 || m.gang != k.gang)
  let waiting := fun (co : Core) =>
    (match co.mq with | [] => [] | h :: r => if h.row = h.op.firstRow (h.eng 10) h.p then h :: r else r)
  let gone := (s.cores.flatMap (fun p => (waiting p.2).filter later)) ++ ((s.mesh.map (·.2)).filter later)
  let s1 := { s with
    mesh := s.mesh.filter (fun m => !later m.2)
    cores := s.cores.map (fun p =>
      (p.1, advanceQueue { p.2 with mq := p.2.mq.filter (fun m => !gone.any (fun g => g.id == m.id)) } 9)) }
  gone.foldl discardCmd s1

/-- A command stops on core c (R313, R319, R321); a gang's member is reported when its gang has ended. The later commands are discarded
before the queue moves on. -/
def stopCmd (s : State) (c : Nat) (k : MatCmd) (cause reason : Nat) (faddr : Word) : State :=
  let s1 := dropCmd (discardLater s k) c k.id
  if k.gang = 0 then lowerCmd (matTrap (answerMrc (reportStop s1 k cause reason faddr) k (fullReg 2)) k cause faddr) k
  else lowerCmd (noteStop (joinFlags s1 k) k cause reason faddr) k

/-- The arrivals a completing member makes at the barrier word of every member of its gang as first issued (R321). -/
def gangArrive (s : State) (k : MatCmd) : State :=
  if k.gang = 0 then s
  else
    ((gangCores s k k.whole).getD []).foldl (fun st p =>
      match gangWord st k p.2 with
      | some l =>
        if l.drop then st
        else sendRequest st
          { Request.zero with core := p.2, ctx := k.ctx, pc := k.pc, kind := .bar, va := k.b, key := l.key, width := 8, scope := 2,
                              rel := true }
      | none => st) s

/-- A command completes on core c (R310, R314, R319, R321). -/
def completeCmd (s : State) (c : Nat) (k : MatCmd) : State :=
  let s1 := joinFlags (dropCmd s c k.id) k
  let s2 := if k.op = .mclr then s1 else onE10 s1 k (fun v => withProgress v k.p 0 0)
  lowerCmd (gangArrive (answerMrc s2 k (fullReg 0)) k) k

/-! ### Events -/

/-- A command that is at its turn: the head of the queue, or one that only drains. -/
def activeCmd (co : Core) (id : Nat) : Option MatCmd := (co.mq.take 1 ++ co.drains).find? (fun k => k.id == id)

/-- Replace a command on a core. -/
def setCmd (co : Core) (k : MatCmd) : Core :=
  let f := fun (m : MatCmd) => if m.id = k.id then k else m
  { co with mq := co.mq.map f, drains := co.drains.map f }

/-- Commit a computed row whole (R310, R311). -/
def commitRow (s : State) (c : Nat) (k : MatCmd) (vs : List (BitVec 32)) (fl : Nat) : State :=
  let co := getCore s c
  let i := k.row
  let bit := rowBit k.acc i
  let co1 := { co with
    acc := ((List.range vs.length).zip vs).foldl (fun m p => mapSet 0 m (k.acc * 1024 + i * 32 + p.1) p.2) co.acc
    accKind := mapSet AccKind.clear co.accKind k.acc (if k.intPath then .integer else .float)
    rowEmpty := co.rowEmpty &&& ~~~bit, rowPoison := co.rowPoison &&& ~~~bit }
  let k1 := { k with row := i + 1, drn := if k.drain = 0 then i + 1 else k.drn, flags := k.flags ||| BitVec.ofNat 5 fl }
  let k2 := if k.drain = 0 then k1 else keepRow co1 k1 i k.intPath
  putCore s c (advanceQueue (setCmd co1 k2) 9)

/-- MATRIX_ROW_COMMIT: the running command computes and commits its next row; it waits while the row is handler-pending. A row handler that
waits for what only a commit to its own row, or a command behind that commit, would produce holds it up for good: neither proceeds, and
the outcome stays with its context, whose launch can be pre-empted while other contexts' launches run and end (R316, R2). A command
with directories first reads them, a field in each step (R336, R342). -/
def execMatrixRowCommit (s : State) : Host.Outcome State Fault Refusal :=
  match s.event with
  | .matrixRowCommit c =>
    match (getCore s c).mq with
    | [] => .next s
    | k :: _ =>
      if k.hasRows then
        match dirStep c k s with
        | some (.ok (k1, s1)) => .next (putCore s1 c (setCmd (getCore s1 c) k1))
        | some (.error (0, va)) => .next (engPark s (matAgent c k) va)
        | some (.error _) => .next s
        | none =>
          match rowCompute c k s with
          | .error (0, va) => .next (engPark s (matAgent c k) va)
          | .error _ => .next s
          | .ok ((vs, fl), s1) =>
            if (getCore s1 c).rowPend &&& rowBit k.acc k.row = 0 then .next (commitRow s1 c k vs fl) else .next s
      else .next s
  | _ => .next s

/-- A row of the command is due to be drained to memory. -/
def drainDue (co : Core) (k : MatCmd) : Bool :=
  if k.op = .mdrn then
    decide (k.drn < k.rows ∧ 0 < k.cols) && (k.kept.getLsbD k.drn || co.rowEmpty &&& rowBit k.acc k.drn == 0)
  else k.op.computes && k.drain == 1 && decide (k.drn < k.row ∧ 0 < k.cols)

/-- MATRIX_ROW_DRAIN: the next row is drained, rows ascending (R312). -/
def execMatrixRowDrain (s : State) : Host.Outcome State Fault Refusal :=
  match s.event with
  | .matrixRowDrain c id =>
    match activeCmd (getCore s c) id with
    | some k =>
      if drainDue (getCore s c) k && drawsDue s k then
        let (th, s) := drawThread s k
        match drainWrite c k k.drn th s with
        | .error (0, va) => .next (engPark s (matAgent c k) va)
        | .error _ => .next s
        | .ok ((fl, th1), s1) =>
          let s2 := onIssuer s1 k (fun x => { x with genP := th1.genP, genQ := th1.genQ })
          let n := k.drn + 1
          let k1 := { k with drn := n, row := if k.op = .mdrn then n else k.row, flags := k.flags ||| BitVec.ofNat 5 fl }
          .next (putCore s2 c (setCmd (getCore s2 c) k1))
      else .next s
    | none => .next s
  | _ => .next s

/-- Where the stack of a row handler lies: in its slot's reserve (R315, log 6). -/
def rowStack (co : Core) (t : Nat) : Nat := co.saveBase + (if t = 29 then 0x17200 else 0x1B400)

/-- The slot a row handler takes, none while both are occupied. -/
def rowSlot (s : State) (c : Nat) : Option Nat := [29, 30].find? (fun t => (getThread s c t).status == .free)

/-- Start the row handler of a committed row (R315). -/
def startRow (s : State) (c t : Nat) (k : MatCmd) : State :=
  let i := k.drn
  let r := k.q * k.rows + i
  let (vs, _, bad) := drainRow (getCore s c) k i
  let regs := localRegs k.header [word r, k.eng 8 + word r * k.dstride, word k.acc, word k.slot]
  let s1 := startThread s c t
    ⟨.rowHandler, k.ctx, k.fam, k.uid, k.id, k.acc * 32 + i, k.header, rowStack (getCore s c) t, regs⟩
  let th := getThread s1 c t
  let th1 := ((List.range 32).zip vs).foldl (fun th p => setTileBytes th 0 (4 * p.1) (leBytes 4 p.2.toNat)) th
  let s2 := putThread s1 c t { th1 with tilePoison := if bad then 1 else 0 }
  let co := getCore s2 c
  let k1 := { k with drn := i + 1, hands := k.hands ++ [th.uid] }
  putCore s2 c (setCmd { co with rowPend := co.rowPend ||| rowBit k.acc i } k1)

/-- ROW_HANDLER_START (R315): handlers start in ascending row. -/
def execRowHandlerStart (s : State) : Host.Outcome State Fault Refusal :=
  match s.event with
  | .rowHandlerStart c id =>
    match activeCmd (getCore s c) id, rowSlot s c with
    | some k, some t =>
      if k.op.computes && k.drain == 2 && decide (k.drn < k.row ∧ 0 < k.cols) then .next (startRow s c t k) else .next s
    | _, _ => .next s
  | _ => .next s

/-- The tiles an `mclr` clears, and whether one has a handler-pending row (R323). -/
def clearTiles (k : MatCmd) : List Nat := (List.range 4).filter (fun i => k.a.getLsbD i)
def tilePending (co : Core) (t : Nat) : Bool := (List.range 32).any (fun i => !(co.rowPend &&& rowBit t i == 0))

/-- Clear accumulator tiles: every element +0, every row full, kind clear. -/
def clearAcc (co : Core) (ts : List Nat) : Core :=
  ts.foldl (fun co t =>
    { co with
      acc := co.acc.filter (fun p => p.1 / 1024 != t), accKind := mapSet AccKind.clear co.accKind t .clear
      rowEmpty := (List.range 32).foldl (fun b i => b &&& ~~~(rowBit t i)) co.rowEmpty
      rowPoison := (List.range 32).foldl (fun b i => b &&& ~~~(rowBit t i)) co.rowPoison }) co

/-- Every row of the command is drained, and what its row handlers do is done: their accesses are the command's (R310, R326,
log 95). -/
def allDrained (s : State) (k : MatCmd) : Bool :=
  (k.rows == 0 || k.cols == 0 || decide (k.rows ≤ k.drn)) &&
    !(liveThreads s).any (fun p => k.hands.contains p.2.2.uid) && !uidsOwe s k.hands

/-- `mclr` goes tile by tile, k from 0 to 3 (R323): the next tile is cleared once none of its rows is handler-pending, and with the
last one the command completes. `row` counts the tiles that are past. -/
def clearNext (s : State) (c : Nat) (k : MatCmd) : State :=
  match (clearTiles k).filter (fun t => decide (k.row ≤ t)) with
  | [] => completeCmd s c k
  | t :: rest =>
    if tilePending (getCore s c) t then s
    else
      let s1 := putCore s c (clearAcc (getCore s c) [t])
      if rest.isEmpty then completeCmd s1 c k else putCore s1 c (setCmd (getCore s1 c) { k with row := t + 1 })

/-- MATRIX_COMMAND_COMPLETE (R310, R323). -/
def execMatrixCommandComplete (s : State) : Host.Outcome State Fault Refusal :=
  match s.event with
  | .matrixCommandComplete c id =>
    match activeCmd (getCore s c) id with
    | some k =>
      if issuerAway s k then .next s
      else if k.op = .mclr then .next (clearNext s c k)
      else if !k.hasRows && allDrained s k then .next (completeCmd s c k)
      else .next s
    | none => .next s
  | _ => .next s

/-- What hinders a command at its turn: a failing operand of its next row, or a failing drain; none while it can go on. -/
def matFault (s : State) (c : Nat) (k : MatCmd) : Option (Nat × Word) :=
  let compute :=
    if k.hasRows then
      match dirStep c k s with
      | some (.error e) => some e
      | some (.ok _) => none
      | none => (match rowCompute c k s with | .error e => some e | .ok _ => none)
    else none
  match compute with
  | some (0, _) => none
  | some e => some e
  | none =>
    if drainDue (getCore s c) k && drawsDue s k then
      match drainWrite c k k.drn (threadOf s k.core k.slot k.uid) s with
      | .error (0, _) => none
      | .error e => some e
      | .ok _ => none
    else none

/-- MATRIX_COMMAND_STOP: at a row boundary, where an operand or a drain fails (R313, R330, R336). -/
def execMatrixCommandStop (s : State) : Host.Outcome State Fault Refusal :=
  match s.event with
  | .matrixCommandStop c id =>
    match activeCmd (getCore s c) id with
    | some k =>
      match matFault s c k with
      | some (cause, va) => if issuerAway s k then .next s else .next (stopCmd s c k cause 0 va)
      | none => .next s
    | none => .next s
  | _ => .next s

/-! ### Commands that travelled over the mesh (R303, R318, R319) -/

/-- The command is admitted by the target's capability table (R318). -/
def admitted (co : Core) (k : MatCmd) : Bool :=
  let cap := k.eng 11
  let e := mapGet 0 co.caps (bits cap 19 16)
  e.getLsbD 63 && bits e 62 0 == bits cap 62 0 && !cap.getLsbD 63 && bits cap 28 20 == k.ctx &&
    (bits cap 32 29).testBit k.acc && (k.drain != 2 || cap.getLsbD 33) && (k.drain != 1 || cap.getLsbD 34)

/-- `mrc` is not admitted: d ← 1, M falls, and 0x0E where CAPTRAP was set at its issue (R319, R444). -/
def rejectMrc (s : State) (k : MatCmd) : State :=
  let s1 := lowerCmd (answerMrc s k (fullReg 1)) k
  if k.cfg.getLsbD 8 then matTrap s1 k 0x0E 0 else s1

/-- A command on the mesh waits while its issuer is pre-empted, or its target's core is that of a pre-empted launch of its context and
no other launch of the context runs there (R387, log 116). -/
def meshHeld (s : State) (m : Nat × MatCmd) : Bool :=
  issuerAway s m.2 ||
    (s.launches.any (fun l => l.state == .preempted && l.ctx == m.2.ctx && l.saved.any (fun x => x.phys == m.1)) &&
      !s.launches.any (fun l => l.state == .running && l.ctx == m.2.ctx && l.cores.contains m.1))

/-- MATRIX_COMMAND_ACCEPT: the earliest arrived at a core of those that do not wait, once an entry is free. -/
def execMatrixCommandAccept (s : State) : Host.Outcome State Fault Refusal :=
  match s.event with
  | .matrixCommandAccept id =>
    match s.mesh.find? (fun m => m.2.id == id) with
    | some (c, k) =>
      let co := getCore s c
      let first := (s.mesh.find? (fun m => m.1 == c && !meshHeld s m)).map (fun m => m.2.id)
      if first = some id ∧ co.sealed = false then
        let s1 := { s with mesh := s.mesh.filter (fun m => m.2.id != id) }
        if k.op == .mrc && !admitted co k then .next (rejectMrc s1 k)
        else if !queueRoom co then .next s
        else if badKind co k then .next (stopCmd s1 c k 0x0F 0x08 (mapGet 0 (threadOf s1 k.core k.slot k.uid).eng 20))
        else .next (acceptCmd s1 c k)
      else .next s
    | none => .next s
  | _ => .next s

end Sys2Proof.Machine
end

