-- ==== Sys2Proof/Machine/Save.lean ====
section
/-! DEFINITION. Pre-emption, the save image and its restore (R241 to R244, R325, R387 to R391). The image's bytes hold what
R388 to R390 give it; what the layout leaves to this device stays with the launch (log 15). -/
namespace Sys2Proof.Machine

/-! ### Bytes of a context's memory -/

/-- Write bytes at a virtual address, page by page. -/
def writeVirt (ctx : Nat) : Nat → Nat → List Byte → State → State
  | 0, _, _, s => s
  | n + 1, va, bs, s =>
    if bs.isEmpty then s
    else
      let m := 2 ^ 16 - va % 2 ^ 16
      let now := bs.take m
      let s1 := match hubPlace s ctx (word va) 1 true with
        | some l =>
          let s1 := pokeBytes s l.key now
          { s1 with marks := s1.marks.filter (fun k => !decide (l.key ≤ k ∧ k < l.key + now.length)) }
        | none => s
      writeVirt ctx n (va + m) (bs.drop m) s1

/-- Read n bytes at a virtual address, page by page: the bytes, or the offset of the first that cannot be read and whether an
uncorrectable error is the reason. -/
def readVirt (s : State) (ctx : Nat) : Nat → Nat → Nat → Nat → Except (Nat × Bool) (List Byte)
  | 0, _, _, _ => .ok []
  | f + 1, off, va, n =>
    if n = 0 then .ok []
    else
      let m := if n < 2 ^ 16 - va % 2 ^ 16 then n else 2 ^ 16 - va % 2 ^ 16
      match hubPlace s ctx (word va) 1 false with
      | none => .error (off, false)
      | some l =>
        match (List.range ((m + 63) / 64)).find? (fun i => isMarked s (l.key + 64 * i)) with
        | some i => .error (off + 64 * i, true)
        | none =>
          match readVirt s ctx f (off + m) (va + m) (n - m) with
          | .ok r => .ok (memBytes s.mem l.key m ++ r)
          | .error e => .error e

/-- Bytes with zeros up to a multiple of 64. -/
def pad64 (bs : List Byte) : List Byte := bs ++ List.replicate (roundUp bs.length 64 - bs.length) 0

/-- A number at an offset of bytes. -/
def bytesAt (bs : List Byte) (off n : Nat) : Nat := leValue ((bs.drop off).take n)

/-! ### Writing the image (R388 to R390) -/

/-- The shape-save area (R242). -/
def shapeArea (th : Thread) : List Byte :=
  (List.range 4).flatMap (fun k => leBytes 16 (mapGet (0 : BitVec 128) th.shapes k).toNat) ++
    leBytes 4 (match th.point with | some p => p.toNat | none => 0) ++ leBytes 1 (if th.point.isSome then 1 else 0) ++
    leBytes 1 8 ++ leBytes 2 128 ++ leBytes 2 th.tilePoison.toNat ++ leBytes 1 th.hdr.tiles ++ List.replicate 53 0

/-- A thread area's size. -/
def areaSize (th : Thread) : Nat := 1280 + 1024 * th.hdr.tiles

/-- The record of a saved thread: a held one keeps its trap record, any other has one with its PC and the areas' addresses. -/
def savedRecord (s : State) (c t : Nat) (th : Thread) (va : Nat) : List Byte :=
  if th.status = .trapped then memBytes s.mem (trapRecordKey s c t) 64
  else
    recordBytes th.hdr.addr th.status.code (recordKey s th) th.pc.toNat (va + 64) (va + 1280) (va + 640) (recordWord4 0 th t) th.ctx

/-- A thread area (R390) at a virtual address. -/
def threadArea (s : State) (c t : Nat) (th : Thread) (va : Nat) : List Byte :=
  savedRecord s c t th va ++ frameBytes th.regs ++ shapeArea th ++
    (List.range 32).flatMap (fun e => leBytes 8 (mapGet (0 : Word) th.eng e).toNat) ++
    ((List.range 8).flatMap (fun i => leBytes 8 (match th.famTable[i]? with | some e => e.handle.toNat | none => 0))) ++
    ((List.range 4).flatMap (fun i =>
      match th.ports[i]? with | some p => leBytes 8 p.addr.toNat ++ leBytes 8 p.pos | none => List.replicate 16 0)) ++
    leBytes 8 th.genP.toNat ++ leBytes 8 th.genQ.toNat ++ leBytes 8 th.guard0.toNat ++ leBytes 8 th.guard1.toNat ++
    List.replicate 16 0 ++ List.replicate 80 0 ++
    (List.range (1024 * th.hdr.tiles)).map (fun i => mapGet (0 : Byte) th.tiles i)

/-- The number of an operation in a saved command. -/
def matOpNo : MatOp → Nat
  | .mma => 1 | .s24 => 2 | .s48 => 3 | .mmag => 4 | .mrc => 5 | .mclr => 6 | .mdrn => 7 | .mbs => 8 | .mss => 9

/-- A matrix command's entry, with its progress in e10 (R325, R389). -/
def matEntry (k : MatCmd) : List Byte :=
  (List.range 12).flatMap (fun e => leBytes 8 (if e = 10 then withProgress (k.eng 10) k.p k.row k.drn else k.eng e).toNat) ++
    leBytes 8 k.a.toNat ++ leBytes 8 k.b.toNat ++ leBytes 1 k.slot ++ leBytes 1 (matOpNo k.op) ++ leBytes 1 k.fmt ++
    leBytes 1 k.mask ++ List.replicate 12 0

/-- Where a copy command starts again: its lowest element not performed (R265). -/
def copyResume (k : CopyCmd) : Nat := (copyLowest k).getD (recCount k.dst)

/-- A copy command's entry (R389). -/
def copyEntry (k : CopyCmd) : List Byte :=
  (List.range 11).flatMap (fun i => leBytes 8 (if i = 6 then copyResume k else (k.eng (16 + i)).toNat)) ++
    leBytes 8 k.a.toNat ++ leBytes 8 k.b.toNat ++ leBytes 1 (if k.chain then 2 else 1) ++ leBytes 1 k.slot ++ List.replicate 22 0

/-- The accumulators: four tiles, then for each its kind, its full bits and its handler-pending bits (R389). -/
def accBytes (co : Core) : List Byte :=
  (List.range 4096).flatMap (fun i => leBytes 4 (mapGet (0 : BitVec 32) co.acc i).toNat) ++
    (List.range 4).flatMap (fun t =>
      leBytes 4 (match mapGet AccKind.clear co.accKind t with | .clear => 0 | .float => 1 | .integer => 2) ++
        leBytes 4 (2 ^ 32 - 1 - (co.rowEmpty >>> (32 * t)).toNat % 2 ^ 32) ++
        leBytes 4 ((co.rowPend >>> (32 * t)).toNat % 2 ^ 32) ++ leBytes 4 0)

/-- The commands of a core's matrix unit in acceptance order: those that only drain came first. -/
def matOrder (co : Core) : List MatCmd := co.drains ++ co.mq

/-- An instruction memory slot's overlay, where it is valid. -/
def validOverlay (im : ImemSlot) : Nat := if im.state = .valid then 2 ^ 16 + im.overlay else 0

/-- The core header: counts, valid overlays, bin tables (R389). -/
def coreHeader (co : Core) (threads tasks : Nat) : List Byte :=
  pad64 (leBytes 2 threads ++ leBytes 2 (matOrder co).length ++ leBytes 2 co.copies.length ++ leBytes 2 tasks ++
    leBytes 2 co.allocs.length ++ leBytes 3 (validOverlay co.im0) ++ leBytes 3 (validOverlay co.im1) ++
    (List.range 4).flatMap (fun i =>
      match mapFind co.bins i with
      | some b => leBytes 4 b.base ++ leBytes 4 b.nbins ++ leBytes 1 b.op ++ leBytes 1 b.typ
      | none => List.replicate 10 0))

/-- The monitor table: 64 entries (R389). -/
def monBytes (co : Core) : List Byte :=
  (List.range 64).flatMap (fun i =>
    match co.mons[i]? with
    | some m => leBytes 8 m.va.toNat ++ leBytes 1 m.slot ++ leBytes 1 (if m.fired = 0 then 1 else 3) ++ List.replicate 6 0
    | none => List.replicate 16 0)

/-- The state bits of a range of words, as bytes. -/
def stateBytes (s : State) (k n : Nat) : List Byte :=
  (List.range (n / 64)).map (fun i => BitVec.ofNat 8 ((List.range 8).foldl (fun a j =>
    if isFull s (k + 64 * i + 8 * j) then a + 2 ^ j else a) 0))

/-- A truth value as a bit. -/
def flagBit (b : Bool) : Nat := if b then 1 else 0

/-- The edge runs of a core, in their order. -/
def coreRuns (s : State) (c : Nat) : List EdgeRun := s.runs.filter (fun r => r.core == c)

/-- What an edge run has to know of itself, 32 bytes: descriptor, PC, slot, flags, completed rounds, the failure it met (log 15). -/
def runHead (r : EdgeRun) : List Byte :=
  leBytes 8 r.desc.addr.toNat ++ leBytes 4 r.pc.toNat ++ leBytes 1 r.slot ++
    leBytes 1 (1 + 2 * flagBit r.started + 4 * flagBit r.push + 8 * flagBit r.curA + 16 * flagBit r.applyPhase + 32 * r.stage) ++
    leBytes 2 (match r.fail with | some f => f.1 % 2 ^ 15 * 2 + 1 | none => 0) ++ leBytes 8 r.rounds ++
    leBytes 8 (match r.fail with | some f => f.2.toNat | none => 0)

/-- An item of a run's work, 24 bytes (log 15). -/
def itemEntry (it : EdgeItem) : List Byte :=
  let e := fun (kind v x y : Nat) => leBytes 4 kind ++ leBytes 4 v ++ leBytes 8 x ++ leBytes 8 y
  match it with
  | .scatter src e1 dst => e 0 src e1 dst
  | .combine d m => e 1 d m.toNat 0
  | .apply v => e 2 v 0 0
  | .scan d e1 => e 3 d e1 0

/-- The item that 24 bytes hold. -/
def itemFrom (b : List Byte) : EdgeItem :=
  let v := bytesAt b 4 4
  match bytesAt b 0 4 with
  | 0 => .scatter v (bytesAt b 8 8) (bytesAt b 16 8)
  | 1 => .combine v (word (bytesAt b 8 8))
  | 2 => .apply v
  | _ => .scan v (bytesAt b 8 8)

/-- The result of an apply that waits for its round's end, 24 bytes (log 15). -/
def appliedEntry (x : Nat × Option Word × Word) : List Byte :=
  leBytes 4 x.1 ++ leBytes 4 (flagBit x.2.1.isSome) ++ leBytes 8 (x.2.1.getD 0).toNat ++ leBytes 8 x.2.2.toNat

/-- An edge run in the engine block: its head, its items of work, its scans, what its applies have left, and the source values of its
round (log 15). -/
def runEntry (r : EdgeRun) : List Byte :=
  runHead r ++ r.work.flatMap (fun w => itemEntry w.item) ++ r.scans.flatMap (fun p => leBytes 8 p.1 ++ leBytes 8 p.2) ++
    r.applied.flatMap appliedEntry ++ r.snap.flatMap (fun p => leBytes 8 p.1 ++ leBytes 8 p.2.toNat)

/-- A stream port in the engine block: the PC of its `sbind`, its name, its flags, its position (log 15). -/
def portEntry (p : Port) : List Byte :=
  leBytes 4 p.pc.toNat ++ leBytes 1 p.reg.toNat ++
    leBytes 1 (1 + 2 * flagBit p.output + 4 * flagBit p.waitFull + 8 * flagBit p.stopped) ++ leBytes 2 0 ++ leBytes 8 p.pos

/-- The engine block of a core (R389): 2,048 bytes of its edge runs, as much of them as these take, then four ports for each slot, in the
layout of log 15. -/
def engineBlock (s : State) (c : Nat) : List Byte :=
  (((coreRuns s c).flatMap runEntry).take 2048 ++ List.replicate (2048 - ((coreRuns s c).flatMap runEntry).length) (0 : Byte)) ++
    (List.range 32).flatMap (fun t => (List.range 4).flatMap (fun i =>
      match (getThread s c t).ports[i]? with | some p => portEntry p | none => List.replicate 16 0))

/-- Bytes of a core section before its scratchpad part. -/
def sectionHead (s : State) (c threads : Nat) (tasks : List (List Byte)) : List Byte :=
  let co := getCore s c
  coreHeader co threads tasks.length ++ monBytes co ++ accBytes co ++ (matOrder co).flatMap matEntry ++
    co.copies.flatMap copyEntry ++ engineBlock s c ++ tasks.flatMap (fun r => r)

/-- A core's allocations in table order (R252). -/
def tableOrder (co : Core) : List Alloc := (co.allocs.foldl (fun m a => mapPut m (a.entry * 2 ^ 21 + a.off) a) []).map (·.2)

/-- The creators that stand spilled beneath folds of a core, with slots and frames (R193). -/
def coreBelow (s : State) (c : Nat) : List (Nat × Nat × Thread) :=
  (coreThreads s c).flatMap (fun p => p.2.frames.filterMap (fun fr => (mapFind s.spilled fr).map (fun th => (p.1, fr, th))))

/-- The threads of a core that are saved: those in its slots, then the creators beneath their folds, with their windows as their frames
give them back (R175, R193, R390). -/
def savedThreads (s : State) (c : Nat) : List (Nat × Thread) :=
  coreThreads s c ++ (coreBelow s c).map (fun p => (p.1, unspill s c p.1 p.2.2))

/-- A core section at a virtual address (R389, R390). -/
def coreSection (s : State) (c : Nat) (tasks : List (List Byte)) (threads : List (Nat × Thread)) (va : Nat) : List Byte :=
  let co := getCore s c
  let head := sectionHead s c threads.length tasks ++
    (tableOrder co).flatMap (fun a =>
      pad64 (memBytes s.mem (spKey c + a.off) a.size) ++ pad64 (stateBytes s (spKey c + a.off) a.size))
  threads.foldl (fun bs p => bs ++ pad64 (threadArea s c p.1 p.2 (va + bs.length))) head

/-- The image's header (R388). -/
def imageHeader (ctx cores size tick : Nat) : List Byte :=
  leBytes 4 0x31495356 ++ leBytes 2 ctx ++ leBytes 2 cores ++ leBytes 8 size ++ leBytes 8 tick ++ leBytes 1 8 ++ leBytes 1 0 ++
    leBytes 2 128 ++ List.replicate 228 0

/-- The records of a launch's queued tasks: they stand in the section of its first core (log 15). -/
def queuedRecords (s : State) (l : Launch) (c : Nat) : List (List Byte) :=
  if l.cores.head? = some c then (s.tasks.filter (fun x => x.launch == l.id && x.core.isNone)).map (·.record) else []

/-- The sections of a launch's cores, one after another, with their offsets. -/
def sectionsOf (s : State) (l : Launch) : List (Nat × List Byte) :=
  (l.cores.foldl (fun (acc : Nat × List (Nat × List Byte)) c =>
    let b := pad64 (coreSection s c (queuedRecords s l c) (savedThreads s c) (l.saveBase.toNat + acc.1))
    (acc.1 + b.length, acc.2 ++ [(acc.1, b)])) (roundUp (256 + 16 * l.cores.length) 64, [])).2

/-- The whole image. -/
def imageOf (s : State) (l : Launch) : List Byte :=
  let secs := sectionsOf s l
  let dir := ((l.cores.map (logicalCore s l.ctx)).zip secs).flatMap (fun p =>
    leBytes 4 p.1 ++ leBytes 4 0 ++ leBytes 8 p.2.1)
  let size := roundUp (256 + 16 * l.cores.length) 64 + (secs.map (fun p => p.2.length)).sum
  pad64 (imageHeader l.ctx l.cores.length size s.dev.timebase.toNat ++ dir) ++ secs.flatMap (·.2)

/-! ### Stopping a launch (R387) -/

/-- A far `lde` or `ste` whose thread still stands at it (R150). -/
def farStanding (r : Request) : Bool :=
  (r.kind == .lde || r.kind == .ste) && fabricKey r.key && r.arrived == 0

/-- A request that is withdrawn from its home: a waiting `ldf`, `lde` or `bar` of a thread, one that is executed again, a `macc` whose
rows are not full, and a parked access of an engine, which the engine makes again. The arrival of a killed thread's `bar` is made first:
nothing would make it again (R203, R387). -/
def withdrawable (s : State) (r : Request) : Bool :=
  r.resp.isNone &&
    (match r.kind with
     | .ldf | .lde => r.uid != 0
     | .bar => r.uid != 0 && (r.arrived != 0 || (threadOf s r.core r.slot r.uid).status != .free)
     | .ste => farStanding r
     | .macc t fmt acc row rf clr => (maccResult s r t fmt acc row rf clr).isNone
     | .engine _ => true
     | _ => false)

/-- Everything else that R387 lets come to its end first has done so: results, writes, messages, loads of overlays and collectives.
Matrix commands for and from other cores wait where they stand (log 116). -/
def launchQuiet (s : State) (l : Launch) : Bool :=
  s.flights.all (fun r => !l.cores.contains r.core || withdrawable s r) &&
    s.colls.all (fun k => !l.cores.contains k.core) &&
    l.cores.all (fun c => (getCore s c).im0.state != .loading && (getCore s c).im1.state != .loading)

/-- A `bar` that has arrived takes its arrival back (R387); that of a killed thread stays counted (R203). -/
def undoArrival (s : State) (r : Request) : State :=
  if r.kind = .bar ∧ 0 < r.arrived ∧ (threadOf s r.core r.slot r.uid).status ≠ .free ∧ 0 < peek s r.key 4 then { s with mem := memWrite s.mem r.key 4 (peek s r.key 4 - 1) } else s

/-- A withdrawn request is sent again at the restore; the others come again from the instruction or engine that makes them. -/
def sentAgain (r : Request) : Bool :=
  match r.kind with
  | .ldf => true
  | .lde => !farStanding r
  | .macc _ _ _ _ _ _ => true
  | _ => false

/-- Withdraw the waiting requests of a launch's cores, and keep those that are sent again; an `lde` of the fabric window stays accepted. -/
def withdraw (s : State) (l : Launch) : State × List Request :=
  let mine := s.flights.filter (fun r => l.cores.contains r.core)
  let s1 := mine.foldl undoArrival { s with flights := s.flights.filter (fun r => !l.cores.contains r.core) }
  (s1, (mine.filter sentAgain).map (fun r => { r with arrived := if fabricKey r.key then r.arrived else 0 }))

/-- The rows that a stopped command has committed give their flags to its issuer (R112, R313, R325). -/
def stopFlags (s : State) (c : Nat) : State :=
  let s1 := (matOrder (getCore s c)).foldl (fun st k => if issuerAway s k then st else joinFlags st k) s
  let co := getCore s1 c
  let off := fun (k : MatCmd) => if issuerAway s k then k else { k with flags := 0 }
  putCore s1 c { co with mq := co.mq.map off, drains := co.drains.map off }

/-- PROGRESS of a slot's first command goes to its thread (R265, R387). -/
def noteProgress (s : State) (c : Nat) : State :=
  (List.range 32).foldl (fun st t =>
    match firstCopy st c t with
    | some k => setEng st c t k.uid 22 (word (copyResume k))
    | none => st) s

/-- Mark the image lines of words whose bytes held an error (R405). -/
def markImage (s : State) (l : Launch) (secs : List (Nat × List Byte)) : State :=
  (l.cores.zip secs).foldl (fun st p =>
    let co := getCore st p.1
    let head := (sectionHead st p.1 (savedThreads st p.1).length (queuedRecords st l p.1)).length
    ((tableOrder co).foldl (fun (acc : Nat × State) a =>
      let st1 := (List.range (a.size / 8)).foldl (fun x i =>
        if isMarked x (spKey p.1 + a.off + 8 * i) then
          match hubPlace x l.ctx (l.saveBase + word (acc.1 + 8 * i)) 1 true with
          | some q => setMark x q.key
          | none => x
        else x) acc.2
      (acc.1 + roundUp a.size 64 + roundUp (a.size / 64) 64, st1)) (p.2.1 + head, st)).2) s

/-- Take a stopped core out of a launch. -/
def parkCore (s : State) (l : Launch) (c : Nat) : State × SavedCore :=
  let co := getCore s c
  let ths := coreThreads s c
  let below := coreBelow s c
  let s0 := { s with spilled := s.spilled.filter (fun p => !below.any (fun x => x.2.1 == p.1)) }
  let s1 := ths.foldl (fun st p => putThread st c p.1 Thread.free) s0
  let bare := { co with
    launch := 0, handler := 0, im0 := ImemSlot.init, im1 := ImemSlot.init, acc := [], accKind := [], rowEmpty := 0, rowPend := 0
    rowPoison := 0, mq := [], drains := [], copies := [], mons := [], bins := [], allocs := [], queue := [], current := none
    poolBy := 0 }
  (putCore s1 c bare, ⟨logicalCore s l.ctx c, c, co, ths, below⟩)

/-- Put a launch at the head of the FIFO (R376). -/
def toHead (s : State) (l : Launch) : State := { s with launches := l :: s.launches.filter (fun x => x.id != l.id) }

/-- Pre-empt a launch (R387): tasks abort, requests are withdrawn, engines stop, the image is written and the cores are
free. -/
def preemptLaunch (s : State) (l : Launch) : State :=
  let s1 := (s.tasks.filter (fun x => x.launch == l.id && x.spec)).foldl (fun st x => abortTask st x.id) s
  let (s2, reqs) := withdraw s1 l
  let s3 := l.cores.foldl (fun st c => noteProgress (stopFlags st c) c) s2
  let img := imageOf s3 l
  let s4 := markImage (writeVirt l.ctx (img.length / 2 ^ 16 + 2) l.saveBase.toNat img s3) l (sectionsOf s3 l)
  let (s5, saved) := l.cores.foldl (fun (acc : State × List SavedCore) c =>
    let r := parkCore acc.1 l c
    (r.1, acc.2 ++ [r.2])) (s4, [])
  let mine := fun (r : EdgeRun) => l.cores.contains r.core
  toHead { s5 with runs := s5.runs.filter (fun r => !mine r) }
    { l with state := .preempted, cores := [], saved := saved, savedReqs := reqs, savedRuns := s.runs.filter mine }

/-- A running launch must give way: `ctxs` stops it, or the arbiter takes its cores for a launch of higher priority (R377). -/
def mustPreempt (s : State) (l : Launch) : Bool :=
  l.state == .running &&
    (l.preempt || s.launches.any (fun x => waitsForPlace s x && (startIndex s x).isNone &&
      canPreempt s x.prio (chosenPlace s x) && l.cores.any (fun c => (chosenPlace s x).contains c)))

/-- LAUNCH_PREEMPT (R387). -/
def execLaunchPreempt (s : State) : Host.Outcome State Fault Refusal :=
  match s.event with
  | .launchPreempt id =>
    match getLaunch s id with
    | some l => if mustPreempt s l && launchQuiet s l then .next (preemptLaunch s l) else .next s
    | none => .next s
  | _ => .next s

/-! ### Restoring a launch (R391) -/

/-- The bytes of a saved core's section. -/
structure Section where
  saved : SavedCore
  phys  : Nat
  bytes : List Byte

/-- The offset of each part of a section. -/
def matOff : Nat := 64 + 1024 + 16448
def copyOff (x : SavedCore) : Nat := matOff + 128 * (matOrder x.core).length
def scratchOff (x : SavedCore) (tasks : Nat) : Nat := copyOff x + 128 * x.core.copies.length + 4096 + 64 * tasks
def threadsOff (x : SavedCore) (tasks : Nat) : Nat :=
  scratchOff x tasks + (x.core.allocs.map (fun a => roundUp a.size 64 + roundUp (a.size / 64) 64)).sum
def belowOff (x : SavedCore) (tasks : Nat) : Nat := threadsOff x tasks + (x.threads.map (fun p => roundUp (areaSize p.2) 64)).sum
def sectionSize (x : SavedCore) (tasks : Nat) : Nat :=
  belowOff x tasks + (x.below.map (fun p => roundUp (areaSize p.2.2) 64)).sum

/-- The image's header is the one this launch's image has (R388); the maxima are those of the device that saved it (R243). -/
def headerMatches (l : Launch) (bs : List Byte) : Bool :=
  bytesAt bs 0 4 == 0x31495356 && bytesAt bs 4 2 == l.ctx && bytesAt bs 6 2 == l.saved.length &&
    decide (bytesAt bs 8 8 ≤ l.saveSize) && bytesAt bs 25 1 == 0 && bytesAt bs 28 228 == 0

/-- A saved matrix command as its entry gives it. -/
def matFrom (k : MatCmd) (b : List Byte) : MatCmd :=
  let regs := (List.range 12).foldl (fun m e => mapSet (0 : Word) m e (word (bytesAt b (8 * e) 8))) k.regs
  let e10 := mapGet 0 regs 10
  { k with
    regs := regs, a := word (bytesAt b 96 8), b := word (bytesAt b 104 8), row := rowField e10 k.p, drn := drnField e10 k.p }

/-- A saved copy command as its entry gives it: it starts again at its PROGRESS. -/
def copyFrom (k : CopyCmd) (b : List Byte) : CopyCmd :=
  let regs := (List.range 11).foldl (fun m i => mapSet (0 : Word) m (16 + i) (word (bytesAt b (8 * i) 8))) k.regs
  { k with
    regs := regs, a := word (bytesAt b 88 8), b := word (bytesAt b 96 8), start := bytesAt b 48 8, done := [], bad := [] }

/-- Entries of n bytes as some bytes give them; those that the bytes do not reach stay as they were. -/
def entriesFrom {α : Type} (n : Nat) (f : α → List Byte → α) : List α → List Byte → List α
  | [], _ => []
  | x :: xs, b => if b.length < n then x :: xs else f x (b.take n) :: entriesFrom n f xs (b.drop n)

/-- An edge run's head as the engine block gives it. -/
def headFrom (r : EdgeRun) (b : List Byte) : EdgeRun :=
  if b.length < 32 then r
  else
    let f := bytesAt b 13 1
    let x := bytesAt b 14 2
    { r with
      started := f.testBit 1, push := f.testBit 2, curA := f.testBit 3, applyPhase := f.testBit 4, stage := f / 32 % 4
      rounds := bytesAt b 16 8, fail := if x % 2 = 1 then some (x / 2, word (bytesAt b 24 8)) else none }

/-- An edge run as the engine block gives it (log 15); what the block did not take is as the device keeps it beside the image. -/
def runFrom (r : EdgeRun) (b : List Byte) : EdgeRun :=
  let at1 := 32 + 24 * r.work.length
  let at2 := at1 + 16 * r.scans.length
  let at3 := at2 + 24 * r.applied.length
  { headFrom r b with
    work := entriesFrom 24 (fun w x => { w with item := itemFrom x }) r.work (b.drop 32)
    scans := entriesFrom 16 (fun _ x => (bytesAt x 0 8, bytesAt x 8 8)) r.scans (b.drop at1)
    applied := entriesFrom 24 (fun _ x =>
      (bytesAt x 0 4, if bytesAt x 4 4 = 1 then some (word (bytesAt x 8 8)) else none, word (bytesAt x 16 8))) r.applied (b.drop at2)
    snap := entriesFrom 16 (fun _ x => (bytesAt x 0 8, word (bytesAt x 8 8))) r.snap (b.drop at3) }

/-- The edge runs of a launch as the engine blocks of its sections give them. -/
def runsFrom (secs : List Section) (runs : List EdgeRun) : List EdgeRun :=
  runs.map (fun r =>
    match secs.find? (fun x => x.saved.phys == r.core) with
    | none => r
    | some x =>
      let before := (runs.filter (fun q => q.core == r.core)).takeWhile (fun q => q.id != r.id)
      let block := (x.bytes.drop (copyOff x.saved + 128 * x.saved.core.copies.length)).take 2048
      runFrom r (block.drop (before.flatMap runEntry).length))

/-- A stream port as its thread's area (position) and the engine block (flags) give it. -/
def portFrom (p : Port) (pos : Nat) (b : List Byte) : Port :=
  { p with waitFull := (bytesAt b 5 1).testBit 2, stopped := (bytesAt b 5 1).testBit 3, pos := pos, fetched := [] }

/-- A core as its section gives it; its watches are resolved once its allocations stand. -/
def coreFrom (l : Launch) (old : Core) (x : Section) : Core :=
  let co := x.saved.core
  let b := x.bytes
  let n := co.drains.length
  let mats := ((List.range (matOrder co).length).zip (matOrder co)).map (fun p => matFrom p.2 (b.drop (matOff + 128 * p.1)))
  let rows := fun (off : Nat) => (List.range 4).foldl (fun a t => a + bytesAt b (64 + 1024 + 16384 + 16 * t + off) 4 * 2 ^ (32 * t)) 0
  let mons := ((List.range co.mons.length).zip co.mons).map (fun p => { p.2 with va := word (bytesAt b (64 + 16 * p.1) 8) })
  { old with
    launch := l.id, handler := l.handler
    acc := (List.range 4096).foldl (fun m i => mapSet 0 m i (BitVec.ofNat 32 (bytesAt b (64 + 1024 + 4 * i) 4))) []
    accKind := (List.range 4).foldl (fun m t => mapSet AccKind.clear m t
      (match bytesAt b (64 + 1024 + 16384 + 16 * t) 4 with | 0 => .clear | 1 => .float | _ => .integer)) []
    rowEmpty := ~~~(BitVec.ofNat 128 (rows 4)), rowPend := BitVec.ofNat 128 (rows 8), rowPoison := co.rowPoison
    drains := mats.take n, mq := mats.drop n
    copies := ((List.range co.copies.length).zip co.copies).map (fun p => copyFrom p.2 (b.drop (copyOff x.saved + 128 * p.1)))
    mons := mons, bins := co.bins, allocs := co.allocs, queue := co.queue, current := co.current, poolBy := co.poolBy }

/-- The words that a restored core's entries watch, where they lie now (R275). -/
def watchesFrom (s : State) (l : Launch) (x : Section) : State :=
  let co := getCore s x.phys
  putCore s x.phys { co with
    mons := co.mons.map (fun m =>
      match (resolve s x.phys m.slot l.ctx m.va 8 true false).1 with | .ok q => { m with key := q.key } | .error _ => m) }

/-- Shape state at a restore (R243): as saved, taken up again from the shape point, or incompatible (none). The flag says
that the thread resumes at its shape point. -/
def shapesFrom (th : Thread) (b : List Byte) : Option (Thread × Bool) :=
  let sh := fun k => BitVec.ofNat 128 (bytesAt b (16 * k) 16)
  let req := fun (v : BitVec 128) => ((v.extractLsb' 32 32).toNat, (v.extractLsb' 0 32).toNat)
  let fmt := fun (v : BitVec 128) => Fmt.ofCode (v.extractLsb' 88 5)
  let grant := fun (v : BitVec 128) => match fmt v with | some f => grantOf f (req v).1 (req v).2 | none => (0, 0)
  let saved := fun (v : BitVec 128) => ((v.extractLsb' 80 8).toNat, (v.extractLsb' 64 16).toNat)
  let ks := List.range 4
  let point := if (bytesAt b 68 1).testBit 0 then some (BitVec.ofNat 32 (bytesAt b 64 4)) else none
  if bytesAt b 75 53 ≠ 0 ∨ bytesAt b 68 1 / 2 ≠ 0 ∨ ks.any (fun k => sh k >>> 95 != 0 || (fmt (sh k)).isNone) then none
  else if ks.all (fun k => grant (sh k) == saved (sh k)) then
    some ({ th with
      shapes := ks.foldl (fun m k => mapSet (0 : BitVec 128) m k (sh k)) [], point := point
      tilePoison := BitVec.ofNat 16 (bytesAt b 72 2) }, false)
  else if th.hdr.shapeRestart && point.isSome then
    let again := fun (v : BitVec 128) =>
      let g := grant v
      let mode := if v.extractLsb' 0 64 = 0 then (v.extractLsb' 93 2).toNat else 2
      BitVec.ofNat 128 ((v.extractLsb' 0 64).toNat + g.2 * 2 ^ 64 + g.1 * 2 ^ 80 + (v.extractLsb' 88 5).toNat * 2 ^ 88 + mode * 2 ^ 93)
    some ({ th with
      shapes := ks.foldl (fun m k => mapSet (0 : BitVec 128) m k (again (sh k))) [], point := point, tiles := [], tilePoison := 0 },
      true)
  else none

/-- The window of a thread area: the values and bits of its frame over what this device keeps of a register. -/
def windowFrom (old : SMap Reg) (b : List Byte) : SMap Reg :=
  (List.range 64).foldl (fun m i =>
    let poison := (bytesAt b 520 8).testBit i
    mapSet Reg.empty m i { mapGet Reg.empty old i with
      val := word (bytesAt b (8 * i) 8), full := (bytesAt b 512 8).testBit i || poison, poison := poison }) []

/-- How a saved thread's shape state is taken up (R243). -/
inductive TakenUp where
  | same | again | incompatible
deriving DecidableEq, Repr

/-- A thread as its area and its part of the engine block give it, and how its shape state is taken up. Reserved bits of its engine
registers and guard record read zero (R5); the reserved bytes 1200 to 1279 of the area, the zero bits of its record and those of the
matrix entries are not looked at (R6, log 97). Its PC is the low 32 bits of word 0 (log 94). -/
def threadFrom (th : Thread) (b block : List Byte) : Thread × TakenUp :=
  let pc := BitVec.ofNat 32 (bytesAt b 16 4)
  let th1 : Thread := { th with
    pc := if th.status = .trapped then th.pc else pc
    fpStatus := BitVec.ofNat 5 (bytesAt b 48 8 / 2 ^ 8)
    regs := windowFrom th.regs (b.drop 64)
    eng := (List.range 32).foldl (fun m e => mapSet (0 : Word) m e (word (bytesAt b (768 + 8 * e) 8 &&& engDefined e))) []
    ports := ((List.range th.ports.length).zip th.ports).map (fun p =>
      portFrom p.2 (bytesAt b (1088 + 16 * p.1 + 8) 8) (block.drop (16 * p.1)))
    genP := word (bytesAt b 1152 8), genQ := word (bytesAt b 1160 8), guard0 := word (bytesAt b 1168 8 % 2 ^ 48)
    guard1 := word (bytesAt b 1176 8 % 2 ^ 32), tilePoison := 0
    tiles := (List.range (1024 * th.hdr.tiles)).foldl (fun m i => mapSet (0 : Byte) m i (BitVec.ofNat 8 (bytesAt b (1280 + i) 1))) []
    wantFold := 0, waited := 0, yielded := false, yieldFor := [] }
  match shapesFrom th1 (b.drop 640) with
  | some (th2, true) => ({ th2 with pc := th2.point.getD th2.pc }, .again)
  | some (th2, false) => (th2, .same)
  | none => (th1, .incompatible)

/-- The scratchpad bytes and state bits of a section go to its core. -/
def scratchFrom (s : State) (x : Section) (tasks : Nat) : State :=
  ((tableOrder x.saved.core).foldl (fun (acc : Nat × State) a =>
    let k := spKey x.phys + a.off
    let bits_ := x.bytes.drop (acc.1 + roundUp a.size 64)
    let st := pokeBytes acc.2 k ((x.bytes.drop acc.1).take a.size)
    let st1 := { st with marks := st.marks.filter (fun m => !decide (k ≤ m ∧ m < k + a.size)) }
    let st2 := (List.range (a.size / 8)).foldl (fun y i =>
      if (bytesAt bits_ (i / 8) 1).testBit (i % 8) then setFull y (k + 8 * i) else setEmpty y (k + 8 * i)) st1
    (acc.1 + roundUp a.size 64 + roundUp (a.size / 64) 64, st2)) (scratchOff x.saved tasks, s)).2

/-- An incompatible thread is held with cause 0x09 and its saved PC (R243). One whose earlier delivery is still queued or running
raises the 0x09 when it executes again (R386, log 98). -/
def holdIncompatible (s : State) (c t : Nat) (th : Thread) (pc : CodeAddr) : State :=
  if th.status = .trapped then putThread s c t (queueTrap th ⟨0x09, 0, th.pc, none⟩) else takeTrap s c t 0x09 0 pc pc

/-- A saved thread takes its slot. A held one has its trap record again, which sends it to the shape point where its shape state is
taken up from there (R243). -/
def placeThread (s : State) (c t : Nat) (old : Thread) (b block : List Byte) : State × Bool :=
  let (th, how) := threadFrom old b block
  let s1 := putThread s c t th
  let s2 := if old.status = .trapped then pokeBytes s1 (trapRecordKey s1 c t) (b.take 64) else s1
  match how with
  | .same => (s2, false)
  | .again =>
    (if old.status = .trapped then pokeBytes s2 (trapRecordKey s2 c t + 16) (leBytes 8 th.pc.toNat) else s2, false)
  | .incompatible => (holdIncompatible s2 c t th (BitVec.ofNat 32 (bytesAt b 16 4)), true)

/-- The threads of a section take their slots; whether one of them is incompatible (R243). -/
def threadsFrom (s : State) (x : Section) (tasks : Nat) : State × Bool :=
  let ports := x.bytes.drop (copyOff x.saved + 128 * x.saved.core.copies.length + 2048)
  (x.saved.threads.foldl (fun (acc : Nat × State × Bool) p =>
    let b := (x.bytes.drop acc.1).take (areaSize p.2)
    let y := placeThread acc.2.1 x.phys p.1 p.2 b (ports.drop (64 * p.1))
    (acc.1 + roundUp (areaSize p.2) 64, y.1, acc.2.2 || y.2)) (threadsOff x.saved tasks, s, false)).2

/-- A creator beneath a fold as its area gives it: its window goes into its frame on the core (R193). One whose shape state is
incompatible is held once it resumes (R243). -/
def placeBelow (s : State) (c t fr : Nat) (old : Thread) (b : List Byte) : State × Bool :=
  let (th, how) := threadFrom old b (old.ports.flatMap portEntry)
  let th1 := match how with | .incompatible => queueTrap th ⟨0x09, 0, th.pc, none⟩ | _ => th
  let s1 := match framePlace s c t th.ctx (th.frames.length + 1) true with | some ks => spillFrame s ks th.regs | none => s
  ({ s1 with spilled := mapPut s1.spilled fr { th1 with status := .folding } }, match how with | .incompatible => true | _ => false)

/-- The creators beneath the folds of a section stand spilled again. -/
def belowFrom (s : State) (x : Section) (tasks : Nat) : State × Bool :=
  (x.saved.below.foldl (fun (acc : Nat × State × Bool) p =>
    let b := (x.bytes.drop acc.1).take (areaSize p.2.2)
    let y := placeBelow acc.2.1 x.phys p.1 p.2.1 p.2.2 b
    (acc.1 + roundUp (areaSize p.2.2) 64, y.1, acc.2.2 || y.2)) (belowOff x.saved tasks, s, false)).2

/-- Load again the overlays a core held valid (R391). -/
def overlaysFrom (s : State) (l : Launch) (x : Section) : State :=
  [0, 1].foldl (fun st b =>
    let v := bytesAt x.bytes (10 + 3 * b) 3
    if v / 2 ^ 16 = 1 then loadOverlays st [x.phys] b l.ctx (v % 2 ^ 16) else st) s

/-- A core's number after the restore. -/
def movedCore (secs : List Section) (c : Nat) : Nat :=
  match secs.find? (fun x => x.saved.phys == c) with | some x => x.phys | none => c

/-- Everything that names a core of the launch names it by its new number: what it holds, and the matrix commands that its threads
have sent and those that are sent to it. -/
def moveCores (s : State) (l : Launch) (secs : List Section) : State :=
  let f := movedCore secs
  let uids := secs.flatMap (fun x => x.saved.uids)
  let g := fun (k : MatCmd) => if uids.contains k.uid then { k with core := f k.core } else k
  let onCore := fun (co : Core) => { co with mq := co.mq.map g, drains := co.drains.map g }
  { s with
    families := s.families.map (fun p => (p.1,
      if p.2.launch = l.id then
        { p.2 with
          home := f p.2.home, granted := p.2.granted.map f, chunks := p.2.chunks.map (fun k => { k with core := f k.core })
          back := p.2.back }
      else p.2))
    tasks := s.tasks.map (fun x =>
      if x.launch = l.id then { x with core := x.core.map (fun p => (f p.1, p.2)) } else x)
    gangs := s.gangs.map (fun x => if uids.contains x.uid then { x with core := f x.core } else x)
    mesh := s.mesh.map (fun m => (if m.2.ctx = l.ctx then f m.1 else m.1, g m.2))
    cores := s.cores.map (fun p => (p.1, onCore p.2))
    launches := s.launches.map (fun x => { x with saved := x.saved.map (fun y => { y with core := onCore y.core }) }) }

/-- Send a withdrawn request again: its address is resolved anew; one that no longer resolves traps its thread. -/
def resend (secs : List Section) (s : State) (r : Request) : State :=
  let c := movedCore secs r.core
  let send := fun (q : Request) => { s with flights := s.flights ++ [{ q with core := c, parked := false, replayed := false }] }
  match r.kind with
  | .macc _ _ _ _ _ _ => send r
  | _ =>
    if fabricKey r.key then send r
    else
      match (resolve s c r.slot r.ctx r.va 8 true (r.kind == .lde)).1 with
      | .ok l => send { r with key := l.key }
      | .error e =>
        postTrap (onThread s c r.slot r.uid (fun th => { th with cntL := th.cntL - 1 })) c r.slot r.uid r.id
          (if e = true then 0x04 else 0x06) r.va r.pc

/-- How a restore ends. -/
inductive Restored where
  | resumed (s : State) (incompatible : Bool)
  | damaged (s : State)
  | malformed
  | busy

/-- The image is lost: the context is damaged, and the launch ends with status 3 (R391). -/
def damageContext (s : State) (l : Launch) (offset : Nat) : State :=
  let s1 := onCtx s l.ctx (fun x => { x with cfg := x.cfg ||| 0x200, pendCfg := x.pendCfg.map (· ||| 0x200) })
  let s2 := { s1 with
    tasks := s1.tasks.filter (fun x => x.launch != l.id)
    families := s1.families.map (fun p =>
      if p.2.launch = l.id ∧ p.2.outcome = .running then (p.1, { p.2 with outcome := .failed 0 }) else p) }
  let s3 := postEvent s2 ⟨0x83, l.ctx, 0, 0, [0x0A, offset]⟩
  let l1 := { l with saved := [], savedReqs := [], savedRuns := [] }
  settleDeficits (closeLaunch (setLaunch s3 l1) l1 (3 + 0x0A * 256))

/-- Restore a pre-empted launch from its image (R391); none of a damaged context is. The reserved field of a directory entry is not
looked at (R6, log 97). -/
def restoreLaunch (s : State) (l : Launch) : Restored :=
  let phys := l.saved.map (fun x => physCore s l.ctx x.logical)
  if damaged s l.ctx then .damaged s
  else if phys.any (fun p => match p with
      | some c => (getCore s c).launch != 0 || (getCore s c).killed || (getCore s c).retired
      | none => true) then .busy
  else
    match readVirt s l.ctx 4 0 l.saveBase.toNat 256 with
    | .error (off, true) => .damaged (damageContext s l off)
    | .error (_, false) => .malformed
    | .ok hb =>
      if !headerMatches l hb then .malformed
      else
        let size := bytesAt hb 8 8
        match readVirt s l.ctx (size / 2 ^ 16 + 2) 0 l.saveBase.toNat size with
        | .error (off, true) => .damaged (damageContext s l off)
        | .error (_, false) => .malformed
        | .ok bs =>
          let tasks := fun (i : Nat) => if i = 0 then (s.tasks.filter (fun x => x.launch == l.id && x.core.isNone)).length else 0
          let dir := (List.range l.saved.length).map (fun i => (bytesAt bs (256 + 16 * i) 4, bytesAt bs (256 + 16 * i + 8) 8))
          let parts := (List.range l.saved.length).zip (l.saved.zip (dir.zip phys))
          if parts.any (fun p => p.2.1.logical != p.2.2.1.1 || decide (size < p.2.2.1.2 + sectionSize p.2.1 (tasks p.1))) then
            .malformed
          else
            let secs : List Section := parts.map (fun p =>
              ⟨p.2.1, p.2.2.2.getD 0, (bs.drop p.2.2.1.2).take (sectionSize p.2.1 (tasks p.1))⟩)
            let s1 := secs.foldl (fun st x => putCore st x.phys (coreFrom l (getCore st x.phys) x)) s
            let s2 := secs.foldl (fun st x => overlaysFrom st l x) s1
            let s3 := ((List.range secs.length).zip secs).foldl (fun st p => scratchFrom st p.2 (tasks p.1)) s2
            let (s4, bad) := ((List.range secs.length).zip secs).foldl (fun (acc : State × Bool) p =>
              let r := threadsFrom acc.1 p.2 (tasks p.1)
              let q := belowFrom r.1 p.2 (tasks p.1)
              (watchesFrom q.1 l p.2, acc.2 || r.2 || q.2)) (s3, false)
            let s5 := moveCores s4 l secs
            let s6 := l.savedReqs.foldl (resend secs) s5
            let s7 := { s6 with runs := s6.runs ++ (runsFrom secs l.savedRuns).map (fun r => { r with core := movedCore secs r.core }) }
            .resumed (setLaunch s7 { l with
              state := .running, cores := secs.map (fun x => x.phys), saved := [], savedReqs := [], savedRuns := []
              preempt := false }) bad

/-- LAUNCH_RESTORE: the arbiter restores a launch when its place is free again (R391). One whose image is malformed is held until
`ctxr` asks for it, so that the others are served (R2, log 96). -/
def execLaunchRestore (s : State) : Host.Outcome State Fault Refusal :=
  match s.event with
  | .launchRestore id =>
    match getLaunch s id with
    | some l =>
      if l.state = .preempted ∧ served s l = true then
        match restoreLaunch (chargeVisit s l) l with
        | .resumed s1 _ => .next (settleDeficits s1)
        | .damaged s1 => .next s1
        | .malformed => .next (settleDeficits (setLaunch s { l with preempt := true }))
        | .busy => .next s
      else .next s
    | none => .next s
  | _ => .next s

end Sys2Proof.Machine
end

