-- ==== Sys2Proof/Machine/MulDiv.lean ====
section
/-! DEFINITION. Multiplication and division (R135) and bit manipulation (R136). -/
namespace Sys2Proof.Machine

/-- Carry-less product of two words as 128 bits (R136), over the bits of b from bit i on. -/
def clmulLoop (a b : Nat) : Nat → Nat → Nat
  | 0, _ => 0
  | n + 1, i => (if b.testBit i then a * 2 ^ i else 0) ^^^ clmulLoop a b n (i + 1)

/-- Carry-less product over the low w bits of b. -/
def clmulNat (w a b : Nat) : Nat := clmulLoop a b w 0

/-- Signed quotient and remainder with the results R135 gives for b = 0 and for overflow. -/
def divWord (x y : Word) : Word := if y = 0 then BitVec.allOnes 64 else x.sdiv y
def remWord (x y : Word) : Word := if y = 0 then x else x.srem y
def divzWord (x y : Word) : Word := if y = 0 then BitVec.allOnes 64 else x.udiv y
def remzWord (x y : Word) : Word := if y = 0 then x else x.umod y

/-- One bits among the first n. -/
def popNat (v : Nat) : Nat → Nat
  | 0 => 0
  | n + 1 => (if v.testBit n then 1 else 0) + popNat v n

/-- Leading zeros of n bits. -/
def clzNat (v : Nat) : Nat → Nat
  | 0 => 0
  | n + 1 => if v.testBit n then 0 else 1 + clzNat v n

/-- Trailing zeros from bit i, n bits left. -/
def ctzNat (v : Nat) : Nat → Nat → Nat
  | 0, _ => 0
  | n + 1, i => if v.testBit i then 0 else 1 + ctzNat v n (i + 1)

/-- The low n bits reversed. -/
def brevNat (v : Nat) : Nat → Nat → Nat
  | 0, _ => 0
  | n + 1, i => (if v.testBit i then 2 ^ n else 0) + brevNat v n (i + 1)

/-- Position and length of a bit field (R136). -/
def bfPos (y : Word) : Nat := bits y 5 0
def bfLen (y : Word) : Nat := if bits y 14 8 < 64 then bits y 14 8 else 64

/-- `bins`: bits pos to min(pos + len, 64) − 1 of z replaced by the low bits of x. -/
def binsWord (x y z : Word) : Word :=
  let m := word ((2 ^ bfLen y - 1) * 2 ^ bfPos y)
  (z &&& ~~~m) ||| (x <<< bfPos y &&& m)

/-- `mul` (R135). -/
def execMul (d a b : RegNo) (s : State) := binary s d a b (fun x y => x * y)

/-- `mulh` (R135). -/
def execMulh (d a b : RegNo) (s : State) := binary s d a b (fun x y => BitVec.ofInt 64 (x.toInt * y.toInt / (2 ^ 64 : Nat)))

/-- `mulhz` (R135). -/
def execMulhz (d a b : RegNo) (s : State) := binary s d a b (fun x y => word (x.toNat * y.toNat / 2 ^ 64))

/-- `div`: the result arrives later (R126, R135). -/
def execDiv (d a b : RegNo) (s : State) := later s d a b divWord

/-- `divz`: the result arrives later (R126, R135). -/
def execDivz (d a b : RegNo) (s : State) := later s d a b divzWord

/-- `rem`: the result arrives later (R126, R135). -/
def execRem (d a b : RegNo) (s : State) := later s d a b remWord

/-- `remz`: the result arrives later (R126, R135). -/
def execRemz (d a b : RegNo) (s : State) := later s d a b remzWord

/-- `clmul` (R136). -/
def execClmul (d a b : RegNo) (s : State) := binary s d a b (fun x y => word (clmulNat 64 x.toNat y.toNat))

/-- `clmulh` (R136). -/
def execClmulh (d a b : RegNo) (s : State) := binary s d a b (fun x y => word (clmulNat 64 x.toNat y.toNat / 2 ^ 64))

/-- `bext` (R136). -/
def execBext (d a b : RegNo) (s : State) := binary s d a b (fun x y => word (x.toNat / 2 ^ bfPos y % 2 ^ bfLen y))

/-- `pop` (R136). -/
def execPop (d a : RegNo) (s : State) := unary s d a (fun x => word (popNat x.toNat 64))

/-- `clz` (R136). -/
def execClz (d a : RegNo) (s : State) := unary s d a (fun x => word (clzNat x.toNat 64))

/-- `ctz` (R136). -/
def execCtz (d a : RegNo) (s : State) := unary s d a (fun x => word (ctzNat x.toNat 64 0))

/-- `brev` (R136). -/
def execBrev (d a : RegNo) (s : State) := unary s d a (fun x => word (brevNat x.toNat 64 0))

/-- `bswap` (R136). -/
def execBswap (d a : RegNo) (s : State) := unary s d a (fun x => word (leValue (leBytes 8 x.toNat).reverse))

/-- `bins`: d is read (R136). -/
def execBins (d a b : RegNo) (s : State) := ternary s d a b binsWord

/-- `sel`: d is read (R136). -/
def execSel (d a b : RegNo) (s : State) := ternary s d a b (fun x y z => (x &&& y) ||| (z &&& ~~~y))

end Sys2Proof.Machine
end

