-- ==== Sys2Proof/Machine/Tile.lean ====
section
/-! DEFINITION. Elementwise tile instructions: integer, floating point, logic, compare, conversion, special functions, random
fill and the tile-scalar group (R222 to R229, R236 to R240). -/
namespace Sys2Proof.Machine

/-! ### Integer arithmetic: major 0x30 (R226) -/

/-- An integer element read under F's signedness (R219). -/
def intOf (th : Thread) (f : Fmt) (t : TileNo) (r c : Nat) : Int := decodeInt f (tileElem th t f r c)

/-- `op td, ta, tb` on the integer formats. -/
def tileInt2 (s : State) (td ta tb : TileNo) (sh : ShapeNo) (mask : TileNo) (g : Fmt → Int → Int → Int) :=
  runBody s (tileForm s td sh .ints true [ta, tb] mask (fun th f _ r c => intElem f (g f (intOf th f ta r c) (intOf th f tb r c))))

/-- `op td, ta` on the integer formats. -/
def tileInt1 (s : State) (td ta : TileNo) (sh : ShapeNo) (mask : TileNo) (g : Fmt → Int → Int) :=
  runBody s (tileForm s td sh .ints true [ta] mask (fun th f _ r c => intElem f (g f (intOf th f ta r c))))

/-- `vadd` on integers (R226). -/
def execVaddInt (td ta tb : TileNo) (sh : ShapeNo) (mask : TileNo) (s : State) := tileInt2 s td ta tb sh mask (fun _ a b => a + b)

/-- `vsub` on integers (R226). -/
def execVsubInt (td ta tb : TileNo) (sh : ShapeNo) (mask : TileNo) (s : State) := tileInt2 s td ta tb sh mask (fun _ a b => a - b)

/-- `vmul` on integers (R226). -/
def execVmulInt (td ta tb : TileNo) (sh : ShapeNo) (mask : TileNo) (s : State) := tileInt2 s td ta tb sh mask (fun _ a b => a * b)

/-- `vmulh`: the high half of the exact product (R226). -/
def execVmulh (td ta tb : TileNo) (sh : ShapeNo) (mask : TileNo) (s : State) :=
  tileInt2 s td ta tb sh mask (fun f a b => a * b / (2 ^ f.width : Nat))

/-- `vmac` on integers: td is read (R226). -/
def execVmacInt (td ta tb : TileNo) (sh : ShapeNo) (mask : TileNo) (s : State) :=
  runBody s (tileForm s td sh .ints true [ta, tb, td] mask (fun th f _ r c =>
    intElem f (intOf th f td r c + intOf th f ta r c * intOf th f tb r c)))

/-- `vqadd` (R226). -/
def execVqadd (td ta tb : TileNo) (sh : ShapeNo) (mask : TileNo) (s : State) :=
  tileInt2 s td ta tb sh mask (fun f a b => satInt f.width f.isSigned (a + b))

/-- `vqsub` (R226). -/
def execVqsub (td ta tb : TileNo) (sh : ShapeNo) (mask : TileNo) (s : State) :=
  tileInt2 s td ta tb sh mask (fun f a b => satInt f.width f.isSigned (a - b))

/-- `vmin` on integers (R226). -/
def execVminInt (td ta tb : TileNo) (sh : ShapeNo) (mask : TileNo) (s : State) :=
  tileInt2 s td ta tb sh mask (fun _ a b => if a < b then a else b)

/-- `vmax` on integers (R226). -/
def execVmaxInt (td ta tb : TileNo) (sh : ShapeNo) (mask : TileNo) (s : State) :=
  tileInt2 s td ta tb sh mask (fun _ a b => if a < b then b else a)

/-- `vabs` on integers (R226). -/
def execVabsInt (td ta : TileNo) (sh : ShapeNo) (mask : TileNo) (s : State) :=
  tileInt1 s td ta sh mask (fun _ a => if a < 0 then -a else a)

/-- `vneg` on integers (R226). -/
def execVnegInt (td ta : TileNo) (sh : ShapeNo) (mask : TileNo) (s : State) := tileInt1 s td ta sh mask (fun _ a => -a)

/-- `vavg`: floor((a + b + 1)/2) (R226). -/
def execVavg (td ta tb : TileNo) (sh : ShapeNo) (mask : TileNo) (s : State) :=
  tileInt2 s td ta tb sh mask (fun _ a b => (a + b + 1) / 2)

/-! ### Floating-point arithmetic: major 0x31 (R227) -/

/-- `op td, ta, tb` on the four float formats. -/
def tileFp2 (s : State) (td ta tb : TileNo) (sh : ShapeNo) (mask : TileNo) (rf : Rf)
    (g : Fmt → Env → Word → Nat → Nat → FOut) :=
  runBody s (tileForm s td sh .floats true [ta, tb] mask (fun th f w r c =>
    g f (curEnv s rf) w (tileElem th ta f r c) (tileElem th tb f r c)))

/-- `vadd` on floats (R227). -/
def execVaddFp (td ta tb : TileNo) (sh : ShapeNo) (mask : TileNo) (rf : Rf) (s : State) := tileFp2 s td ta tb sh mask rf fpAdd

/-- `vsub` on floats (R227). -/
def execVsubFp (td ta tb : TileNo) (sh : ShapeNo) (mask : TileNo) (rf : Rf) (s : State) := tileFp2 s td ta tb sh mask rf fpSub

/-- `vmul` on floats (R227). -/
def execVmulFp (td ta tb : TileNo) (sh : ShapeNo) (mask : TileNo) (rf : Rf) (s : State) := tileFp2 s td ta tb sh mask rf fpMul

/-- `vdiv` (R227). -/
def execVdiv (td ta tb : TileNo) (sh : ShapeNo) (mask : TileNo) (rf : Rf) (s : State) := tileFp2 s td ta tb sh mask rf fpDiv

/-- `vmac` on floats: fma(a, b, d), td is read (R227). -/
def execVmacFp (td ta tb : TileNo) (sh : ShapeNo) (mask : TileNo) (rf : Rf) (s : State) :=
  runBody s (tileForm s td sh .floats true [ta, tb, td] mask (fun th f w r c =>
    fpFma f (curEnv s rf) w false (tileElem th ta f r c) (tileElem th tb f r c) (tileElem th td f r c)))

/-- `vmin` on floats: RF selects flushing (R227). -/
def execVminFp (td ta tb : TileNo) (sh : ShapeNo) (mask : TileNo) (rf : Rf) (s : State) :=
  tileFp2 s td ta tb sh mask rf (fun f e _ a b => fpMinMax f e false a b)

/-- `vmax` on floats: RF selects flushing (R227). -/
def execVmaxFp (td ta tb : TileNo) (sh : ShapeNo) (mask : TileNo) (rf : Rf) (s : State) :=
  tileFp2 s td ta tb sh mask rf (fun f e _ a b => fpMinMax f e true a b)

/-- `vabs` on floats: the sign bit cleared (R227). -/
def execVabsFp (td ta : TileNo) (sh : ShapeNo) (mask : TileNo) (s : State) :=
  runBody s (tileForm s td sh .floats true [ta] mask (fun th f _ r c => plainBits (tileElem th ta f r c % 2 ^ f.magBits)))

/-- `vneg` on floats: the sign bit inverted (R227). -/
def execVnegFp (td ta : TileNo) (sh : ShapeNo) (mask : TileNo) (s : State) :=
  runBody s (tileForm s td sh .floats true [ta] mask (fun th f _ r c => plainBits (tileElem th ta f r c ^^^ 2 ^ f.magBits)))

/-- `vsqrt` (R227). -/
def execVsqrt (td ta : TileNo) (sh : ShapeNo) (mask : TileNo) (rf : Rf) (s : State) :=
  runBody s (tileForm s td sh .floats true [ta] mask (fun th f w r c => fpSqrt f (curEnv s rf) w (tileElem th ta f r c)))

/-! ### Logic, shifts, comparisons: major 0x32 (R228, R229) -/

/-- A bitwise or shift operation on container bits; a 6-bit result keeps bits 5:0 (R228). -/
def tileBits2 (s : State) (acc : Accepts) (td ta tb : TileNo) (sh : ShapeNo) (mask : TileNo) (g : Fmt → Nat → Nat → Nat) :=
  runBody s (tileForm s td sh acc true [ta, tb] mask (fun th f _ r c =>
    plainBits (g f (tileElem th ta f r c) (tileElem th tb f r c) % 2 ^ f.width)))

/-- `vand` (R228). -/
def execVand (td ta tb : TileNo) (sh : ShapeNo) (mask : TileNo) (s : State) :=
  tileBits2 s .any td ta tb sh mask (fun _ a b => a &&& b)

/-- `vor` (R228). -/
def execVor (td ta tb : TileNo) (sh : ShapeNo) (mask : TileNo) (s : State) :=
  tileBits2 s .any td ta tb sh mask (fun _ a b => a ||| b)

/-- `vxor` (R228). -/
def execVxor (td ta tb : TileNo) (sh : ShapeNo) (mask : TileNo) (s : State) :=
  tileBits2 s .any td ta tb sh mask (fun _ a b => a ^^^ b)

/-- `vandn` (R228). -/
def execVandn (td ta tb : TileNo) (sh : ShapeNo) (mask : TileNo) (s : State) :=
  tileBits2 s .any td ta tb sh mask (fun f a b => a &&& (2 ^ f.width - 1 - b))

/-- `vnot` (R228). -/
def execVnot (td ta : TileNo) (sh : ShapeNo) (mask : TileNo) (s : State) :=
  runBody s (tileForm s td sh .any true [ta] mask (fun th f _ r c => plainBits (2 ^ f.width - 1 - tileElem th ta f r c)))

/-- `vshl` (R228). -/
def execVshl (td ta tb : TileNo) (sh : ShapeNo) (mask : TileNo) (s : State) :=
  tileBits2 s .ints td ta tb sh mask (fun f a b => a * 2 ^ (b % f.width))

/-- `vshr`: zero-filled whatever the signedness (R228). -/
def execVshr (td ta tb : TileNo) (sh : ShapeNo) (mask : TileNo) (s : State) :=
  tileBits2 s .ints td ta tb sh mask (fun f a b => a / 2 ^ (b % f.width))

/-- `vsar`: copying bit W − 1 whatever the signedness (R228). -/
def execVsar (td ta tb : TileNo) (sh : ShapeNo) (mask : TileNo) (s : State) :=
  tileBits2 s .ints td ta tb sh mask (fun f a b => wrapNat f.width (toSigned f.width a / (2 ^ (b % f.width) : Nat)))

/-- `vclmul` (R228). -/
def execVclmul (td ta tb : TileNo) (sh : ShapeNo) (mask : TileNo) (s : State) :=
  tileBits2 s .ints td ta tb sh mask (fun f a b => clmulNat f.width a b)

/-- Order of two elements: integers by F's signedness, floats flushed under the context setting (R229). The test takes −1, 0
or 1. -/
def elemTest (f : Fmt) (env : Env) (quiet : Bool) (test : Int → Bool) (a b : Nat) : Bool × Nat :=
  if f.isInt then
    let x := decodeInt f a
    let y := decodeInt f b
    (test (if x < y then -1 else if x = y then 0 else 1), 0)
  else fpCompare f env quiet test a b

/-- A comparison: mask bits of the live elements (R229). -/
def tileTest (s : State) (td ta tb : TileNo) (sh : ShapeNo) (mask : TileNo) (quiet : Bool) (test : Int → Bool) :
    Except Stop State := do
  tileChecks s sh .both true [ta, tb] [td] mask []
  let th := cur s
  let f := shapeFmt th sh
  let rs := (liveElems th sh mask).map (fun p =>
    (p, elemTest f (curEnv s .rne) quiet test (tileElem th ta f p.1 p.2) (tileElem th tb f p.1 p.2)))
  let fl := rs.foldl (fun a x => a ||| x.2.2) 0
  checkFlags s fl
  .ok (retire (setCur s (orStatus (rs.foldl (fun t x => setMaskBit t td x.1.1 x.1.2 x.2.1) th) fl)))

/-- `vceq` (R229). -/
def execVceq (td ta tb : TileNo) (sh : ShapeNo) (mask : TileNo) (s : State) :=
  runBody s (tileTest s td ta tb sh mask true (fun c => c == 0))

/-- `vclt` (R229). -/
def execVclt (td ta tb : TileNo) (sh : ShapeNo) (mask : TileNo) (s : State) :=
  runBody s (tileTest s td ta tb sh mask false (fun c => decide (c < 0)))

/-- `vcle` (R229). -/
def execVcle (td ta tb : TileNo) (sh : ShapeNo) (mask : TileNo) (s : State) :=
  runBody s (tileTest s td ta tb sh mask false (fun c => decide (c ≤ 0)))

/-! ### Conversion, special functions, random fill: major 0x35 (R236 to R239) -/

/-- `vcvt`: from fmt(sh) to fmt(shx), at most cap(G) elements of a row (R236). -/
def execVcvt (td ta : TileNo) (shx sh : ShapeNo) (mask : TileNo) (rf : Rf) (s : State) :=
  runBody s (do
    tileChecks s sh .any true [ta] [td] mask []
    let th := cur s
    let f := shapeFmt th sh
    let g := shapeFmt th shx
    let els := (liveElems th sh mask).filter (fun p => decide (p.2 < capOf g))
    let r := formElems th els (fun w r c => convertFmt g f (curEnv s rf) w (tileElem th ta f r c))
    checkFlags s r.2.1
    .ok (retire (setCur s (orStatus (writeElems r.2.2 td g r.1) r.2.1))))

/-- RF of the special functions: 0b000, 0b110 or 0b111 (R237). -/
def flushRf (rf : Rf) : Bool := rf == .rne || rf == .fz || rf == .nf

/-- A special function of one operand. -/
def tileSpecial (s : State) (acc : Accepts) (td ta : TileNo) (sh : ShapeNo) (mask : TileNo) (rf : Rf)
    (g : Fmt → Env → Nat → FOut) :=
  runBody s (tileForm s td sh acc (flushRf rf) [ta] mask (fun th f _ r c => g f (curEnv s rf) (tileElem th ta f r c)))

/-- `vexp2` (R237). -/
def execVexp2 (td ta : TileNo) (sh : ShapeNo) (mask : TileNo) (rf : Rf) (s : State) := tileSpecial s .special td ta sh mask rf fpExp2

/-- `vlog2` (R237). -/
def execVlog2 (td ta : TileNo) (sh : ShapeNo) (mask : TileNo) (rf : Rf) (s : State) := tileSpecial s .special td ta sh mask rf fpLog2

/-- `vrcp` (R237). -/
def execVrcp (td ta : TileNo) (sh : ShapeNo) (mask : TileNo) (rf : Rf) (s : State) := tileSpecial s .floats td ta sh mask rf fpRcp

/-- `vrsq` (R237). -/
def execVrsq (td ta : TileNo) (sh : ShapeNo) (mask : TileNo) (rf : Rf) (s : State) := tileSpecial s .floats td ta sh mask rf fpRsq

/-- `vrcps` (R237). -/
def execVrcps (td ta tb : TileNo) (sh : ShapeNo) (mask : TileNo) (rf : Rf) (s : State) := tileFp2 s td ta tb sh mask rf fpRcps

/-- `vrsqs` (R237). -/
def execVrsqs (td ta tb : TileNo) (sh : ShapeNo) (mask : TileNo) (rf : Rf) (s : State) := tileFp2 s td ta tb sh mask rf fpRsqs

/-- Where `vrnd` stands: the thread, the row of the current draw, and the bits of it that are left. -/
structure RndState where
  th   : Thread
  row  : Nat
  bits : Nat
  left : Nat

/-- One live element of `vrnd`: a fresh draw at a row's first live element and where too few bits are left (R238). -/
def rndElem (td : TileNo) (f : Fmt) (st : RndState) (p : Nat × Nat) : RndState :=
  let fresh := st.row != p.1 + 1 || decide (st.left < f.width)
  let th := if fresh then stepGen st.th else st.th
  let v := if fresh then (nextDraw st.th).toNat else st.bits
  let n := if fresh then 64 else st.left
  ⟨setTileElem th td f p.1 p.2 (v % 2 ^ f.width), p.1 + 1, v / 2 ^ f.width, n - f.width⟩

/-- `vrnd` (R238). -/
def execVrnd (td : TileNo) (sh : ShapeNo) (mask : TileNo) (s : State) :=
  runBody s (do
    tileChecks s sh .any true [] [td] mask []
    let th := cur s
    .ok (retire (setCur s ((liveElems th sh mask).foldl (rndElem td (shapeFmt th sh)) ⟨th, 0, 0, 0⟩).th)))

/-- `vclr`: zero bits, and the poison bit cleared even on a zero grant (R239). -/
def execVclr (td : TileNo) (sh : ShapeNo) (mask : TileNo) (s : State) :=
  runBody s (do
    tileChecks s sh .any true [] [td] mask []
    let th := cur s
    let th1 := writeElems th td (shapeFmt th sh) ((liveElems th sh mask).map (fun p => (p.1, p.2, 0)))
    .ok (retire (setCur s { th1 with tilePoison := th1.tilePoison &&& ~~~((1 : BitVec 16) <<< td.toNat) })))

/-- `vpop` (R239). -/
def execVpop (td ta : TileNo) (sh : ShapeNo) (mask : TileNo) (s : State) :=
  runBody s (tileForm s td sh .ints true [ta] mask (fun th f _ r c => plainBits (popNat (tileElem th ta f r c) f.width)))

/-! ### Set-shape and mask: major 0x36 (R222 to R225) -/

/-- `vsh`: the request, the grant and its value in d (R222). -/
def execVsh (d a : RegNo) (sh : ShapeNo) (fmt : Fmt) (s : State) :=
  runBody s (do
    let r ← readForm s [a] d
    let w := on1 id r.1
    let rows := bits w 63 32
    let len := bits w 31 0
    let g := grantOf fmt rows len
    let v := BitVec.ofNat 128 (len + rows * 2 ^ 32 + g.2 * 2 ^ 64 + g.1 * 2 ^ 80 + fmt.code.toNat * 2 ^ 88 + 2 ^ 93)
    let th := { r.2 with shapes := mapSet (0 : BitVec 128) r.2.shapes sh.toNat v }
    .ok (retire (writeReg (setCur s th) d (word (g.1 * 2 ^ 32 + g.2)))))

/-- `vsp`: the shape point is this instruction's address (R223). -/
def execVsp (s : State) := runBody s (.ok (retire (setCur s { cur s with point := some (cur s).pc })))

/-- `vshq` (R224). -/
def execVshq (d : RegNo) (sh : ShapeNo) (s : State) :=
  runBody s (do
    let r ← readForm s [] d
    let x := shapeReg r.2 sh
    let mode := (x.extractLsb' 93 2).toNat
    let v := (x.extractLsb' 64 16).toNat + (x.extractLsb' 80 8).toNat * 2 ^ 16 + (x.extractLsb' 88 5).toNat * 2 ^ 24 +
      mode * 2 ^ 29 + (if r.2.point.isSome then 2 ^ 31 else 0) + 8 * 2 ^ 32 + 128 * 2 ^ 40
    .ok (retire (writeReg (setCur s r.2) d (word v))))

/-- `vmsk`: a rectangle of mask bits over the grant (R225). -/
def execVmsk (td : TileNo) (b : RegNo) (sh : ShapeNo) (s : State) :=
  runBody s (do
    tileChecks s sh .any true [] [td] 0 [b]
    let r ← tileSources s sh [b]
    let w := on1 id r.1
    let inBox := fun (p : Nat × Nat) =>
      decide (bits w 15 0 ≤ p.2 ∧ p.2 < bits w 31 16 ∧ bits w 39 32 ≤ p.1 ∧ p.1 < bits w 47 40)
    .ok (retire (setCur s ((gridOf (shapeRows r.2 sh) (shapeLen r.2 sh)).foldl
      (fun t p => setMaskBit t td p.1 p.2 (inBox p)) r.2))))

/-! ### Tile-scalar: major 0x37 (R240) -/

/-- The scalar operand: its low container bits, six and four for the narrow formats. -/
def scalarBits (f : Fmt) (w : Word) : Nat := w.toNat % 2 ^ f.width

/-- RF with an integer format must be 0b000. -/
def scalarRf (th : Thread) (sh : ShapeNo) (rf : Rf) : Bool := !(shapeFmt th sh).isInt || rf == .rne

/-- `op td, ta, b` on the granted elements: g forms integers, h floats. -/
def tileScalar (s : State) (td ta : TileNo) (b : RegNo) (sh : ShapeNo) (rf : Rf) (g : Int → Int → Int)
    (h : Fmt → Env → Word → Nat → Nat → FOut) : Except Stop State := do
  tileChecks s sh .both (scalarRf (cur s) sh rf) [ta] [td] 0 [b]
  let x ← tileSources s sh [b]
  let f := shapeFmt x.2 sh
  let k := scalarBits f (on1 id x.1)
  let r := formElems x.2 (liveElems x.2 sh 0) (fun w r c =>
    if f.isInt then intElem f (g (decodeInt f (tileElem x.2 ta f r c)) (decodeInt f k))
    else h f (curEnv s rf) w (tileElem x.2 ta f r c) k)
  checkFlags s r.2.1
  .ok (retire (setCur s (orStatus (writeElems r.2.2 td f r.1) r.2.1)))

/-- `vadds` (R240). -/
def execVadds (td ta : TileNo) (b : RegNo) (sh : ShapeNo) (rf : Rf) (s : State) :=
  runBody s (tileScalar s td ta b sh rf (fun a k => a + k) fpAdd)

/-- `vsubs` (R240). -/
def execVsubs (td ta : TileNo) (b : RegNo) (sh : ShapeNo) (rf : Rf) (s : State) :=
  runBody s (tileScalar s td ta b sh rf (fun a k => a - k) fpSub)

/-- `vmuls` (R240). -/
def execVmuls (td ta : TileNo) (b : RegNo) (sh : ShapeNo) (rf : Rf) (s : State) :=
  runBody s (tileScalar s td ta b sh rf (fun a k => a * k) fpMul)

/-- `vmins` (R240). -/
def execVmins (td ta : TileNo) (b : RegNo) (sh : ShapeNo) (rf : Rf) (s : State) :=
  runBody s (tileScalar s td ta b sh rf (fun a k => if a < k then a else k) (fun f e _ a k => fpMinMax f e false a k))

/-- `vmaxs` (R240). -/
def execVmaxs (td ta : TileNo) (b : RegNo) (sh : ShapeNo) (rf : Rf) (s : State) :=
  runBody s (tileScalar s td ta b sh rf (fun a k => if a < k then k else a) (fun f e _ a k => fpMinMax f e true a k))

/-- `vsplat` (R240). -/
def execVsplat (td : TileNo) (b : RegNo) (sh : ShapeNo) (s : State) :=
  runBody s (do
    tileChecks s sh .any true [] [td] 0 [b]
    let x ← tileSources s sh [b]
    let f := shapeFmt x.2 sh
    let k := scalarBits f (on1 id x.1)
    .ok (retire (setCur s (writeElems x.2 td f ((liveElems x.2 sh 0).map (fun p => (p.1, p.2, k)))))))

/-- `vext`: element (0, 0), extended by F's signedness; 0 on a zero grant (R240). -/
def execVext (ta : TileNo) (d : RegNo) (sh : ShapeNo) (s : State) :=
  runBody s (do
    checkTiles (cur s) [ta]
    checkDst (cur s) d
    tileChecks s sh .any true [ta] [] 0 []
    dstReady s (cur s) d
    let th := cur s
    let f := shapeFmt th sh
    let v := if zeroGrant th sh then 0 else BitVec.ofInt 64 (decodeInt f (tileElem th ta f 0 0))
    .ok (retire (writeReg s d v)))

/-- `vins` (R240). -/
def execVins (td : TileNo) (b : RegNo) (sh : ShapeNo) (s : State) :=
  runBody s (do
    tileChecks s sh .any true [] [td] 0 [b]
    let x ← tileSources s sh [b]
    let f := shapeFmt x.2 sh
    let th := if zeroGrant x.2 sh then x.2 else setTileElem x.2 td f 0 0 (scalarBits f (on1 id x.1))
    .ok (retire (setCur s th)))

end Sys2Proof.Machine
end

