-- ==== Sys2Proof/Machine/TileMove.lean ====
section
/-! DEFINITION. Tile movement, scan and reduction (R230, R231), and tile loads and stores by shape (R232 to R235). -/
namespace Sys2Proof.Machine

/-! ### Movement (R230) -/

/-- Copies of element bits: for each (r, c) written, the bits it receives, all read before anything is written. -/
def tileCopy (s : State) (td : TileNo) (sh : ShapeNo) (acc : Accepts) (srcs : List TileNo) (mask : TileNo)
    (els : Thread → List (Nat × Nat)) (v : Thread → Fmt → Nat → Nat → Nat) : Except Stop State := do
  tileChecks s sh acc true srcs [td] mask []
  let th := cur s
  let f := shapeFmt th sh
  .ok (retire (setCur s (writeElems th td f ((els th).map (fun p => (p.1, p.2, v th f p.1 p.2))))))

/-- `vmov` (R230). -/
def execVmov (td ta : TileNo) (sh : ShapeNo) (mask : TileNo) (s : State) :=
  runBody s (tileCopy s td sh .any [ta] mask (fun th => liveElems th sh mask) (fun th f r c => tileElem th ta f r c))

/-- `vbcast` (R230). -/
def execVbcast (td ta : TileNo) (sh : ShapeNo) (mask : TileNo) (s : State) :=
  runBody s (tileCopy s td sh .any [ta] mask (fun th => liveElems th sh mask) (fun th f _ c => tileElem th ta f 0 c))

/-- `vtrn`: its own destination region, r < min(glen, 8) and c < grows (R230). -/
def execVtrn (td ta : TileNo) (sh : ShapeNo) (mask : TileNo) (s : State) :=
  runBody s (tileCopy s td sh .any [ta] mask
    (fun th => (gridOf (if shapeLen th sh < 8 then shapeLen th sh else 8) (shapeRows th sh)).filter
      (fun p => maskOk th mask p.1 p.2))
    (fun th f r c => tileElem th ta f c r))

/-- `vperm`: a byte index for each element (R230). -/
def execVperm (td ta tb : TileNo) (sh : ShapeNo) (mask : TileNo) (s : State) :=
  runBody s (tileCopy s td sh .wide [ta, tb] mask (fun th => liveElems th sh mask) (fun th f r c =>
    let i := (tileByte th tb (128 * r + c)).toNat
    if i < shapeLen th sh then tileElem th ta f r i else 0))

/-- The selected positions of a row, ascending. -/
def selected (th : Thread) (tb : TileNo) (r len : Nat) : List Nat := (List.range len).filter (fun c => maskBit th tb r c)

/-- `vcpr`: selected elements to the row start, zeros after them (R230). -/
def execVcpr (td ta tb : TileNo) (sh : ShapeNo) (s : State) :=
  runBody s (tileCopy s td sh .any [ta, tb] 0 (fun th => liveElems th sh 0) (fun th f r c =>
    match (selected th tb r (shapeLen th sh))[c]? with
    | some i => tileElem th ta f r i
    | none => 0))

/-- `vexd`: leading elements into the selected positions, zeros elsewhere (R230). -/
def execVexd (td ta tb : TileNo) (sh : ShapeNo) (s : State) :=
  runBody s (tileCopy s td sh .any [ta, tb] 0 (fun th => liveElems th sh 0) (fun th f r c =>
    if maskBit th tb r c then tileElem th ta f r (selected th tb r c).length else 0))

/-- `vrot`: a byte count for each row (R230). -/
def execVrot (td ta tb : TileNo) (sh : ShapeNo) (mask : TileNo) (s : State) :=
  runBody s (tileCopy s td sh .any [ta, tb] mask (fun th => liveElems th sh mask) (fun th f r c =>
    tileElem th ta f r ((c + (tileByte th tb (128 * r)).toNat) % shapeLen th sh)))

/-! ### Scan and reduction (R231) -/

/-- The sum of elements: wrapped integers, or the rounded exact sum of floats. -/
def sumElems (f : Fmt) (env : Env) (xs : List Nat) : Nat × Nat :=
  if f.isInt then (wrapNat f.width ((xs.map (decodeInt f)).foldl (· + ·) 0), 0)
  else if xs.isEmpty then (0, 0)
  else
    let o := roundWith f env 0 (sumVals env.rf (xs.map (operand f env)))
    (o.bits, o.flags)

/-- The least or greatest of elements; a row without any gives the format's greatest or least value. -/
def extremeElems (f : Fmt) (env : Env) (wantMax : Bool) (xs : List Nat) : Nat × Nat :=
  if f.isInt then
    match xs.map (decodeInt f) with
    | [] => (wrapNat f.width (if wantMax then intMin f.width f.isSigned else intMax f.width f.isSigned), 0)
    | x :: r => (wrapNat f.width (r.foldl (fun a b => if (if wantMax then a < b else b < a) then b else a) x), 0)
  else
    match xs with
    | [] => (f.infBits + f.signBit wantMax, 0)
    | x :: r =>
      let start := fpMinMax f env wantMax x x
      r.foldl (fun a b =>
        let o := fpMinMax f env wantMax a.1 b
        (o.bits, a.2 ||| o.flags)) (start.bits, start.flags)

/-- A scan or reduction: for each destination element, the positions of its row that contribute. -/
def reduceForm (s : State) (td ta : TileNo) (sh : ShapeNo) (mask : TileNo) (els : Thread → List (Nat × Nat))
    (upTo : Nat → Nat → Nat) (g : Fmt → Env → List Nat → Nat × Nat) : Except Stop State := do
  tileChecks s sh .both true [ta] [td] mask []
  let th := cur s
  let f := shapeFmt th sh
  let rs := (els th).map (fun p =>
    (p, g f (curEnv s .rne) (((List.range (upTo (shapeLen th sh) p.2)).filter (maskOk th mask p.1)).map
      (tileElem th ta f p.1))))
  let fl := rs.foldl (fun a x => a ||| x.2.2) 0
  checkFlags s fl
  .ok (retire (setCur s (orStatus (writeElems th td f (rs.map (fun x => (x.1.1, x.1.2, x.2.1)))) fl)))

/-- Element (r, 0) of every granted row. -/
def rowHeads (sh : ShapeNo) (th : Thread) : List (Nat × Nat) :=
  if zeroGrant th sh then [] else (List.range (shapeRows th sh)).map (fun r => (r, 0))

/-- `vscan` (R231). -/
def execVscan (td ta : TileNo) (sh : ShapeNo) (mask : TileNo) (s : State) :=
  runBody s (reduceForm s td ta sh mask (fun th => liveElems th sh mask) (fun _ c => c + 1) sumElems)

/-- `vrsum` (R231). -/
def execVrsum (td ta : TileNo) (sh : ShapeNo) (mask : TileNo) (s : State) :=
  runBody s (reduceForm s td ta sh mask (rowHeads sh) (fun n _ => n) sumElems)

/-- `vrmin` (R231). -/
def execVrmin (td ta : TileNo) (sh : ShapeNo) (mask : TileNo) (s : State) :=
  runBody s (reduceForm s td ta sh mask (rowHeads sh) (fun n _ => n) (fun f e xs => extremeElems f e false xs))

/-- `vrmax` (R231). -/
def execVrmax (td ta : TileNo) (sh : ShapeNo) (mask : TileNo) (s : State) :=
  runBody s (reduceForm s td ta sh mask (rowHeads sh) (fun n _ => n) (fun f e xs => extremeElems f e true xs))

/-! ### Tile memory access (R232 to R235)

A part of an access is one element, or one byte of a format narrower than 16 bits: its address offset, its bytes, its tile
byte, and how its bits lie there: 0 bytes as they are; 1 the low nibble alone; 2 and 3 two or one FP6 elements of the nibble
plane; 4 + q, q FP6 elements of the high plane (R99, R100). The nibble-plane parts of up to four FP6 elements stand before
their high-plane part and are performed with it in one step, so that each element is single-copy atomic (R153, R235). -/

/-- A part of an access. -/
structure Part where
  va  : Word
  n   : Nat
  off : Nat
  how : Nat

/-- The parts of a row of a format, elements ascending. -/
def rowParts (f : Fmt) (len : Nat) (a : Word) (off : Nat) : List Part :=
  if f.isNibble then
    (List.range ((len + 1) / 2)).map (fun i => ⟨a + word i, 1, off + i, if 2 * i + 1 < len then 0 else 1⟩)
  else if f.isSix then
    (List.range ((len + 31) / 32)).flatMap (fun b =>
      let p := if len - 32 * b < 32 then len - 32 * b else 32
      (List.range ((p + 3) / 4)).flatMap (fun q =>
        (([2 * q, 2 * q + 1].filter (fun i => decide (2 * i < p))).map (fun i =>
          (⟨a + word (24 * b + i), 1, off + 32 * b + 2 * i, if 2 * i + 1 < p then 2 else 3⟩ : Part))) ++
        [(⟨a + word (24 * b + 16 + q), 1, off + 32 * b + 4 * q, 4 + (if p - 4 * q < 4 then p - 4 * q else 4)⟩ : Part)]))
  else
    let n := f.width / 8
    (List.range len).map (fun c => ⟨a + word (n * c), n, off + n * c, 0⟩)

/-- The part is performed together with the one behind it: a nibble-plane byte of FP6. -/
def joinsNext (how : Nat) : Bool := how == 2 || how == 3

/-- Put a part's bits into a tile register. -/
def putPart (th : Thread) (t : TileNo) (n off how v : Nat) : Thread :=
  let low := fun (th : Thread) (i x : Nat) => setTileByte th t i (BitVec.ofNat 8 ((tileByte th t i).toNat / 16 * 16 % 64 + x % 16))
  match how with
  | 0 => setTileBytes th t off (leBytes n v)
  | 1 => setTileByte th t off (BitVec.ofNat 8 ((tileByte th t off).toNat / 16 * 16 + v % 16))
  | 2 => low (low th off v) (off + 1) (v / 16)
  | 3 => low th off v
  | q => (List.range (q - 4)).foldl (fun th j =>
      setTileByte th t (off + j) (BitVec.ofNat 8 ((tileByte th t (off + j)).toNat % 16 + v / 4 ^ j % 4 * 16))) th

/-- A part's bits of a tile register, as they go to memory. -/
def getPart (th : Thread) (t : TileNo) (n off how : Nat) : Nat :=
  let b := fun i => (tileByte th t i).toNat
  match how with
  | 0 => leValue ((List.range n).map (fun i => tileByte th t (off + i)))
  | 1 => b off % 16
  | 2 => b off % 16 + b (off + 1) % 16 * 16
  | 3 => b off % 16
  | q => ((List.range (q - 4)).map (fun j => b (off + j) / 16 % 4 * 4 ^ j)).foldl (· + ·) 0

/-- The parts of `vld` and `vst`, rows ascending, and whether an address is misaligned (R232). -/
def shapeParts (th : Thread) (sh : ShapeNo) (store : Bool) (base stride : Word) : List Part × Option Word :=
  let f := shapeFmt th sh
  let len := shapeLen th sh
  let rows := (List.range (if zeroGrant th sh then 0 else shapeRows th sh)).map (fun r => (r, base + word r * stride))
  let bad := fun (a : Word) =>
    if f.isSix then decide (a.toNat % 8 ≠ 0) || (store && decide (len % 32 ≠ 0)) else decide (a.toNat % (f.container / 8) ≠ 0)
  (rows.flatMap (fun p => rowParts f len p.2 (128 * p.1)), (rows.find? (fun p => !f.isNibble && bad p.2)).map (·.2))

/-- The parts of `vldg` and `vstg` (R233). -/
def gatherParts (th : Thread) (ta : TileNo) (sh : ShapeNo) (base stride : Word) : List Part × Option Word :=
  let n := (shapeFmt th sh).width / 8
  let ps := (gridOf (shapeRows th sh) (shapeLen th sh)).map (fun p =>
    let j := leValue ((List.range 4).map (fun i => tileByte th ta (128 * p.1 + 4 * p.2 + i)))
    (⟨base + word p.1 * stride + sextWord 32 (word j), n, 128 * p.1 + n * p.2, 0⟩ : Part))
  (ps, (ps.find? (fun p => decide (p.va.toNat % n ≠ 0))).map (·.va))

/-- Check every part's address before any access (R234); kept translations come back in the state. -/
def checkParts (s : State) (wr : Bool) : List Part → Except Stop (List (Part × Loc) × State)
  | [] => .ok ([], s)
  | p :: r => do
    let (l, s1) ← checkAddr s p.va 1 p.n (!wr) wr plainWin
    specWindow s1 l.win
    let x ← checkParts s1 wr r
    .ok ((p, l) :: x.1, x.2)

/-- Add one to M and put the access in flight (R234); its homes are remembered for a fence (R298). -/
def sendTile (s : State) (kind : ReqKind) : State :=
  let q := { threadRequest s with kind := kind }
  sendRequest (addM ((requestRanges s q).foldl (fun st p => touchHome st p.1) s)) q

/-- The stride register's number: b + 1 must have a name (R232). -/
def strideReg (b : RegNo) : Except Stop RegNo := if b = 63 then .error (.trap 0x02 0) else .ok (b + 1)

/-- Register the tracked lines of a speculative task's parts. -/
def trackParts (s : State) (wr : Bool) (ps : List (Part × Loc)) : State :=
  ps.foldl (fun st p => if p.2.drop then st else specTrack st p.2.win p.1.va p.1.n wr) s

/-- Record every part that touches a guard granule, each part as one touch (R234, R254, log 90). -/
def touchParts (s : State) (ps : List (Part × Loc)) : State :=
  ps.foldl (fun st p => if p.2.drop then touchGuard st p.2 else st) s

/-- `vld` and `vldg`: the parts in flight write td one by one; a part dropped at a granule writes zero (R253). -/
def tileLoadForm (s : State) (acc : Accepts) (td : TileNo) (srcs : List TileNo) (b : RegNo) (sh : ShapeNo)
    (parts : Thread → Word → Word → List Part × Option Word) : Except Stop State := do
  checkFormat s sh acc true
  let b1 ← strideReg b
  tileChecks s sh acc true srcs [td] 0 [b, b1]
  let r ← tileSources s sh [b, b1]
  if zeroGrant (cur s) sh then .ok (retire (setCur s r.2))
  else
    checkHeld s 0b000001
    checkCount r.2.cntM 15
    match parts r.2 (r.1.headD 0) (r.1.getLastD 0) with
    | (_, some a) => .error (.trap 0x03 a)
    | (ps, none) =>
      let (ls, s1) ← checkParts (setCur s r.2) false ps
      let s2 := touchParts (trackParts s1 false ls) ls
      let th := (ls.filter (fun p => p.2.drop)).foldl (fun th p => putPart th td p.1.n p.1.off p.1.how 0) (cur s2)
      .ok (retire (sendTile (setCur s2 th)
        (.tileLoad td ((ls.filter (fun p => !p.2.drop)).map (fun p => (p.2.key, p.1.n, p.1.off, p.1.how))))))

/-- `vst` and `vstg`: td is read at issue (R234); a speculative task's parts go to its buffer (R346). A byte that takes one nibble
alone keeps its upper one, which the task has read (R99, R351). -/
def tileStoreForm (s : State) (acc : Accepts) (td : TileNo) (srcs : List TileNo) (b : RegNo) (sh : ShapeNo)
    (parts : Thread → Word → Word → List Part × Option Word) : Except Stop State := do
  checkFormat s sh acc true
  let b1 ← strideReg b
  tileChecks s sh acc true (td :: srcs) [] 0 [b, b1]
  let r ← tileSources s sh [b, b1]
  if zeroGrant (cur s) sh then .ok (retire (setCur s r.2))
  else
    checkHeld s 0b000010
    checkCount r.2.cntM 15
    match parts r.2 (r.1.headD 0) (r.1.getLastD 0) with
    | (_, some a) => .error (.trap 0x03 a)
    | (ps, none) =>
      let (ls, s1) ← checkParts (setCur s r.2) true ps
      let merged := ls.filter (fun p => p.1.how == 1)
      let s2 := touchParts (trackParts (trackParts s1 false merged) true ls) ls
      let ws := (ls.filter (fun p => !p.2.drop)).map (fun p =>
        (p.2.key, (if p.1.how = 1 then 0 else p.1.n), getPart r.2 td p.1.n p.1.off p.1.how, joinsNext p.1.how))
      match specTask s (cur s) with
      | none => .ok (retire (sendTile s2 (.tileStore ws)))
      | some x =>
        let put := fun (st : Option State) (w : Nat × Nat × Nat × Bool) =>
          st.bind (fun st =>
            if w.2.1 = 0 then bufferStore st x.id s.core w.1 1 (taskRead st x.id w.1 1 / 16 * 16 + w.2.2.1)
            else bufferStore st x.id s.core w.1 w.2.1 w.2.2.1)
        if ws.any (fun w => loadOwed s2 w.1 (if w.2.1 = 0 then 1 else w.2.1)) then .error (.wait .waitFamily) else .ok ()
        match ws.foldl put (some s2) with
        | some s3 => .ok (retire s3)
        | none => .error (.wait .waitFamily)

/-- `vld` (R232). -/
def execVld (td : TileNo) (b : RegNo) (sh : ShapeNo) (s : State) :=
  runBody s (tileLoadForm s .any td [] b sh (fun th x y => shapeParts th sh false x y))

/-- `vst` (R232). -/
def execVst (td : TileNo) (b : RegNo) (sh : ShapeNo) (s : State) :=
  runBody s (tileStoreForm s .any td [] b sh (fun th x y => shapeParts th sh true x y))

/-- `vldg` (R233). -/
def execVldg (td ta : TileNo) (b : RegNo) (sh : ShapeNo) (s : State) :=
  runBody s (tileLoadForm s .gather td [ta] b sh (fun th x y => gatherParts th ta sh x y))

/-- `vstg` (R233). -/
def execVstg (td ta : TileNo) (b : RegNo) (sh : ShapeNo) (s : State) :=
  runBody s (tileStoreForm s .gather td [ta] b sh (fun th x y => gatherParts th ta sh x y))

end Sys2Proof.Machine
end

