-- ==== Sys2Proof/Machine/Homes.lean ====
section
/-! DEFINITION. What happens at the homes of accesses, and when a result arrives (R126, R151 to R173, R234, R270, R294); the
words that are no instruction (R56, R89). -/
namespace Sys2Proof.Machine

/-! ### The order in which a thread's accesses are performed (R152, R284 to R290) -/

/-- A keyed send. -/
def ReqKind.isSend : ReqKind → Bool
  | .ksend _ _ _ _ => true
  | _ => false

/-- Two requests touch a byte in common and are ordered by it: two keyed sends are not (R358). -/
def requestsMeet (s : State) (a b : Request) : Bool :=
  !(ReqKind.isSend a.kind && ReqKind.isSend b.kind) && (requestRanges s a).any (fun x => (requestRanges s b).any (fun y => decide (x.1 < y.1 + y.2 ∧ y.1 < x.1 + x.2)))

/-- The request is a memory access that has not been performed. -/
def unperformed (r : Request) : Bool := (ReqKind.reads r.kind || ReqKind.writes r.kind) && r.resp.isNone

/-- A byte range lies in the scratchpad of another core whose mailboxes are sealed. -/
def keySealed (s : State) (core k : Nat) : Bool :=
  match keyCore k with
  | some c => c != core && (getCore s c).sealed
  | none => false

/-- The request, or its next part, goes to the scratchpad of another core whose mailboxes are sealed (R408). -/
def targetSealed (s : State) (r : Request) : Bool :=
  match requestRanges s r with
  | p :: _ => keySealed s r.core p.1
  | [] => false

/-- The request acts as a release where it is performed: a `ste` only where it will succeed (R161, R285). One of another device's word
is a release when its answer says that it has succeeded (`steAnswer`). -/
def relNow (s : State) (r : Request) : Bool :=
  r.rel && (r.kind != .ste ||
    (!farKey s r.key && !isFull s (hereKey s r.ctx r.key) && !isMarked s (hereKey s r.ctx r.key)))

/-- No earlier access of the request's thread is left unperformed: a release of package or fabric scope waits for that (R285). -/
def earlierDone (s : State) (r : Request) : Bool :=
  (s.flights.takeWhile (fun q => q.id != r.id)).all (fun q => !(q.uid == r.uid && unperformed q))

/-- The request changes its word: a write, or an arrival at a barrier (R203). -/
def wordWrites (r : Request) : Bool := ReqKind.writes r.kind || r.kind == .bar

/-- The access of a row handler or an edge handler stands as one of the command that started it (R326, R369): a shield that holds
for the command of the issuing thread holds for it. -/
def issuerShield (s : State) (r : Request) : Bool :=
  let th := getThread s r.core r.slot
  let behind := fun (core uid id : Nat) => shielded s core uid id false (requestRanges s r) (wordWrites r)
  if th.uid ≠ r.uid then false
  else
    match th.kind with
    | .rowHandler => behind r.core th.member th.work
    | .edgeHandler => (s.runs.find? (fun x => x.id == th.work)).any (fun x => behind x.core x.uid x.id)
    | .member | .task | .trapHandler | .kernel => false

/-- The request may be performed now: not parked, its target not sealed, no earlier access of its thread to one of its bytes
and, for a release of package or fabric scope, no earlier access at all left unperformed; no shield puts it, or an arrival at a barrier
word, behind another access (R288, R292); replayed requests of a home go in the order of their arrival there (R412). -/
def mayPerform (s : State) (r : Request) : Bool :=
  !r.parked && !targetSealed s r && replayTurn s r &&
    (r.uid == 0 || (s.flights.takeWhile (fun q => q.id != r.id)).all (fun q =>
      !(q.uid == r.uid && unperformed q) || !((relNow s r && decide (4 ≤ r.scope)) || requestsMeet s q r))) &&
    (!(unperformed r || r.kind == .bar) || !(shielded s r.core r.uid r.id true (requestRanges s r) (wordWrites r) ||
      issuerShield s r))

/-- A release is performed that has a narrower scope: the agents of that scope find the thread's earlier accesses performed from now on
(R282, R285, R292). -/
def shieldEarlier (s : State) (r : Request) : State :=
  if decide (r.scope < 4) && r.uid != 0 then
    shieldAll s r.scope (fun q => q.uid == r.uid && decide (q.id < r.id) && unperformed q)
  else s

/-- The same for a request that may be a release. -/
def releaseShield (s : State) (r : Request) : State := if relNow s r then shieldEarlier s r else s

/-- Park a request: the home's queue of 256 holds it, and the kernel is told; a full queue refuses it for now (R412). -/
def parkRequest (s : State) (r : Request) : State :=
  if parkedAt s (homeOf r.key) < 256 then tellKernel (setRequest { s with nextId := s.nextId + 1 } { r with parked := true, turn := s.nextId }) 1 r.id
  else s

/-- Some byte of the request lies where its home cannot serve it now (R412). -/
def meetsFault (s : State) (r : Request) : Bool :=
  match r.kind with
  | .tileLoad _ ps => ps.any (fun p => homeFaults s r.ctx p.1)
  | .tileStore ps => ps.any (fun p => homeFaults s r.ctx p.1)
  | .stm | .ldrd _ => ownMember s r.key && homeFaults s r.ctx (ownShare s r.key)
  | .ksend _ _ _ _ => false
  | _ => homeFaults s r.ctx r.key

/-- What a home does with a request that may be performed: it parks it, or performs it at the place where its bytes are now. -/
def atHome (s : State) (r : Request) (f : State → Request → State) : State :=
  if !mayPerform s r then s
  else if meetsFault s r then parkRequest s r
  else f (releaseShield s r) { r with key := hereKey s r.ctx r.key }

/-! ### Results (R126, R128, R151) -/

/-- Give a result to the register of the thread that waits for it; a thread that is gone takes none (R200). -/
def deliver (s : State) (r : Request) (x : Reg) : State :=
  let th := getThread s r.core r.slot
  if th.uid = r.uid ∧ th.status ≠ .free then writeLate s r.core r.slot r.id r.d x else s

/-- A counted result arrives: L falls and the register is written. -/
def answer (s : State) (r : Request) (x : Reg) : State := deliver (lowerL (dropRequest s r.id) r) r x

/-- A result that its request's home has formed. -/
def respReg (r : Request) (v : Word) : Reg :=
  { Reg.empty with
    val := v, full := true, poison := r.poison, indet := r.indet, indetAddr := if r.indet then r.va else 0
    indetPc := if r.indet then r.pc else 0 }

/-- The value of n bytes as a load of the request's thread sees them: a speculative task reads its own buffered stores
(R346). -/
def loadBytes (s : State) (r : Request) (k n : Nat) : Nat :=
  match specTask s (getThread s r.core r.slot) with
  | some x => if (getThread s r.core r.slot).uid = r.uid then taskRead s x.id k n else peek s k n
  | none => peek s k n

/-- Some byte that a load of the request's thread takes from memory lies in a marked word or line: bytes that a speculative task has
buffered are its own (R346). -/
def loadMarked (s : State) (r : Request) (k n : Nat) : Bool :=
  match specTask s (getThread s r.core r.slot) with
  | some x =>
    if (getThread s r.core r.slot).uid = r.uid then
      (List.range n).any (fun i => (mapFind x.buf (k + i)).isNone && isMarked s (k + i))
    else rangeMarked s k n
  | none => rangeMarked s k n

/-- A loaded value in a register (R157). -/
def loadValue (signed : Bool) (n v : Nat) : Word := if signed then sextWord (8 * n) (word v) else word (v % 2 ^ (8 * n))

/-- A poisoned result. -/
def poisonReg : Reg := { Reg.empty with full := true, poison := true }

/-- The three bits of `fstat` (R163): a word without a state bit counts as full. -/
def fstatBits (full bad state : Bool) : Word :=
  word ((if full || !state then 1 else 0) + (if bad then 2 else 0) + (if state then 4 else 0))

/-- What `fstat` returns (R163). -/
def fstatValue (s : State) (k : Nat) : Word := fstatBits (isFull s k) (isMarked s k) (keyHasState k)

/-- What `fstat` returns of a word that another device, or nothing here, tells of: three bits of v (R163). -/
def fstatOf (v : Word) : Word := fstatBits (v.getLsbD 0) (v.getLsbD 1) (v.getLsbD 2)

/-- The parts of a tile load that are performed as one step, and those behind them (R235). -/
def loadGroup : List (Nat × Nat × Nat × Nat) → List (Nat × Nat × Nat × Nat) × List (Nat × Nat × Nat × Nat)
  | [] => ([], [])
  | p :: rest => if joinsNext p.2.2.2 then (p :: (loadGroup rest).1, (loadGroup rest).2) else ([p], rest)

/-- One part of a tile load is read into the tile register; one whose data holds an uncorrectable error poisons it (R213). `v` holds
what another device answers for this part and those behind it, and `bad` says that it answers with such an error. -/
def loadPart (r : Request) (t : TileNo) (bad : Bool) (v : Nat) (s : State) (p : Nat × Nat × Nat × Nat) : State :=
  let k := hereKey s r.ctx p.1
  let far := farKey s k
  let x := if far then (v % 2 ^ (8 * p.2.1), s) else openRead s k p.2.1 (loadBytes s r k p.2.1)
  onThread x.2 r.core r.slot r.uid (fun th =>
    let th1 := putPart th t p.2.1 p.2.2.1 p.2.2.2 x.1
    if (if far then bad else loadMarked s r k p.2.1) then { th1 with tilePoison := th1.tilePoison ||| ((1 : BitVec 16) <<< t.toNat) }
    else th1)

/-- The next parts of a tile load are performed; M falls with the last (R234). The reads of one tile load are relaxed among each other
(R235): the model's choice is to perform them in ascending order (log 119). -/
def tileArrival (s : State) (r : Request) (t : TileNo) (parts : List (Nat × Nat × Nat × Nat)) (v : Word) (bad : Bool) : State :=
  let g := loadGroup parts
  let s1 := (g.1.foldl (fun (acc : State × Nat) p => (loadPart r t bad acc.2 acc.1 p, acc.2 / 2 ^ (8 * p.2.1))) (s, v.toNat)).1
  if g.2.isEmpty then lowerM (dropRequest s1 r.id) r.core r.slot r.uid
  else setRequest s1 { r with kind := .tileLoad t g.2 }

/-- A far request is complete: its tag is kept from use until it expires (R413). -/
def closeTag (s : State) (r : Request) : State :=
  if r.tag = 0 then s else { s with tags := mapSet [] s.tags 2001 ((mapGet [] s.tags 2001).filter (fun e => !e.old) ++ [⟨r.core, r.tag, 0, false, false⟩]) }

/-- Another device's answer to a request: an atomic's old value in the width of its operation (R167), 1 or 0 for a `ste` (R161). -/
def farValue (r : Request) (v : Word) : Word :=
  match r.kind with
  | .amo _ => loadValue false r.width v.toNat
  | .ste => word (bits v 0 0)
  | _ => v

/-- Another device's answer to a request arrives; one whose word holds an uncorrectable error poisons d (R156, R405). -/
def farAnswer (s : State) (r : Request) (v : Word) (bad : Bool) : State :=
  answer (closeTag s r) r (if bad then poisonReg else fullReg (farValue r v))

/-- Two values combined as `ldrd` combines them (R165). -/
def ldrdPair (op : LdrdOp) (x y : Word) : Word :=
  match op with
  | .addI64 => x + y
  | .minI64 => if x.slt y then x else y
  | .maxI64 => if x.slt y then y else x
  | .addF64 => word (fpAdd .f64 envBare 0 x.toNat y.toNat).bits
  | .minF64 => word (fpMinMax .f64 envBare false x.toNat y.toNat).bits
  | .maxF64 => word (fpMinMax .f64 envBare true x.toNat y.toNat).bits

/-- The home that serves a key keeps results of tagged requests; the result it keeps for this one, and whether it is poisoned (R413). -/
def tagResult (s : State) (r : Request) : Option (Word × Bool) :=
  if r.tag = 0 then none
  else ((mapGet [] s.tags (homeOf r.key)).find? (fun e => e.core == r.core && e.tag == r.tag && !e.old)).map (fun e => (e.resp, e.bad))

/-- The window has room for another entry: fewer than 256, or one that may be reused; a home that has already performed the request
needs none. -/
def tagRoom (s : State) (r : Request) : Bool :=
  let w := mapGet [] s.tags (homeOf r.key)
  r.tag == 0 || decide (w.length < 256) || w.any (·.old) || (tagResult s r).isSome

/-- Keep a tagged request's result, in place of the first entry that may be reused where the window is full. -/
def keepTag (s : State) (r : Request) (v : Word) (bad : Bool) : State :=
  if r.tag = 0 then s
  else
    let h := homeOf r.key
    let w := mapGet [] s.tags h
    let w1 := if w.length < 256 then w
      else match w.find? (·.old) with | some e => w.erase e | none => w
    { s with tags := mapSet [] s.tags h (w1 ++ [⟨r.core, r.tag, v, bad, false⟩]) }

/-- A load is performed at its home; one under a tag, a member's share of an `ldrd`, once (R165, R413). -/
def loadOnce (s : State) (r : Request) (signed : Bool) : State :=
  let reg := fun (v : Word) (bad : Bool) => if bad then poisonReg else fullReg (loadValue signed r.width v.toNat)
  match tagResult s r with
  | some x => answer s r (reg x.1 x.2)
  | none =>
    let x := openRead s r.key r.width (loadBytes s r r.key r.width)
    let v := word x.1
    let bad := loadMarked s r r.key r.width
    answer (keepTag x.2 r v bad) r (reg v bad)

/-- Values summed in pairs: each pair (i, j) of the order puts the sum of values i and j in place of value i and takes value j out;
what is left is summed from the first on (R165, R422). -/
def mergeBy (f : Word → Word → Word) : List (Nat × Nat) → List Word → Word
  | [], x :: r => r.foldl f x
  | [], [] => 0
  | (i, j) :: o, xs =>
    if i < xs.length ∧ j < xs.length ∧ i ≠ j then mergeBy f o ((xs.set i (f (xs.getD i 0) (xs.getD j 0))).eraseIdx j)
    else mergeBy f o xs

/-- The values of a group's members in rank order: this device's own word at its rank, the other members' in their order. -/
def rankWords (own : Nat) (mine : Word) : List Nat → List Word → List Word
  | [], _ => []
  | d :: r, ws =>
    if d = own then mine :: rankWords own mine r ws
    else match ws with | w :: rest => w :: rankWords own mine r rest | [] => rankWords own mine r []

/-- This device's own word of an `ldrd` under its tag, and whether it holds an uncorrectable error (R413). -/
def ownWord (s : State) (q : Request) : Word × Bool × State :=
  match tagResult s q with
  | some x => (x.1, x.2, s)
  | none =>
    let x := openRead s q.key 8 (peek s q.key 8)
    let v := word x.1
    (v, isMarked s q.key, keepTag x.2 q v (isMarked s q.key))

/-- Every other member of the group has given its word. -/
def wordsGiven (s : State) (k : Nat) (words : List Word) : Bool :=
  words.length == ((groupOf s k).filter (fun d => d != s.dev.devNum)).length

/-- The answers of the members of a reduce group are combined once every member has given its own (R165): this device's own word is read
through its export table; a word with an uncorrectable error poisons the result (R405). A window without room for its tag refuses it for
now (R413). A group that nothing has set has no member: the result is a free value. -/
def ldrdResult (op : LdrdOp) (words : List Word) (order : List (Nat × Nat)) (bad : Bool) (s : State) (r : Request) : State :=
  let q := { r with key := hereKey s r.ctx (ownShare s r.key) }
  if !wordsGiven s r.key words || (ownMember s r.key && !tagRoom s q) then s
  else
    let (mine, mark, s1) := if ownMember s r.key then ownWord s q else (0, false, s)
    let xs := rankWords s.dev.devNum mine (groupOf s r.key) words
    if xs.isEmpty then farAnswer (freeVal s1).2 r (freeVal s1).1 bad
    else farAnswer s1 r (mergeBy (ldrdPair op) order xs) (bad || mark)

/-- Another device's answer to a `ste` (R161): one that has succeeded is a release where it was performed, so that it is answered so only
once the earlier accesses of its thread are performed, or shielded toward its narrower scope (R285); one that has failed orders nothing. -/
def steAnswer (s : State) (r : Request) (v : Word) (bad : Bool) : State :=
  if bad || !v.getLsbD 0 then farAnswer s r v bad
  else if r.scope < 4 || earlierDone s r then farAnswer (shieldEarlier s r) r v bad
  else s

/-- RESULT_ARRIVAL (R126). -/
def execResultArrival (s : State) : Host.Outcome State Fault Refusal :=
  match s.event with
  | .resultArrival req v bad =>
    match getRequest s req with
    | none => .next s
    | some r =>
      match r.kind with
      | .delayed => .next (deliver (dropRequest s req) r (fullReg (r.resp.getD 0)))
      | .load signed =>
        .next (atHome s r (fun s r =>
          if farKey s r.key then answer s r (if bad then poisonReg else fullReg (loadValue signed r.width v.toNat))
          else if tagRoom s r then loadOnce s r signed else s))
      | .fstat => .next (atHome s r (fun s r => answer s r (fullReg (if farKey s r.key then fstatOf v else fstatValue s r.key))))
      | .ldrd _ => if r.poison then .next (answer (closeTag s r) r poisonReg) else .next s
      | .lde | .ste =>
        match r.resp with
        | some x => .next (answer s r (respReg r x))
        | none =>
          if farKey s r.key && decide (0 < r.arrived) then
            .next (if r.kind = .ste then steAnswer s r v bad else farAnswer s r v bad)
          else .next s
      | .ldf | .amo _ | .cas =>
        match r.resp with
        | some x => .next (answer s r (respReg r x))
        | none => if farKey s r.key then .next (atHome s r (fun s r => farAnswer s r v bad)) else .next s
      | .tileLoad t ps => .next (atHome s r (fun s r => tileArrival s r t ps v bad))
      | .macc t fmt acc row rf clr =>
        match maccResult s r t fmt acc row rf clr with
        | some s1 => .next (dropRequest s1 req)
        | none => .next s
      | .store | .stf | .stm | .red _ | .bar | .tileStore _ | .famPut _ _ _ | .famGive _ _ _ _ | .shared _ _ _ | .brk _ _
      | .ksend _ _ _ _ | .rxa _ _ _ | .tenq _ | .streamOut _ _ _ | .streamEnd _ _ _ | .engine _ => .next s
  | .ldrdArrival req words order bad =>
    match getRequest s req with
    | none => .next s
    | some r =>
      match r.kind with
      | .ldrd op => .next (atHome s r (ldrdResult op words order bad))
      | _ => .next s
  | _ => .next s

/-! ### Writes (R270, R294) -/

/-- The parts of a tile store that are performed as one step, and those behind them (R235). -/
def storeGroup : List (Nat × Nat × Nat × Bool) → List (Nat × Nat × Nat × Bool) × List (Nat × Nat × Nat × Bool)
  | [] => ([], [])
  | p :: rest => if p.2.2.2 then (p :: (storeGroup rest).1, (storeGroup rest).2) else ([p], rest)

/-- The part of a tile store at its place; n = 0 is a low nibble (R99). The model's choice (log 128): the update of a row's last byte in
an odd row length of a 4-bit format reads and writes the byte in this one step, so that no other agent's write of it is lost (R232). -/
def storePart (ctx uid : Nat) (s : State) (p : Nat × Nat × Nat × Bool) : State :=
  let k := hereKey s ctx p.1
  if farKey s k then s
  else if p.2.1 = 0 then storeAt s k 1 (peek s k 1 / 16 * 16 + p.2.2.1 % 16) uid
  else storeAt s k p.2.1 p.2.2.1 uid

/-- The next parts of a tile store are performed; M falls with the last (R234). -/
def tileWrite (s : State) (r : Request) (parts : List (Nat × Nat × Nat × Bool)) : State :=
  let g := storeGroup parts
  let s1 := g.1.foldl (storePart r.ctx r.uid) s
  if g.2.isEmpty then lowerM (dropRequest s1 r.id) r.core r.slot r.uid
  else setRequest s1 { r with kind := .tileStore g.2 }

/-- The home of a family records a value and sends it on (R197). -/
def recordPut (s : State) (r : Request) (fam n : Nat) (dep : Bool) : State :=
  let s1 := lowerS (dropRequest s r.id) r
  match getFam s1 fam with
  | none => s1
  | some f =>
    if f.outcome ≠ .running then s1
    else
      let s2 := onFam s1 fam (fun f =>
        if dep then { f with deps := mapPut f.deps n r.b } else { f with globals := mapPut f.globals n r.b })
      let cores := (f.chunks.map (·.core)).eraseDups
      if cores.isEmpty then s2
      else sendRequest s2 { Request.zero with core := f.home, ctx := f.ctx, kind := .famGive fam n dep cores, b := r.b }

/-- Earlier values of the same register of the family are recorded first. -/
def putFirst (s : State) (r : Request) (fam n : Nat) (dep : Bool) : Bool :=
  (s.flights.takeWhile (fun q => q.id != r.id)).all (fun q => q.uid != r.uid || q.kind != .famPut fam n dep)

/-- The agent of what an output port appends: the command that its `sbind` issued (R280), each element an event of its own, with the
number of its append (R283, R296). -/
def streamAgent (r : Request) : Agent := ⟨r.core, r.slot, r.uid, r.ctx, r.pc, 2, r.id, r.core⟩

/-- The request is the end of this port. -/
def endsPort (port : Nat) (q : Request) : Bool := match q.kind with | .streamEnd j _ _ => j == port | _ => false

/-- Elements of an output port that are on their way, but for this request. -/
def streamPending (s : State) (port : Nat) (r : Request) : List Request :=
  s.flights.filter (fun q => appendsTo port q && q.id != r.id)

/-- An output stream stops (R251, R265): what is left of it is dropped, its port takes no more elements, FADDR, e21 and PROGRESS
report it, C falls and its trap is posted, to a fence that waits for one of its elements too (log 32). -/
def streamStop (s : State) (port : Nat) (r : Request) (pos cause : Nat) (va : Word) : State :=
  let mine := fun (q : Request) => appendsTo port q || endsPort port q
  let low := s.flights.foldl (fun a q => match q.kind with | .streamOut j _ i => if j == port && decide (i < a) then i else a | _ => a) pos
  let s1 := { s with flights := s.flights.filter (fun q => !mine q) }
  let s2 := onThread s1 r.core r.slot r.uid (fun th =>
    { th with ports := th.ports.map (fun p => if p.id = port then { p with stopped := true } else p) })
  let s3 := reportEngine (setEng s2 r.core r.slot r.uid 22 (word low)) r.core r.slot r.uid va cause 0 1 2 0
  postTrapOf (lowerC s3 r.core r.slot r.uid 1) r.core r.slot r.uid ((s.flights.filter mine).map (·.id)) cause va r.pc

/-- An appended element is performed, or its port stops (R251, R265, R270). -/
def streamWrite (s : State) (r : Request) (port : Nat) (rec_ : ShapeRec) (pos : Nat) : State :=
  let pend := streamPending s port r
  let n := r.e.toNat
  let isDone := fun j => decide (j < n) && !pend.any (fun q => q.kind == .streamOut port rec_ j)
  match runEng s (writeElem (streamAgent r) rec_ (recCount rec_) isDone pos (r.b.toNat % 2 ^ rec_.format.width)) with
  | .ok s1 => dropRequest s1 r.id
  | .error (0, va) => engPark s (streamAgent r) va
  | .error (cause, va) => streamStop s port r pos cause va

/-- The words that an unbound port's elements cover in part become full with its last element (R255). -/
def fillPartial (ag : Agent) (rec_ : ShapeRec) (n : Nat) : Eng Unit :=
  (((List.range n).flatMap (elemWords rec_)).eraseDups).forM (fun k =>
    if (elemsOn rec_ (recCount rec_) 8 k).any (fun i => decide (n ≤ i)) then
      engSkip (do
        let l ← engPlace ag (word (8 * k)) 8 false true
        if l.drop || l.away then pure () else modify (fun s => if keyHasState l.key then fillWord s l.key else s))
    else pure ())

/-- An unbound output port is done: C falls (R272). -/
def streamDone (s : State) (r : Request) (rec_ : ShapeRec) (n : Nat) : State :=
  match runEng s (fillPartial (streamAgent r) rec_ n) with
  | .ok s1 => lowerC (dropRequest s1 r.id) r.core r.slot r.uid 1
  | .error (_, va) => engPark s (streamAgent r) va

/-- A tagged write is performed once at its home (R413). -/
def writeOnce (s : State) (r : Request) : State :=
  match tagResult s r with
  | some _ => s
  | none => keepTag (storeAt s r.key r.width r.b.toNat r.uid) r 0 false

/-- An `stm` is performed (R164): this device's share as a store at the same offset of its own window (R418), the others elsewhere. A
window without room for its tag refuses it for now (R413). -/
def stmWrite (s : State) (r : Request) : State :=
  if ownMember s r.key then
    let q := { r with key := hereKey s r.ctx (ownShare s r.key) }
    if tagRoom s q then lowerS (dropRequest (closeTag (writeOnce s q) r) r.id) r else s
  else lowerS (dropRequest (closeTag s r) r.id) r

/-- WRITE_AT_HOME (R294). -/
def execWriteAtHome (s : State) : Host.Outcome State Fault Refusal :=
  match s.event with
  | .writeAtHome req =>
    match getRequest s req with
    | none => .next s
    | some r =>
      match r.kind with
      | .store =>
        .next (atHome s r (fun s r =>
          if farKey s r.key then lowerS (dropRequest s req) r
          else if tagRoom s r then lowerS (dropRequest (writeOnce s r) req) r else s))
      | .stm => .next (atHome s r stmWrite)
      | .tileStore ps => .next (atHome s r (fun s r => tileWrite s r ps))
      | .famPut fam n dep =>
        if mayPerform s r && putFirst s r fam n dep then .next (recordPut (releaseShield s r) r fam n dep) else .next s
      | .streamOut port rec_ pos => .next (streamWrite s r port rec_ pos)
      | .streamEnd port rec_ n => if (streamPending s port r).isEmpty then .next (streamDone s r rec_ n) else .next s
      | .load _ | .ldf | .lde | .fstat | .ldrd _ | .stf | .ste | .amo _ | .red _ | .cas | .bar | .delayed | .tileLoad _ _
      | .famGive _ _ _ _ | .shared _ _ _ | .brk _ _ | .ksend _ _ _ _ | .rxa _ _ _ | .tenq _ | .macc _ _ _ _ _ _
      | .engine _ => .next s
  | _ => .next s

/-! ### Full/empty accesses (R158 to R162) -/

/-- A request reaches its home and takes its place in arrival order. -/
def arriveAt (s : State) (r : Request) : State :=
  setRequest { s with nextId := s.nextId + 1 } { r with arrived := s.nextId }

/-- `ldf` or `lde` at its home: it waits while the word is empty. -/
def feLoadAtHome (s : State) (r : Request) : State :=
  let s1 := arriveAt s r
  serveWaiters r.key s1.flights.length s1

/-- A write to the word of a context's launch port: who filled it last (R374). -/
def notePort (s : State) (r : Request) : State :=
  { s with contexts := s.contexts.map (fun p => (p.1, if p.2.portKey = r.key then { p.2 with portBy := r.core } else p.2)) }

/-- `stf` at its home. -/
def stfAtHome (s : State) (r : Request) : State :=
  let s1 := lowerS (dropRequest s r.id) r
  if farKey s r.key then s1
  else
    let s2 := storeAt (notePort s1 r) r.key 8 r.b.toNat r.uid
    if keyHasState r.key then fillWord s2 r.key else s2

/-- The launch port of a context stays occupied during a kernel handover (R431). -/
def portHeld (s : State) (k : Nat) : Bool :=
  s.dev.handover.isSome && s.contexts.any (fun p => p.2.portKey != 0 && wordOf p.2.portKey == wordOf k)

/-- `ste` at its home (R161, R405, R431). -/
def steAtHome (s : State) (r : Request) : State :=
  if isMarked s r.key then setRequest s { r with resp := some 0, poison := true }
  else if isFull s r.key || portHeld s r.key then setRequest s { r with resp := some 0 }
  else fillWord (storeAt (notePort (setRequest s { r with resp := some 1 }) r) r.key 8 r.b.toNat r.uid) r.key

/-- The thread that stands at an `lde` or `ste` of the fabric window goes on once the home has accepted it (R150): its sources are
taken, d waits for the answer and L rises. -/
def goOnFar (s1 : State) (r : Request) : State :=
  onThread s1 r.core r.slot r.uid (fun th =>
    match takeSources th [BitVec.ofNat 6 (r.e.toNat % 64), BitVec.ofNat 6 (r.e.toNat / 64)] with
    | some (_, th2) =>
      { setReg th2 r.d { Reg.empty with pend := true } with
        cntL := th2.cntL + 1, pc := pcNext th2.pc, status := .ready, touched := setIns th2.touched (homeOf r.key) }
    | none => th)

/-- Another device accepts an `lde` or `ste`. -/
def acceptFar (s : State) (r : Request) : State := goOnFar (arriveAt s r) r

/-- The remote home of an `lde` or `ste` finds no state bit: the thread that stands at it traps there with 0x06 (R150). -/
def refuseFar (s : State) (r : Request) : State :=
  let s1 := dropRequest s r.id
  let th := getThread s1 r.core r.slot
  if th.uid = r.uid ∧ th.status.canIssue then takeTrap s1 r.core r.slot 0x06 r.va th.pc th.pc else s1

/-- An `lde` or `ste` at the home of its word: one that named the word through this device's own fabric window, of a page that was not
exported at its issue, is accepted or refused there first (R150). -/
def stateAtHome (key : Nat) (f : State → Request → State) (s : State) (r : Request) : State :=
  if !fabricKey key then f s r
  else if keyHasState r.key then f (goOnFar (setRequest s r) r) r
  else refuseFar s r

/-- FE_ACCESS_AT_HOME (R162); for a word of another device, its home's acceptance (R150). -/
def execFeAccessAtHome (s : State) : Host.Outcome State Fault Refusal :=
  match s.event with
  | .feAccessAtHome req =>
    match getRequest s req with
    | none => .next s
    | some r =>
      if r.resp.isSome || decide (0 < r.arrived) then .next s
      else
        match r.kind with
        | .ldf => if farKey s r.key then .next s else .next (atHome s r feLoadAtHome)
        | .lde => if farKey s r.key then .next s else .next (atHome s r (stateAtHome r.key feLoadAtHome))
        | .stf => .next (atHome s r stfAtHome)
        | .ste => if farKey s r.key then .next s else .next (atHome s r (stateAtHome r.key steAtHome))
        | .load _ | .fstat | .ldrd _ | .store | .stm | .amo _ | .red _ | .cas | .bar | .delayed | .tileLoad _ _ | .tileStore _
        | .famPut _ _ _ | .famGive _ _ _ _ | .shared _ _ _ | .brk _ _ | .ksend _ _ _ _ | .rxa _ _ _ | .tenq _
        | .macc _ _ _ _ _ _ | .streamOut _ _ _ | .streamEnd _ _ _ | .engine _ => .next s
  | .feAccepted req ok =>
    match getRequest s req with
    | none => .next s
    | some r =>
      if (r.kind == .lde || r.kind == .ste) && farKey s r.key && r.arrived == 0 && r.resp.isNone && mayPerform s r then
        .next (if ok then acceptFar s r else refuseFar s r)
      else .next s
  | _ => .next s

/-- FE_REQUEST_BOUNCE: a waiting request is returned, and the core sends it again (R162). One of another device's word waits there
whichever way it takes: its thread has gone on, and nothing changes here. -/
def execFeRequestBounce (s : State) : Host.Outcome State Fault Refusal :=
  match s.event with
  | .feRequestBounce req =>
    match getRequest s req with
    | none => .next s
    | some r =>
      if (r.kind == .ldf || r.kind == .lde) && r.resp.isNone && decide (0 < r.arrived) && !fabricKey r.key then
        .next (setRequest s { r with arrived := 0 })
      else .next s
  | _ => .next s

/-! ### Atomics (R155, R167 to R171, R413) -/

/-- f(old, b) of R167 in the operation's width. -/
def amoApply (op : AmoOp) (old b : Word) : Word :=
  match op with
  | .add => old + b
  | .and => old &&& b
  | .or => old ||| b
  | .xor => old ^^^ b
  | .min => if old.slt b then old else b
  | .max => if old.slt b then b else old
  | .minz => if old.toNat < b.toNat then old else b
  | .maxz => if old.toNat < b.toNat then b else old
  | .swap => b
  | .fadd32 => word (fpAdd .f32 envBare 0 (old.toNat % 2 ^ 32) (b.toNat % 2 ^ 32)).bits
  | .fadd64 => word (fpAdd .f64 envBare 0 old.toNat b.toNat).bits
  | .badd16 => word (fpAdd .bf16 envBare 0 (old.toNat % 2 ^ 16) (b.toNat % 2 ^ 16)).bits
  | .fmin => word (fpMinMax .f64 envBare false old.toNat b.toNat).bits
  | .fmax => word (fpMinMax .f64 envBare true old.toNat b.toNat).bits

/-- The indivisible step of an atomic at its home: the old value and the state after it; a marked word is left as it is
(R405). The old value of an element of `recv` that no signal has announced is free (R423). -/
def amoStep (s : State) (r : Request) (f : Word → Option Word) : Word × Bool × State :=
  if rangeMarked s r.key r.width then (0, true, s)
  else
    let x := openRead s r.key r.width (peek s r.key r.width)
    let old := word x.1
    match f old with
    | some v => (old, false, storeAt x.2 r.key r.width v.toNat r.uid)
    | none => (old, false, x.2)

/-- Perform an atomic that returns a value, or find its tag in the window. -/
def amoAtHome (s : State) (r : Request) (f : Word → Option Word) : State :=
  match tagResult s r with
  | some v => setRequest s { r with resp := some v.1, poison := v.2 }
  | none =>
    let x := amoStep s r f
    setRequest (keepTag x.2.2 r x.1 x.2.1) { r with resp := some x.1, poison := x.2.1 }

/-- Perform a `red` with an operand; S falls. -/
def redAtHome (s : State) (r : Request) (op : AmoOp) (b : Word) : State :=
  let s1 :=
    if farKey s r.key then closeTag s r
    else
      match tagResult s r with
      | some _ => s
      | none =>
        let x := amoStep s r (fun old => some (amoApply op old b))
        keepTag x.2.2 r x.1 x.2.1
  lowerS (dropRequest s1 r.id) r

/-- The second of two `red` operations that a router has merged can go with the first (R155). -/
def mayMerge (s : State) (r q : Request) : Bool :=
  q.id != r.id && q.kind == r.kind && q.key == r.key && q.e == r.e && r.tag == 0 && q.tag == 0 &&
    mayPerform { s with flights := s.flights.filter (fun x => x.id != r.id) } q

/-- ATOMIC_AT_HOME (R170); two `red` operations that a router has merged are one step (R155). A tag window without room refuses a
new request for now (R413). -/
def execAtomicAtHome (s : State) : Host.Outcome State Fault Refusal :=
  match s.event with
  | .atomicAtHome req merge =>
    match getRequest s req with
    | none => .next s
    | some r =>
      if r.resp.isSome then .next s
      else
        match r.kind with
        | .amo op =>
          if farKey s r.key then .next s
          else .next (atHome s r (fun s r =>
            if tagRoom s r then amoAtHome s r (fun old => some (amoApply op old r.b)) else s))
        | .cas =>
          if farKey s r.key then .next s
          else .next (atHome s r (fun s r =>
            if tagRoom s r then amoAtHome s r (fun old => if old = r.e then some r.b else none) else s))
        | .red op =>
          match merge with
          | none => .next (atHome s r (fun s r => if tagRoom s r then redAtHome s r op r.b else s))
          | some req2 =>
            match getRequest s req2 with
            | some q =>
              if mayMerge s r q then
                .next (atHome s r (fun s r =>
                  lowerS (dropRequest (redAtHome (releaseShield s q) r op (amoApply op r.b q.b)) req2) q))
              else .next s
            | none => .next s
        | .load _ | .ldf | .lde | .fstat | .ldrd _ | .store | .stf | .ste | .stm | .bar | .delayed | .tileLoad _ _
        | .tileStore _ | .famPut _ _ _ | .famGive _ _ _ _ | .shared _ _ _ | .brk _ _ | .ksend _ _ _ _ | .rxa _ _ _ | .tenq _
        | .macc _ _ _ _ _ _ | .streamOut _ _ _ | .streamEnd _ _ _ | .engine _ => .next s
  | _ => .next s

/-- KSEND_BIN_STEP: one indivisible step at the target, for one send or for two that a router merged (R357, R358). -/
def execKsendBinStep (s : State) : Host.Outcome State Fault Refusal :=
  match s.event with
  | .ksendBinStep req merge =>
    match getRequest s req with
    | some r =>
      match r.kind with
      | .ksend table times level index =>
        if sendSealed s r level index || !mayPerform s r then .next s
        else
          match merge with
          | none => .next (lowerS (dropRequest (performSend s r table times level index r.b) req) r)
          | some req2 =>
            match getRequest s req2 with
            | some r2 =>
              if r2.id ≠ r.id ∧ r2.ctx = r.ctx ∧ r2.e = r.e ∧ r2.kind = .ksend table times level index ∧
                  mayPerform { s with flights := s.flights.filter (fun x => x.id != r.id) } r2 = true then
                let v := mergeValue s r table level index r.b r2.b
                let s1 := performSend s r table (2 * times) level index v
                .next (lowerS (dropRequest (lowerS (dropRequest s1 req) r) req2) r2)
              else .next s
            | none => .next s
      | _ => .next s
    | none => .next s
  | _ => .next s

/-! ### Barriers (R203, R321) -/

/-- A thread waiting at a `bar` continues. -/
def releaseBar (s : State) (r : Request) : State :=
  onThread (dropRequest s r.id) r.core r.slot r.uid (fun th =>
    if th.status.canIssue ∧ th.pc = r.pc then { th with pc := pcNext th.pc, status := .ready } else th)

/-- Release every `bar` waiting on a word with a generation. -/
def releaseAll (s : State) (k g : Nat) : State :=
  (s.flights.filter (fun q => q.kind == .bar && decide (0 < q.arrived) && q.key == k && q.e == word g)).foldl releaseBar s

/-- An arrival at a barrier word (R203). A gang's arrival waits for nothing (R321). -/
def barArrive (s : State) (r : Request) : State :=
  let w := word (peek s r.key 8)
  let g := bits w 63 56
  let t := bits w 55 32
  let n := bits w 31 0 + 1
  if t = 0 ∨ t ≤ n then
    let s1 := storeAt s r.key 8 ((g + 1) % 256 * 2 ^ 56 + t * 2 ^ 32) r.uid
    releaseBar (releaseAll s1 r.key g) r
  else
    let s1 := storeAt s r.key 8 (g * 2 ^ 56 + t * 2 ^ 32 + n) r.uid
    if r.uid = 0 then dropRequest s1 r.id else arriveAt s1 { r with e := word g }

/-- BAR_ARRIVAL_AT_HOME (R203); a word that holds an uncorrectable error takes no arrival until it is written. -/
def execBarArrivalAtHome (s : State) : Host.Outcome State Fault Refusal :=
  match s.event with
  | .barArrivalAtHome req =>
    match getRequest s req with
    | none => .next s
    | some r =>
      if r.kind == .bar && r.arrived == 0 && !isMarked s (hereKey s r.ctx r.key) then .next (atHome s r barArrive) else .next s
  | _ => .next s

/-! ### Words that are no instruction (R56, R89) -/

/-- ILLEGAL_INSTRUCTION: the word at the PC is no instruction (R56). -/
def execIllegalInstruction (s : State) : Host.Outcome State Fault Refusal :=
  match s.event with
  | .illegalInstruction w =>
    match fetchAt (getCore s s.core) (cur s).pc, decodeWord w with
    | .word x, .error _ => if x = w then runBody s (.error (.trap 0x01 0)) else .next s
    | _, _ => .next s
  | _ => .next s

/-- The image that an overlay of a context came from is quarantined (R276). -/
def quarantined (s : State) (ctx num : Nat) : Bool := match caddyFind s ctx num with | some o => o.bad | none => false

/-- A fetch in an invalid slot: 0x0D; where the object is quarantined, the member's family fails with 0x05 (R187). The model's choice
(log 126): the failure kills the member at once, and its trap writes no record, is delivered to no handler and posts no event. -/
def integrityFault (s : State) : Host.Outcome State Fault Refusal :=
  let th := cur s
  if th.status.canIssue ∧ th.kind = .member ∧ quarantined s th.ctx (th.pc.toNat / 2 ^ 16) = true then
    .next (endFamily s th.fam (.failed 5))
  else runBody s (.error (.trap 0x0D 0))

/-- OVERLAY_MISS: no slot holds the PC's overlay, or the one that does is invalid (R89). -/
def execOverlayMiss (s : State) : Host.Outcome State Fault Refusal :=
  match s.event with
  | .overlayMiss =>
    match fetchAt (getCore s s.core) (cur s).pc with
    | .miss => runBody s (.error (.trap 0x0C (pcWord (cur s).pc)))
    | .invalid => integrityFault s
    | .word _ | .wait => .next s
  | _ => .next s

end Sys2Proof.Machine
end

