-- ==== Sys2Proof/Machine/Members.lean ====
section
/-! DEFINITION. How members come to run and how values reach them: chunk claims, member starts, folds, shareds, globals, breaks,
and the wrap of the thread counter (R181, R189 to R193, R197, R200, R278). -/
namespace Sys2Proof.Machine

/-! ### Chunks (R189, R190) -/

/-- A core may run members of a family: it is of the family's place and launch, and not killed. -/
def inFamilyPlace (s : State) (f : Family) (c : Nat) : Bool :=
  let co := getCore s c
  !co.killed && !co.retired && co.launch == f.launch &&
    (coresOf s f.ctx f.home ⟨f.place, f.index, f.scope, f.lvl⟩).any (fun p => p.2 == c)

/-- The conditions of a claim (R190): the family runs unfolded and has members left, the core could grant a slot, and it
holds no chunk of the family whose members have not all started. -/
def mayClaim (s : State) (fam : Nat) (f : Family) (c : Nat) : Bool :=
  f.outcome == .running && !f.folded && decide (f.place ≠ 0 ∧ 0 < unclaimed f) && inFamilyPlace s f c &&
    f.chunks.all (fun k => !(k.core == c) || decide (k.size ≤ k.started)) &&
    couldGrant s c f.hdr (!holdsGlobals f c) fam

/-- A core that granted in the round, and can still claim, goes first. -/
def claimTurn (s : State) (fam : Nat) (f : Family) (c : Nat) : Bool :=
  f.granted.contains c || f.granted.all (fun x => !mayClaim s fam f x)

/-- The size of the next chunk in member order (R190). -/
def chunkSize (s : State) (f : Family) : Nat :=
  let rem := f.count - f.claimed
  let c := (coresOf s f.ctx f.home ⟨f.place, f.index, f.scope, f.lvl⟩).length
  let k := if c = 0 then rem else (rem + 2 * c - 1) / (2 * c)
  let k := if k < f.block then f.block else k
  let k := if k < 1 then 1 else k
  if rem < k then rem else k

/-- The chunk a claim receives: one that came back, whole, else the next in member order; with the family after it. -/
def nextChunk (s : State) (f : Family) : (Nat × Nat) × Family :=
  match f.back with
  | p :: r => (p, { f with back := r })
  | [] => ((f.claimed, chunkSize s f), { f with claimed := f.claimed + chunkSize s f })

/-- The shareds of the member before a chunk that its core holds reach the chunk's core: as register messages, or at once
where the cores are one (R181, R190, R191). -/
def sendCopies (s : State) (fam first core : Nat) : State :=
  match getFam s fam with
  | none => s
  | some f =>
    if first = 0 then s
    else
      (f.shareds.filter (fun p => p.1 / 64 == first - 1)).foldl (fun st p =>
        match chunkCore f (first - 1) with
        | some c2 =>
          if c2 = core then arriveShared st fam (first - 1) (p.1 % 64) p.2
          else sendRequest st
            { Request.zero with
              core := c2, ctx := f.ctx, kind := .shared fam (first - 1) (p.1 % 64), b := p.2.val, poison := p.2.poison
              indet := p.2.indet, va := p.2.indetAddr, pc := p.2.indetPc }
        | none => st) s

/-- A claim by a core: the chunk is its own, stamped with the order of its claims (R191). -/
def claimChunk (s : State) (fam c : Nat) (f : Family) : State :=
  let n := nextChunk s f
  let (stamp, s1) := fresh s
  let k : Chunk := ⟨c, n.1.1, n.1.2, 0, [], stamp⟩
  let f2 : Family := { n.2 with chunks := n.2.chunks ++ [k], granted := n.2.granted.filter (fun x => !(x == c)) }
  sendCopies { s1 with families := mapPut s1.families fam f2 } fam n.1.1 c

/-- CHUNK_CLAIM (R190). -/
def execChunkClaim (s : State) : Host.Outcome State Fault Refusal :=
  match s.event with
  | .chunkClaim c fam =>
    match getFam s fam with
    | some f => if mayClaim s fam f c && claimTurn s fam f c then .next (claimChunk s fam c f) else .next s
    | none => .next s
  | _ => .next s

/-! ### Member starts (R191) -/

/-- A chunk of a core that still has members to start; one of a pre-empted launch is no chunk of the core (R387). -/
def openChunk (s : State) (f : Family) (c : Nat) : Option Chunk :=
  if f.outcome = .running ∧ standsOn s f c = true then f.chunks.find? (fun k => k.core == c && decide (k.started < k.size)) else none

/-- The core claimed no other open chunk earlier (R191). -/
def firstClaim (s : State) (c : Nat) (k : Chunk) : Bool :=
  s.families.all (fun p => match openChunk s p.2 c with | some x => decide (k.stamp ≤ x.stamp) | none => true)

/-- One more member of a chunk has started. -/
def countStart (f : Family) (k : Chunk) : Family :=
  { f with chunks := f.chunks.map (fun x => if x.stamp = k.stamp then { x with started := x.started + 1 } else x) }

/-- MEMBER_START: the next member of the chunk, in the lowest free slot, once its resources are free (R191). -/
def execMemberStart (s : State) : Host.Outcome State Fault Refusal :=
  match s.event with
  | .memberStart c fam stack =>
    match getFam s fam with
    | some f =>
      match openChunk s f c, freeSlot s c with
      | some k, some t =>
        if !f.folded && firstClaim s c k && hasRoom s c f.hdr fam stack && !(getCore s c).killed then
          .next (onFam (startMember s c t fam (k.first + k.started) stack) fam (fun f => countStart f k))
        else .next s
      | _, _ => .next s
    | none => .next s
  | _ => .next s

/-! ### Folds (R192) -/

/-- The family folds for the thread that waits on it: unplaced, fold-capable, no chunk claimed. -/
def mayFold (th : Thread) (f : Family) : Bool :=
  stillFolds f && f.creator == th.uid

/-- No access of the thread is counted and no result is owed to its registers. -/
def quiet (th : Thread) : Bool := th.cntL == 0 && th.cntS == 0 && th.regs.all (fun p => !p.2.pend)

/-- FOLD (R192). -/
def execFold (s : State) : Host.Outcome State Fault Refusal :=
  match s.event with
  | .fold c t stack =>
    let th := getThread s c t
    match getFam s th.wantFold with
    | some f =>
      if th.wantFold ≠ 0 ∧ th.status = .waitFamily ∧ mayFold th f ∧ quiet th then .next (foldFamily s c t th.wantFold stack)
      else .next s
    | none => .next s
  | _ => .next s

/-! ### Values on their way (R181, R197, R200) -/

/-- An earlier message to the same register goes first (R181, R197). -/
def messageFirst (s : State) (r : Request) : Bool :=
  (s.flights.takeWhile (fun q => q.id != r.id)).all (fun q =>
    match q.kind, r.kind with
    | .shared f m n, .shared f2 m2 n2 => !(f == f2 && m == m2 && n == n2)
    | .famGive f n d cs, .famGive f2 n2 d2 cs2 => !(f == f2 && n == n2 && d == d2 && cs.any cs2.contains)
    | _, _ => true)

/-- The core a shared's message goes to is sealed (R408). -/
def sharedSealed (s : State) (fam k : Nat) : Bool :=
  match getFam s fam with
  | some f => match chunkCore f (k + 1) with | some c => (getCore s c).sealed | none => false
  | none => false

/-- SHARED_DELIVERY (R181). -/
def execSharedDelivery (s : State) : Host.Outcome State Fault Refusal :=
  match s.event with
  | .sharedDelivery id =>
    match getRequest s id with
    | some r =>
      match r.kind with
      | .shared fam k n =>
        if messageFirst s r && !sharedSealed s fam k then .next (arriveShared (dropRequest s id) fam k n (respReg r r.b)) else .next s
      | _ => .next s
    | none => .next s
  | _ => .next s

/-- The members a value goes to on a core: all of them for a global, member 0 for a dependent; one that has started since the home
sent it has this value or a later one from the home (R197). -/
def giveTo (f : Family) (c id : Nat) (dep : Bool) (th : Thread) : Bool :=
  chunkCore f th.member == some c && (!dep || th.member == 0) && decide (th.uid < id)

/-- A core receives a value (R197). -/
def takeGive (s : State) (r : Request) (fam n : Nat) (dep : Bool) (cores : List Nat) (c : Nat) : State :=
  let left := cores.filter (fun x => !(x == c))
  let s1 := if left.isEmpty then dropRequest s r.id else setRequest s { r with kind := .famGive fam n dep left }
  match getFam s1 fam with
  | some f => fillWindows s1 fam (giveTo f c r.id dep) (if dep then 1 + f.hdr.g + f.hdr.s + n else 1 + n) (fullReg r.b)
  | none => s1

/-- GLOBAL_DELIVERY (R197). -/
def execGlobalDelivery (s : State) : Host.Outcome State Fault Refusal :=
  match s.event with
  | .globalDelivery id c =>
    match getRequest s id with
    | some r =>
      match r.kind with
      | .famGive fam n dep cores =>
        if cores.contains c && messageFirst s r then .next (takeGive s r fam n dep cores c) else .next s
      | _ => .next s
    | none => .next s
  | _ => .next s

/-- BREAK_AT_HOME: the first break wins, later ones are discarded (R200). -/
def execBreakAtHome (s : State) : Host.Outcome State Fault Refusal :=
  match s.event with
  | .breakAtHome id =>
    match getRequest s id with
    | some r =>
      match r.kind with
      | .brk fam member => .next (endFamily (dropRequest s id) fam (.broke member r.b))
      | _ => .next s
    | none => .next s
  | _ => .next s

/-! ### The thread counter (R278) -/

/-- EPOCH_ADVANCE: the counter has reached 2^20. -/
def execEpochAdvance (s : State) : Host.Outcome State Fault Refusal :=
  match s.event with
  | .epochAdvance ctx =>
    match getCtx s ctx with
    | some x => if 2 ^ 20 ≤ x.threads then .next (onCtx s ctx advanceEpoch) else .next s
    | none => .next s
  | _ => .next s

end Sys2Proof.Machine
end

