-- ==== Sys2Proof/Machine/System.lean ====
section
/-! DEFINITION. System instructions and system registers (R381, R392 to R399, R435 to R445), and the hints (R57). -/
namespace Sys2Proof.Machine

/-! ### Traps (R393, R384) -/

/-- `trap`: held as R383 has it; the record PC is the instruction after it, and l2 its own (R382). -/
def execTrap (n : BitVec 6) (s : State) :=
  runBody s (do
    checkSpec s
    .ok (takeTrap s s.core s.slot 0x1C (n.zeroExtend 64) (pcNext (cur s).pc) (cur s).pc))

/-- `eret`: 0x06 outside slot 31 (R384). -/
def execEret (s : State) :=
  runBody s (do
    if isHandler s then .ok () else .error (.trap 0x06 0)
    leaveHandler s)

/-! ### System registers (R394, R435 to R445) -/

/-- The number is allocated. -/
def sysAllocated (n : Nat) : Bool :=
  decide (n ≤ 0x006 ∨ (0x010 ≤ n ∧ n ≤ 0x021) ∨ (0x030 ≤ n ∧ n ≤ 0x037) ∨ (0x100 ≤ n ∧ n ≤ 0x141) ∨ (0x180 ≤ n ∧ n ≤ 0x19F) ∨
    (0x1A0 ≤ n ∧ n ≤ 0x1A3))

/-- The number refers to the held thread. -/
def sysHeld (n : Nat) : Bool := decide (0x100 ≤ n)

/-- The checks of R381 and R435: an unallocated number, then the mode. -/
def checkSys (s : State) (n : Nat) : Except Stop Unit :=
  if !sysAllocated n then .error (.trap 0x01 0)
  else if isKernel s || (isHandler s && sysHeld n) then .ok ()
  else .error (.trap 0x06 0)

/-- The thread held by a core's current delivery. -/
def heldThread (s : State) (c : Nat) : Option (Delivery × Thread) :=
  match (getCore s c).current with
  | some d =>
    let th := getThread s c d.slot
    if th.uid = d.uid ∧ th.status ≠ .free then some (d, th) else none
  | none => none

/-- A bit for each window number. -/
def windowBits (f : Nat → Bool) : Word := word ((List.range 64).foldl (fun a i => if f i then a + 2 ^ i else a) 0)

/-- What the numbers of a held thread return. -/
def heldValue (d : Delivery) (th : Thread) (n : Nat) : Word :=
  if n < 0x140 then (getReg th (BitVec.ofNat 6 (n - 0x100))).val
  else if n = 0x140 then windowBits (fun i => (getReg th (BitVec.ofNat 6 i)).full)
  else if n = 0x141 then windowBits (fun i => (getReg th (BitVec.ofNat 6 i)).poison)
  else if n < 0x1A0 then mapGet 0 th.eng (n - 0x180)
  else if n = 0x1A0 then (if d.cause = 0x07 then d.guard0 else th.guard0)
  else if n = 0x1A1 then (if d.cause = 0x07 then d.guard1 else th.guard1)
  else 0

/-- BOOTSTAT (R436). -/
def bootStat (v : Device) : Word :=
  word (v.stage % 256 + v.reason % 256 * 2 ^ 8 + v.last % 256 * 2 ^ 16 + v.kslot % 4 * 2 ^ 24 + v.starts % 16 * 2 ^ 26 +
    v.htbase % 2 ^ 13 * 2 ^ 32)

/-- The site a selector names, as kind·8192 + index; none where there is none (R439). -/
def siteKey (kind index : Nat) : Option Nat :=
  let n := match kind with | 0 | 2 => 4 * 1088 | 1 => 1024 | 3 => 64 | 4 => 16 | 5 => 18 | _ => 0
  if index < n then some (kind * 8192 + index) else none

/-- A site's counters at rest. -/
def SiteCount.zero : SiteCount := ⟨0, false, 0, false, []⟩

/-- ERRCNT of a selector (R440). -/
def errCount (s : State) (sel : Word) : Word :=
  match siteKey (bits sel 15 13) (bits sel 12 0) with
  | some k =>
    let c := mapGet SiteCount.zero s.dev.sites k
    word (c.win % 8 + (if c.lasting then 8 else 0) + (if c.total < 65535 then c.total else 65535) * 2 ^ 16)
  | none => 0

/-- A port. -/
def getLink (s : State) (p : Nat) : Link := mapGet Link.init s.dev.links p

/-- LINKp (R441). -/
def linkWord (l : Link) : Word :=
  word (l.rung % 8 + (if l.up then 8 else 0) + (if l.margin < 255 then l.margin else 255) * 2 ^ 4 + l.low % 256 * 2 ^ 12 +
    (if l.retrains < 65535 then l.retrains else 65535) * 2 ^ 20)

/-- A context register (R442). -/
def ctxRegister (x : Context) (n : Nat) : Word :=
  match n with
  | 0x031 => x.cfg
  | 0x032 => x.troot
  | 0x033 => x.seedP
  | 0x034 => x.seedQ
  | 0x035 => x.coreTbl
  | 0x036 => x.routeTbl
  | _ => x.expTbl

/-- What `sysr` returns. -/
def sysValue (s : State) (n : Nat) : Word :=
  if sysHeld n then
    match heldThread s s.core with
    | some (d, th) => heldValue d th n
    | none => 0
  else if 0x010 ≤ n ∧ n ≤ 0x021 then linkWord (getLink s (n - 0x010))
  else
    match n with
    | 0x000 => bootStat s.dev
    | 0x001 => word (((List.range 4).map (fun k => s.dev.enabled.getD k 0 % 512 * 2 ^ (16 * k))).sum)
    | 0x002 => word (s.dev.mhz % 4096 + s.dev.limit % 4096 * 2 ^ 12)
    | 0x003 => s.dev.timebase
    | 0x004 => word s.dev.errwin
    | 0x005 => (cur s).errSel
    | 0x006 => errCount s (cur s).errSel
    | 0x030 => (cur s).ctxSel.zeroExtend 64
    | _ =>
      match getCtx s (cur s).ctxSel.toNat with
      | some x => ctxRegister x n
      | none => 0

/-- `sysr` (R394). -/
def execSysr (d : RegNo) (n : BitVec 12) (s : State) :=
  runBody s (do
    checkSys s n.toNat
    let r ← readForm s [] d
    checkSpec s
    .ok (retire (writeReg (setCur s r.2) d (sysValue s n.toNat))))

/-- Set the error window: every count returns to zero and new windows start (R438). -/
def setErrwin (s : State) (v : Word) : State :=
  let n := bits v 11 0
  if 1 ≤ n ∧ n ≤ 3600 ∧ bits v 63 12 = 0 then
    { s with dev := { s.dev with
        errwin := n, sites := s.dev.sites.map (fun p => (p.1, { p.2 with win := 0 })) } }
  else s

/-- Write a half of a context's seed: the epoch seed becomes the written seed and the thread counter 0 (R278). -/
def setSeed (s : State) (ctx : Nat) (half : Bool) (v : Word) : State :=
  onCtx s ctx (fun x =>
    let y := if half then { x with seedQ := v } else { x with seedP := v }
    { y with epochP := y.seedP, epochQ := y.seedQ, threads := 0 })

/-- A launch of the context runs. -/
def ctxRuns (s : State) (ctx : Nat) : Bool := s.launches.any (fun l => l.ctx == ctx && l.state == .running)

/-- The bits of a context register that a write changes. -/
def ctxMask (n : Nat) : Word :=
  match n with
  | 0x032 => 0x0000FFFFFFFF0000
  | 0x033 | 0x034 => BitVec.allOnes 64
  | _ => 0x0000FFFFFFFFFFC0

/-- Write a context register other than CTXCFG (R442, R444); a table base is kept while a launch of the context runs. -/
def setCtxRegister (s : State) (ctx n : Nat) (v : Word) : State :=
  let w := v &&& ctxMask n
  match n with
  | 0x032 => onCtx s ctx (fun x => { x with troot := w })
  | 0x033 => setSeed s ctx false v
  | 0x034 => setSeed s ctx true v
  | 0x035 => if ctxRuns s ctx then s else onCtx s ctx (fun x => { x with coreTbl := w })
  | 0x036 => if ctxRuns s ctx then s else onCtx s ctx (fun x => { x with routeTbl := w })
  | _ => if ctxRuns s ctx then s else onCtx s ctx (fun x => { x with expTbl := w })

/-- A write to a window register of the held thread: full, not poisoned; ignored for `z` and a number without a name
(R394). -/
def setHeldWindow (s : State) (c w : Nat) (v : Word) : State :=
  match heldThread s c with
  | some (d, th) =>
    if w = 0 ∨ windowSize th.hdr ≤ w then s
    else
      let s1 := putThread s c d.slot (setReg th (BitVec.ofNat 6 w) { fullReg v with pend := (getReg th (BitVec.ofNat 6 w)).pend })
      if isShared th.hdr w then sendShared s1 c d.slot th (w - 1 - th.hdr.g) (fullReg v) else s1
  | none => s

/-- A write to an engine register of the held thread acts as its `ewr` (R394). -/
def setHeldEngine (s : State) (c e : Nat) (v : Word) : State :=
  match heldThread s c with
  | some (d, th) => if engReserved e then s else putThread s c d.slot (writeEng th e v)
  | none => s

/-- A write to CTXCFG: it is offered to every core of the context, and completes once all have taken it (R444). -/
def writeCfg (s : State) (v : Word) : Except Stop State :=
  let th := cur s
  let ctx := th.ctxSel.toNat
  match getCtx s ctx with
  | none => .ok (retire (setCur s { th with cfgWait := false }))
  | some x =>
    if th.cfgWait then
      if x.pendCfg.isNone then .ok (retire (setCur s { th with cfgWait := false })) else .error (.wait .waitHome)
    else if x.pendCfg.isSome then .error (.wait .waitHome)
    else
      .ok (setCur (onCtx s ctx (fun y => { y with pendCfg := some ((y.cfg &&& ~~~(0x1FF : Word)) ||| (v &&& 0x1FF)) }))
        { th with cfgWait := true, status := .ready })

/-- What `sysw` does with an allocated number; a read-only register ignores the write. -/
def sysWrite (s : State) (n : Nat) (v : Word) : Except Stop State :=
  let th := cur s
  if n = 0x031 then writeCfg s v
  else if 0x100 ≤ n ∧ n < 0x140 then .ok (retire (setHeldWindow s s.core (n - 0x100) v))
  else if 0x180 ≤ n ∧ n < 0x1A0 then .ok (retire (setHeldEngine s s.core (n - 0x180) v))
  else if 0x032 ≤ n ∧ n ≤ 0x037 then .ok (retire (setCtxRegister s th.ctxSel.toNat n v))
  else
    match n with
    | 0x004 => .ok (retire (setErrwin s v))
    | 0x005 => .ok (retire (setCur s { th with errSel := v &&& 0xFFFF }))
    | 0x030 => .ok (retire (setCur s { th with ctxSel := v.setWidth 9 }))
    | _ => .ok (retire s)

/-- `sysw` (R394). -/
def syswForm (a : RegNo) (n : BitVec 12) (s : State) : Except Stop State := do
  checkSys s n.toNat
  let r ← readOnlyForm s [a]
  checkSpec s
  sysWrite (setCur s r.2) n.toNat (on1 id r.1)

/-- `sysw` (R394). -/
def execSysw (a : RegNo) (n : BitVec 12) (s : State) := runBody s (syswForm a n s)

/-! ### The same writes as steps of their own -/

/-- The thread's next instruction is this `sysw`, and its register holds the value. -/
def aboutToWrite (s : State) (c t : Nat) (n : Nat) (v : Word) : Option RegNo :=
  let th := getThread s c t
  let co := getCore s c
  if th.status.canIssue && !co.killed && !co.halted && th.pending.isNone then
    match fetchAt co th.pc with
    | .word w =>
      match decodeWord w with
      | .ok (.sysw a m) => if m.toNat = n ∧ (getReg th a).full = true ∧ (getReg th a).val = v then some a else none
      | _ => none
    | .wait | .invalid | .miss => none
  else none

/-- Run the `sysw` of the first of some threads that is about to write this value. -/
def runSysw (s : State) (ths : List (Nat × Nat)) (n : Nat) (v : Word) : Host.Outcome State Fault Refusal :=
  match ths.find? (fun p => (aboutToWrite s p.1 p.2 n v).isSome) with
  | some (c, t) =>
    let s1 := { s with core := c, slot := t }
    match aboutToWrite s c t n v with
    | some a => runBody s1 (syswForm a (BitVec.ofNat 12 n) s1)
    | none => .next s
  | none => .next s

/-- The slots of the control cores. -/
def kernelSlots : List (Nat × Nat) := (List.range 512).map (fun i => (1088 + i / 32, i % 32))

/-- ERRWIN_WRITE (R438). -/
def execErrwinWrite (s : State) : Host.Outcome State Fault Refusal :=
  match s.event with
  | .errwinWrite v => runSysw s kernelSlots 0x004 v
  | _ => .next s

/-- SEED_WRITE (R278, R444). -/
def execSeedWrite (s : State) : Host.Outcome State Fault Refusal :=
  match s.event with
  | .seedWrite ctx half v =>
    runSysw s (kernelSlots.filter (fun p => (getThread s p.1 p.2).ctxSel.toNat == ctx)) (0x033 + half.toNat) v
  | _ => .next s

/-- HELD_WINDOW_WRITE (R394). -/
def execHeldWindowWrite (s : State) : Host.Outcome State Fault Refusal :=
  match s.event with
  | .heldWindowWrite c w v => runSysw s [(c, 31)] (0x100 + w.toNat) v
  | _ => .next s

/-- HELD_ENGINE_WRITE (R394). -/
def execHeldEngineWrite (s : State) : Host.Outcome State Fault Refusal :=
  match s.event with
  | .heldEngineWrite c e v => runSysw s [(c, 31)] (0x180 + e.toNat) v
  | _ => .next s

/-- The cores that still have to take a CTXCFG value: those of the context's running launches and of its threads. -/
def cfgOwed (s : State) (ctx : Nat) (v : Word) : List Nat :=
  (((s.launches.filter (fun l => l.ctx == ctx && l.state == .running)).flatMap (·.cores)) ++
    ((liveThreads s).filterMap (fun p => if p.2.2.ctx = ctx then some p.1 else none))).eraseDups.filter
      (fun c => coreCfg s c ctx != v)

/-- CTXCFG_WRITE: a core takes the new value, or all have it and the write completes (R444). -/
def execCtxcfgWrite (s : State) : Host.Outcome State Fault Refusal :=
  match s.event with
  | .ctxcfgWrite ctx core =>
    match getCtx s ctx with
    | some x =>
      match x.pendCfg, core with
      | some v, some c =>
        if (cfgOwed s ctx v).contains c then
          let co := getCore s c
          .next (putCore s c { co with cfg := mapPut co.cfg ctx v })
        else .next s
      | some v, none =>
        if (cfgOwed s ctx v).isEmpty then
          let s1 := { s with cores := s.cores.map (fun p => (p.1, { p.2 with cfg := mapDel p.2.cfg ctx })) }
          .next (onCtx s1 ctx (fun y => { y with cfg := v, pendCfg := none }))
        else .next s
      | none, _ => .next s
    | none => .next s
  | _ => .next s

/-! ### Translation, contexts, seals and capabilities (R395 to R397) -/

/-- `tlbi` (R395). -/
def execTlbi (a b : RegNo) (s : State) :=
  runBody s (do
    needKernel s
    let r ← readOnlyForm s [a, b]
    match r.1 with
    | [x, y] => .ok (retire (tlbInvalidate (setCur s r.2) (bits y 10 9) (bits y 8 0) x.toNat))
    | _ => .ok (retire s))

/-- `halt`: the control core issues nothing more (R398). -/
def execHalt (s : State) :=
  runBody s (do
    needKernel s
    .ok (putCore (retire s) s.core { getCore s s.core with halted := true }))

/-- `ctxs`: the context's running launches are stopped, and the thread waits for their images (R396). -/
def execCtxs (a : RegNo) (s : State) :=
  runBody s (do
    needKernel s
    let r ← readOnlyForm s [a]
    let ctx := bits (on1 id r.1) 8 0
    if ctxRuns s ctx then
      if s.launches.all (fun l => !(l.ctx == ctx && l.state == .running) || l.preempt) then .error (.wait .waitFamily) else .ok ()
      let s1 := { s with launches := s.launches.map (fun l =>
        if l.ctx = ctx ∧ l.state = .running then { l with preempt := true } else l) }
      .ok (setCur s1 { cur s1 with status := .ready })
    else .ok (retire (setCur s r.2)))

/-- Restore every pre-empted launch of a context in FIFO order; the statuses of R396. -/
def restoreAll (ids : List Nat) (s : State) : State × List Nat :=
  ids.foldl (fun (acc : State × List Nat) id =>
    match getLaunch acc.1 id with
    | some l =>
      match restoreLaunch acc.1 l with
      | .resumed s1 bad => (s1, acc.2 ++ [if bad then 2 else 0])
      | .damaged s1 => (s1, acc.2 ++ [1])
      | .malformed => (acc.1, acc.2 ++ [3])
      | .busy => (acc.1, acc.2 ++ [4])
    | none => acc) (s, [])

/-- `ctxr`: d is the first status that is not 0, in the order 1, 3, 4, 2 (R396). -/
def execCtxr (d a : RegNo) (s : State) :=
  runBody s (do
    needKernel s
    let r ← readForm s [a] d
    let ctx := bits (on1 id r.1) 8 0
    let ids := (s.launches.filter (fun l => l.ctx == ctx && l.state == .preempted)).map (·.id)
    let q := restoreAll ids (setCur s r.2)
    let st := ([1, 3, 4, 2].find? (fun x => q.2.contains x)).getD 0
    .ok (retire (writeReg q.1 d (word st))))

/-- The physical core an operand names; 1,088 and above raise 0x06 (R392). -/
def checkCore (n : Nat) : Except Stop Unit := if 1088 ≤ n then .error (.trap 0x06 0) else .ok ()

/-- `seal` (R397); a killed core stays sealed (R408). -/
def execSeal (a : RegNo) (s : State) :=
  runBody s (do
    needKernel s
    let r ← readOnlyForm s [a]
    let v := on1 id r.1
    let c := bits v 10 0
    checkCore c
    let s1 := setCur s r.2
    .ok (retire (putCore s1 c { getCore s1 c with sealed := !v.getLsbD 63 || (getCore s1 c).killed })))

/-- The bits a capability table entry holds (R318). -/
def capMask : Word := 0x80000007FFFFFFFF

/-- `capw` (R397). -/
def execCapw (a b : RegNo) (s : State) :=
  runBody s (do
    needKernel s
    let r ← readOnlyForm s [a, b]
    match r.1 with
    | [x, y] =>
      let c := bits x 14 4
      checkCore c
      let s1 := setCur s r.2
      let co := getCore s1 c
      .ok (retire (putCore s1 c { co with caps := mapSet 0 co.caps (bits x 3 0) (y &&& capMask) }))
    | _ => .ok (retire s))

/-- `capr` (R397). -/
def execCapr (d a : RegNo) (s : State) :=
  runBody s (do
    needKernel s
    let r ← readForm s [a] d
    let x := on1 id r.1
    let c := bits x 14 4
    checkCore c
    .ok (retire (writeReg (setCur s r.2) d (mapGet 0 (getCore s c).caps (bits x 3 0)))))

/-! ### Time, idling and overlays (R398, R399) -/

/-- `tbr` (R398). -/
def execTbr (d : RegNo) (s : State) :=
  runBody s (do
    let r ← readForm s [] d
    checkSpec s
    .ok (retire (writeReg (setCur s r.2) d s.dev.timebase)))

/-- `idle`: until the control core's event queue holds something (R398). -/
def execIdle (s : State) :=
  runBody s (do
    needKernel s
    if (getCore s s.core).events.isEmpty then .error (.wait .waitHome) else .ok (retire s))

/-- `ovli` on one slot of instruction memory (R399). -/
def dropOverlay (ctx num : Nat) (im : ImemSlot) : ImemSlot :=
  if im.overlay = num ∧ im.ctx = ctx then
    match im.state with
    | .valid | .invalid => { ImemSlot.init with fetched := im.fetched }
    | .loading => { im with drop := true }
    | .empty => im
  else im

/-- `ovli`: a handler names an overlay of its own context, the kernel one of any (R381, R399). -/
def execOvli (a : RegNo) (s : State) :=
  runBody s (do
    if isHandler s || isKernel s then .ok () else .error (.trap 0x06 0)
    let r ← readOnlyForm s [a]
    let v := on1 id r.1
    let ctx := if isKernel s then bits v 24 16 else r.2.ctx
    let f := dropOverlay ctx (bits v 15 0)
    let s1 := setCur s r.2
    .ok (retire { s1 with cores := s1.cores.map (fun p => (p.1, { p.2 with im0 := f p.2.im0, im1 := f p.2.im1 })) }))

/-! ### Hints (R57) -/

/-- `nop`. -/
def execNop (_x : BitVec 26) (s : State) := runBody s (.ok (retire s))

/-- The slot of instruction memory an `ovlh` loads into: none while it has no effect. -/
def hintSlot (s : State) (c ctx num : Nat) : Option Nat :=
  let co := getCore s c
  let has := fun (im : ImemSlot) => imemMatches im num && (im.state == .valid || im.state == .loading)
  let open_ := fun (im : ImemSlot) => im.state == .empty || im.state == .invalid
  match caddyFind s ctx num with
  | none => none
  | some o =>
    if o.bad || has co.im0 || has co.im1 then none
    else if open_ co.im0 then some 0
    else if open_ co.im1 then some 1
    else none

/-- `ovlh`; a word with other bits set is a no-op. -/
def execOvlh (x : BitVec 26) (s : State) :=
  runBody s (
    let num := x.toNat % 2 ^ 16
    match hintSlot s s.core (cur s).ctx num with
    | some b =>
      if x.toNat / 2 ^ 16 = 0 then .ok (retire (startLoad s s.core (cur s).ctx num b 0 0 none)) else .ok (retire s)
    | none => .ok (retire s))

/-- Majors 0x3A and 0x3B: an `s` or `l` register becomes zero and full, once an earlier result for it has been written (R127);
any other name is left alone. A register that is bound to a stream port is set like any other: nothing is appended and nothing
raised (log 100). -/
def execHintDest (_hi : BitVec 1) (d : RegNo) (_x : BitVec 20) (s : State) :=
  runBody s (do
    let th := cur s
    if isLocal th.hdr d.toNat || isShared th.hdr d.toNat then
      dstReady s th d
      let s1 := setCur s (setReg th d (fullReg 0))
      .ok (retire (if isShared th.hdr d.toNat then sendShared s1 s.core s.slot th (d.toNat - 1 - th.hdr.g) (fullReg 0) else s1))
    else .ok (retire s))

end Sys2Proof.Machine
end

