-- ==== Sys2Proof/Machine/Reliab.lean ====
section
/-! DEFINITION. Containment (R400 to R413): checkers, reporting sites, error marks, the kill of a core, sealed mailboxes, parked
requests, and the retries of tagged requests. -/
namespace Sys2Proof.Machine

/-! ### Reporting sites (R401, R402, R438 to R440) -/

/-- A site's key, none where there is no such site. -/
def Site.key (x : Site) : Option Nat := siteKey x.kind.toNat x.index.toNat

/-- One more event at a site; the fourth in a window makes its fault lasting (R401). -/
def countSite (s : State) (key : Nat) : State :=
  let c := mapGet SiteCount.zero s.dev.sites key
  let c1 : SiteCount :=
    ⟨if c.win < 3 then c.win + 1 else 3, c.lasting || decide (3 ≤ c.win), if c.total < 65535 then c.total + 1 else 65535, c.acted, c.pages⟩
  { s with dev := { s.dev with sites := mapPut s.dev.sites key c1 } }

/-- ERROR_WINDOW_EXPIRY (R401). -/
def execErrorWindowExpiry (s : State) : Host.Outcome State Fault Refusal :=
  match s.event with
  | .errorWindowExpiry x =>
    match x.key with
    | some k =>
      let c := mapGet SiteCount.zero s.dev.sites k
      .next { s with dev := { s.dev with sites := mapPut s.dev.sites k { c with win := 0 } } }
    | none => .next s
  | _ => .next s

/-! ### The kill of a core (R205, R406 to R410) -/

/-- The core holds this chunk: a member has not ended, or it keeps copies of shareds for a successor chunk that has not sent its
own on (R190). -/
def heldChunk (f : Family) (k : Chunk) : Bool :=
  decide (k.ended.length < k.size) ||
    (decide (0 < f.hdr.s ∧ k.first + k.size < f.count) &&
      !f.chunks.any (fun x => decide (x.first = k.first + k.size ∧ x.ended.length = x.size)))

/-- The chunks of a running family that a core holds. -/
def heldBy (s : State) (f : Family) (c : Nat) : List Chunk :=
  if f.outcome = .running ∧ standsOn s f c = true then f.chunks.filter (fun k => k.core == c && heldChunk f k) else []

/-- A member is in one of some chunks. -/
def inChunks (ks : List Chunk) (m : Nat) : Bool := ks.any (fun k => decide (k.first ≤ m ∧ m < k.first + k.size))

/-- Chunks return to the home whole: their members run again, and the values that stood on the core are lost (R205). -/
def returnChunks (ks : List Chunk) (f : Family) : Family :=
  let back := ks.map (fun k => (k.first, k.size))
  let kept := f.chunks.filter (fun x => !ks.any (fun k => k.stamp == x.stamp))
  let lost := f.chunks.filter (fun x => ks.any (fun k => k.stamp == x.stamp))
  { f with chunks := kept
           back := f.back ++ back
           again := f.again ++ back
           ended := f.ended - (lost.map (fun x => x.ended.length)).sum
           arrived := f.arrived.filter (fun p => !inChunks ks (p.1 / 64 + 1))
           shareds := f.shareds.filter (fun p => !inChunks ks (p.1 / 64)) }

/-- Messages to dependents on a killed core are discarded (R408). -/
def dropShareds (s : State) (fam : Nat) (ks : List Chunk) : State :=
  { s with flights := s.flights.filter (fun r =>
      match r.kind with
      | .shared f m _ => !(f == fam && inChunks ks (m + 1))
      | _ => true) }

/-- The root family runs again from its start, at the lowest core that is left (R409). -/
def restartRoot (s : State) (fam : Nat) (f : Family) : State :=
  let s := killThreads s (memberUids s fam)
  let cs := (coresOf s f.ctx f.home ⟨f.place, f.index, f.scope, f.lvl⟩).map (·.2)
  let granted := cs.filter (fun c => couldGrant s c f.hdr true fam)
  let s := { s with flights := s.flights.filter (fun r =>
    match r.kind with
    | .shared x _ _ | .brk x _ => !(x == fam)
    | _ => true) }
  onFam s fam (fun f =>
    { f with home := cs.headD 0, claimed := 0, chunks := [], back := [], again := [], granted := granted, placed := !granted.isEmpty
             shareds := [], arrived := [], ended := 0 })

/-- What becomes of a family when a core is killed, once the core's own threads are gone (R205, R409). `ks` are the chunks the
core held. A family of a pre-empted launch had nothing there. -/
def killedFamily (s : State) (c fam : Nat) (ks : List Chunk) : State :=
  match getFam s fam with
  | none => s
  | some f =>
    if f.outcome ≠ .running ∨ standsOn s f c = false then s
    else if f.home = c then
      if f.creator ≠ 0 then endFamily s fam (.failed 0)
      else if f.hdr.restartable then restartRoot s fam f
      else endFamily s fam (.failed 4)
    else if ks.isEmpty then s
    else if f.hdr.restartable then dropShareds (onFam s fam (returnChunks ks)) fam ks
    else endFamily s fam (.failed 4)

/-- A task on a killed core (R409). -/
def killedTask (s : State) (x : Task) : State :=
  if x.spec then abortTask s x.id
  else if x.exited then s
  else if x.hdr.restartable then onTask s x.id (fun y => { y with core := none })
  else postEvent (onTask s x.id (fun y => { y with exited := true })) ⟨0x84, x.ctx, 0, 0, [x.addr.toNat]⟩

/-- A matrix command that another core had sent to a killed one: `mrc` receives poison, a gang's member stops with 0x15 (R319,
R321, R408). -/
def killedCmd (s : State) (c : Nat) (k : MatCmd) : State :=
  if k.op = .mrc then lowerCmd (answerMrc s k poisonReg) k
  else stopCmd s c k 0x15 0 (mapGet 0 (threadOf s k.core k.slot k.uid).eng 20)

/-- The threads that stand on a core, those spilled beneath a fold included. -/
def coreUids (s : State) (c : Nat) : List Nat :=
  (coreThreads s c).flatMap (fun p =>
    p.2.uid :: p.2.frames.filterMap (fun fr => (mapFind s.spilled fr).map (·.uid)))

/-- The core after its kill: sealed, with nothing on it; what it held in its scratchpad can no longer be read. -/
def killedCore (co : Core) : Core :=
  { co with killed := true, sealed := true, mq := [], drains := [], copies := [], mons := [], bins := [], queue := [], current := none
            im0 := .init, im1 := .init, poolBy := 0, rowPend := 0 }

/-- What is in flight when a core is killed: what had not left it is discarded, and a result that it formed for another core and has
not sent is poisoned (R407, R410). -/
def killedFlights (s : State) (c : Nat) : List Request :=
  (s.flights.filter (fun r => !(r.core == c && (match r.kind with | .delayed | .macc _ _ _ _ _ _ | .engine _ => true | _ => false)))).map
    (fun r => if r.resp.isSome ∧ r.core ≠ c ∧ (requestRanges s r).any (fun p => keyCore p.1 == some c) = true then { r with poison := true }
      else r)

/-- The edge runs of a killed core: one that has not started is discarded with the commands that have not left the core (R407); one
that has stops with 0x15, as at a handler thread of it (R409; the model's choice, log 125). -/
def killedRuns (s : State) (c : Nat) : State :=
  let begun := s.runs.filter (fun r => r.core == c && r.started)
  begun.foldl (fun st r => failRun st r.id 0x15 0) { s with runs := s.runs.filter (fun r => !(r.core == c && !r.started)) }

/-- Kill a core (R407, R409). A gang's member that the core had accepted stops, that of a thread of the core too, so that the gang ends (R321). -/
def killCore (s : State) (c : Nat) : State :=
  let co := getCore s c
  if co.killed then s
  else
    let ks := s.families.map (fun p => (p.1, heldBy s p.2 c))
    let handlers := (coreThreads s c).filter (fun p => p.2.kind == .edgeHandler)
    let s := killedRuns (handlers.foldl (fun st p => failRun st p.2.work 0x15 0) s) c
    let mine := tasksOn s c
    let s := mine.foldl killedTask s
    let s := killThreads s (coreUids s c)
    let s := (co.mq ++ co.drains).foldl (fun st k =>
      if k.core = c then (if k.gang = 0 then st else lowerCmd (noteStop st k 0x15 0 0) k)
      else if issuerAway st k then { st with mesh := st.mesh ++ [(c, k)] } else killedCmd st c k) s
    let s := putCore s c (killedCore (getCore s c))
    let s := { s with
      flights := killedFlights s c
      tags := mapDel s.tags (4096 + c) }
    ks.foldl (fun st p => killedFamily st c p.1 p.2) s

/-- CORE_KILL: the device kernel kills a core (R406). -/
def execCoreKill (s : State) : Host.Outcome State Fault Refusal :=
  match s.event with
  | .coreKill c => if c < 1088 then .next (killCore s c) else .next s
  | _ => .next s

/-- The core holds threads or commands, an edge run among them. -/
def coreBusy (s : State) (c : Nat) : Bool :=
  let co := getCore s c
  !(coreThreads s c).isEmpty || !co.mq.isEmpty || !co.drains.isEmpty || !co.copies.isEmpty || s.runs.any (fun r => r.core == c)

/-- Retire a core: it leaves every place, and is killed at once if it holds anything (R402). -/
def retireCore (s : State) (c : Nat) : State :=
  let s1 := putCore s c { getCore s c with retired := true }
  let die := c / 272
  let left := ((List.range 272).filter (fun i => !(getCore s1 (die * 272 + i)).retired)).length
  let on := if left < 256 then left else 256
  let s2 := { s1 with dev := { s1.dev with enabled := s1.dev.enabled.set die on } }
  if coreBusy s2 c then killCore s2 c else s2

/-- The device kernel is told of the pages of a module memory device that took errors, to retire them (R402). -/
def reportPages (s : State) (ps : List Nat) : State := ps.foldl (fun st p => tellKernel st 4 p) s

/-- LASTING_FAULT: a site whose fault has become lasting is acted on, once (R402). -/
def execLastingFault (s : State) : Host.Outcome State Fault Refusal :=
  match s.event with
  | .lastingFault x =>
    match x.key with
    | none => .next s
    | some k =>
      let n := mapGet SiteCount.zero s.dev.sites k
      if n.lasting && !n.acted then
        let site := x.kind.toNat * 2 ^ 13 + x.index.toNat
        let s1 := { s with dev := { s.dev with
          sites := mapPut s.dev.sites k { n with acted := true }, errLog := s.dev.errLog ++ [⟨0x85, site, n.total⟩] } }
        let s2 := tellKernel (postEvent s1 ⟨0x85, 0xFFFF, 0, 0, [site, n.total]⟩) 2 site
        .next (if x.kind = 0 then retireCore s2 (x.index.toNat / 4) else reportPages s2 n.pages)
      else .next s
  | _ => .next s

/-! ### Checkers (R400) -/

/-- The core and the word of a keyed send, as its target holds the table now. -/
def sendPlace (s : State) (r : Request) (table level index : Nat) : Option (Nat × Nat) :=
  match sendTarget s r level index, sendRange s r table level index with
  | some (c, _), (k, _) :: _ => some (c, k)
  | _, _ => none

/-- An arithmetic step of an urn bank or a receive-and-accumulate unit failed twice: its word keeps its value and is marked; the
requester goes on (R400). -/
def bankFailed (s : State) (r : Request) : State :=
  let k := hereKey s r.ctx r.key
  match r.kind with
  | .amo _ | .cas => setRequest (keepTag (setMark s k) { r with key := k } 0 true) { r with resp := some 0, poison := true }
  | .red _ => lowerS (dropRequest (keepTag (setMark s k) { r with key := k } 0 true) r.id) r
  | .bar => setMark s k
  | .ksend table _ level index =>
    match sendPlace s r table level index with
    | some (_, j) => lowerS (dropRequest (setMark s j) r.id) r
    | none => s
  | .load _ | .ldf | .lde | .fstat | .ldrd _ | .store | .stf | .ste | .stm | .delayed | .tileLoad _ _ | .tileStore _
  | .famPut _ _ _ | .famGive _ _ _ _ | .shared _ _ _ | .brk _ _ | .rxa _ _ _ | .tenq _ | .macc _ _ _ _ _ _ | .streamOut _ _ _
  | .streamEnd _ _ _ | .engine _ => s

/-- The request is carried out by such a unit, and is at its turn: its home neither parks it, nor refuses it, nor answers it from its
window (R412, R413); the host performs its own atomics (R170). -/
def bankDue (s : State) (r : Request) : Bool :=
  let q := { r with key := hereKey s r.ctx r.key }
  match r.kind with
  | .amo _ | .cas | .red _ =>
    mayPerform s r && !meetsFault s r && r.resp.isNone && !farKey s r.key && !keyIsHost q.key && tagRoom s q && (tagResult s q).isNone
  | .bar => mayPerform s r && !meetsFault s r && r.arrived == 0
  | .ksend table _ level index => mayPerform s r && (sendPlace s r table level index).isSome && !sendSealed s r level index
  | .load _ | .ldf | .lde | .fstat | .ldrd _ | .store | .stf | .ste | .stm | .delayed | .tileLoad _ _ | .tileStore _
  | .famPut _ _ _ | .famGive _ _ _ _ | .shared _ _ _ | .brk _ _ | .rxa _ _ _ | .tenq _ | .macc _ _ _ _ _ _ | .streamOut _ _ _
  | .streamEnd _ _ _ | .engine _ => false

/-- The reporting site of a memory word or line (R401, R439, log 102): its scratchpad's array, its urn bank, its GDDR 7 device or its
LPDDR 6 package. -/
def memorySite (k : Nat) : Option Nat :=
  match keyCore k with
  | some c => siteKey 2 (4 * c)
  | none =>
    match physWin k with
    | some .urn => siteKey 1 (homeOf k)
    | some .gddr => siteKey 3 (homeOf k - 1024)
    | some .lpddr => siteKey 4 ((homeOf k - 1088) / 2)
    | _ => none

/-- The site that counts a mismatch of the unit that carries a request out: the urn bank, or the engines group of the core whose
receive-and-accumulate unit it is (log 102). -/
def bankSite (s : State) (r : Request) : Option Nat :=
  match r.kind with
  | .ksend table _ level index => (sendPlace s r table level index).bind (fun p => siteKey 0 (4 * p.1 + 3))
  | _ => let k := hereKey s r.ctx r.key
         if physWin k = some .urn then memorySite k else none

/-- A hardware combine of a run that is at its turn: its core and the word of acc. -/
def combinePlace (s : State) (r : EdgeRun) (w : EdgeWork) : Option (Nat × Nat) :=
  match w.item with
  | .combine d _ =>
    if r.started && r.fail.isNone && w.uid == 0 && !r.desc.hcomb && received s r d then
      match routeVertex s r d, accKey s r d with
      | some (c, _), some k => some (c, k)
      | _, _ => none
    else none
  | .scatter _ _ _ | .apply _ | .scan _ _ => none

/-- Count at a site, where there is one. -/
def countAt (s : State) (k : Option Nat) : State := match k with | some x => countSite s x | none => s

/-- CHECKER_MISMATCH (R400). -/
def execCheckerMismatch (s : State) : Host.Outcome State Fault Refusal :=
  match s.event with
  | .checkerMismatch (.pipe c t) =>
    let th := getThread s c t
    if c < 1088 ∧ th.status.canIssue = true then
      let s1 := countSite s (4 * c + (if nextIsEngine s c t then 1 else 0))
      .next (takeTrap s1 c t 0x0B 0 th.pc th.pc)
    else .next s
  | .checkerMismatch (.matrix c) =>
    match (getCore s c).mq with
    | k :: _ =>
      if k.hasRows && !issuerAway s k then .next (stopCmd (countSite s (4 * c + 2)) c k 0x0B 0 (mapGet 0 (threadOf s k.core k.slot k.uid).eng 20))
      else .next s
    | [] => .next s
  | .checkerMismatch (.copy c t e) =>
    match firstCopy s c t with
    | some k =>
      if copyDue k e then .next (stopCopy (countSite s (4 * c + 3)) c t k 1 0x0B (mapGet 0 (getThread s c t).eng 20)) else .next s
    | none => .next s
  | .checkerMismatch (.stream id) =>
    match getRequest s id with
    | some r =>
      match r.kind with
      | .streamOut port _ pos =>
        .next (streamStop (countSite s (4 * r.core + 3)) port r pos 0x0B (mapGet 0 (threadOf s r.core r.slot r.uid).eng 20))
      | _ => .next s
    | none => .next s
  | .checkerMismatch (.edge id) =>
    match getRun s id with
    | some r => if r.started then .next (failRun (countSite s (4 * r.core + 3)) id 0x0B 0) else .next s
    | none => .next s
  | .checkerMismatch (.bank id again) =>
    match getRequest s id with
    | some r =>
      if bankDue s r then
        let s1 := countAt s (bankSite s r)
        .next (if again then bankFailed s1 r else s1)
      else .next s
    | none => .next s
  | .checkerMismatch (.combine id item again) =>
    match getRun s id with
    | some r =>
      match r.work.find? (fun w => w.id == item) with
      | some w =>
        match combinePlace s r w with
        | some (c, k) =>
          let s1 := countAt s (siteKey 0 (4 * c + 3))
          .next (if again then itemDone (setMark s1 k) id w else s1)
        | none => .next s
      | none => .next s
    | none => .next s
  | .checkerMismatch (.control cc again) =>
    if cc < 16 ∧ again = true then
      .next (tellKernel (putCore s (1088 + cc) { getCore s (1088 + cc) with halted := true }) 3 cc)
    else .next s
  | .checkerMismatch (.logic c) => if c < 1088 then .next (killCore s c) else .next s
  | _ => .next s

/-! ### Errors in storage (R403 to R406) -/

/-- Reload the overlay of an instruction memory slot whose fetch met an uncorrectable error (R404). -/
def reloadSlot (s : State) (c b : Nat) : State :=
  let im := imemSlot (getCore s c) b
  if im.state = .valid then startLoad s c im.ctx im.overlay b 0 0 none else s

/-- The row holds an error: so does the last kept copy of it, which is the row itself until it is drained (R312, R405). -/
def markRow (co : Core) (tile row : Nat) : Core :=
  let has := fun (k : MatCmd) => k.acc == tile && k.kept.getLsbD row
  let last := ((co.drains ++ co.mq).reverse.find? has).map (·.id)
  let f := fun (k : MatCmd) => if some k.id = last then { k with bad := k.bad ||| ((1 : BitVec 32) <<< row) } else k
  { co with rowPoison := co.rowPoison ||| rowBit tile row, mq := co.mq.map f, drains := co.drains.map f }

/-- What an error does besides being counted. -/
def errorEffect (s : State) (what : ErrorKind) : State :=
  match what with
  | .correctable _ => s
  | .memory k => setMark s k
  | .imem c b => reloadSlot s c b
  | .register c t w =>
    let th := getThread s c t
    if th.status = .free ∨ w = 0 ∨ (getReg th w).full = false then s
    else putThread s c t (setReg th w { getReg th w with poison := true })
  | .tile c t x =>
    let th := getThread s c t
    if th.status = .free then s else putThread s c t { th with tilePoison := th.tilePoison ||| ((1 : BitVec 16) <<< x.toNat) }
  | .accRow c tile row => putCore s c (markRow (getCore s c) tile.toNat row.toNat)
  | .control c => if c < 1088 then killCore s c else s

/-- The event can arise at the site (R401, R439, log 102). -/
def errorAt (key : Nat) (what : ErrorKind) : Bool :=
  match what with
  | .correctable none => key / 8192 == 2 || key / 8192 == 5
  | .correctable (some k) | .memory k => memorySite k == some key
  | .imem c _ | .control c | .accRow c _ _ => siteKey 2 (4 * c + 3) == some key
  | .register c _ _ => siteKey 2 (4 * c + 1) == some key
  | .tile c _ _ => siteKey 2 (4 * c + 2) == some key

/-- The site counts the event: an SRAM array's counter takes correctable errors alone (R401). -/
def errorCounts (key : Nat) (what : ErrorKind) : Bool :=
  match what with
  | .correctable _ => true
  | _ => key / 8192 != 2

/-- A module memory site remembers the page that took an error, and reports it at once where its fault is already lasting (R402). -/
def noteErrorPage (s : State) (key : Nat) (what : ErrorKind) : State :=
  let note := fun (k : Nat) =>
    if key / 8192 = 3 ∨ key / 8192 = 4 then
      let c := mapGet SiteCount.zero s.dev.sites key
      let page := k / 2 ^ 16
      let s1 := { s with dev := { s.dev with sites := mapPut s.dev.sites key { c with pages := setIns c.pages page } } }
      if c.acted && !c.pages.contains page then reportPages s1 [page] else s1
    else s
  match what with
  | .correctable (some k) | .memory k => note k
  | _ => s

/-- ERROR_EVENT: a site counts it; an uncorrectable one marks what it damaged (R401, R403 to R406). -/
def execErrorEvent (s : State) : Host.Outcome State Fault Refusal :=
  match s.event with
  | .errorEvent x what =>
    match x.key with
    | some k =>
      if errorAt k what then
        .next (errorEffect (noteErrorPage (if errorCounts k what then countSite s k else s) k what) what)
      else .next s
    | none => .next s
  | _ => .next s

/-- SCRUB: a word or line is read and corrected in place; its value is what it was (R403). -/
def execScrub (s : State) : Host.Outcome State Fault Refusal :=
  match s.event with
  | .scrub _ => .next s
  | _ => .next s

/-! ### Sealed mailboxes (R408, R410) -/

/-- The thread learns that a store-type operation was not performed, or may not have been (R173, R408). -/
def noteLost (s : State) (r : Request) (cause : Nat) : State :=
  onThread s r.core r.slot r.uid (fun th => queueLost th ⟨cause, r.va, r.pc, none⟩)

/-- A waiting `bar` is issued again, and finds what has become of its arrival. -/
def wakeBar (s : State) (r : Request) : State :=
  onThread s r.core r.slot r.uid (fun th => if th.status.canIssue then { th with status := .ready } else th)

/-- The next parts of a tile access, those performed as one step, are left out; M falls with the last. -/
def skipPart (s : State) (r : Request) : State :=
  match r.kind with
  | .tileLoad t ps =>
    let s1 := onThread s r.core r.slot r.uid (fun th => { th with tilePoison := th.tilePoison ||| ((1 : BitVec 16) <<< t.toNat) })
    let rest := (loadGroup ps).2
    if rest.isEmpty then lowerM (dropRequest s1 r.id) r.core r.slot r.uid else setRequest s1 { r with kind := .tileLoad t rest }
  | .tileStore ps =>
    let rest := (storeGroup ps).2
    if rest.isEmpty then lowerM (dropRequest s r.id) r.core r.slot r.uid else setRequest s { r with kind := .tileStore rest }
  | _ => s

/-- The answer to a request that is not performed: poison for one that returns a value, the given cause for the others. R163 says that
`fstat` never poisons d, R408 that one that meets a sealed core does: the model's choice is R408's poison for the seal, which names
`fstat`, and for one that the kernel discards (R412) three bits that the spec leaves open (log 118). -/
def refuseRequest (s : State) (r : Request) (cause : Nat) : State :=
  match r.kind with
  | .fstat => if cause = 0x15 then answer s r poisonReg else answer (freeVal s).2 r (fullReg (fstatOf (freeVal s).1))
  | .load _ | .ldf | .lde | .ste | .ldrd _ | .amo _ | .cas => answer s r poisonReg
  | .store | .stf | .red _ | .stm | .ksend _ _ _ _ => noteLost (lowerS (dropRequest s r.id) r) r cause
  | .bar => wakeBar (noteLost (dropRequest s r.id) r cause) r
  | .tileLoad _ _ => skipPart s r
  | .tileStore _ => noteLost (skipPart s r) r cause
  | .shared _ _ _ => dropRequest s r.id
  | .delayed | .famPut _ _ _ | .famGive _ _ _ _ | .brk _ _ | .rxa _ _ _ | .tenq _ | .macc _ _ _ _ _ _ | .streamOut _ _ _
  | .streamEnd _ _ _ | .engine _ => s

/-- The request goes to the scratchpad of another core that has been killed. -/
def targetKilled (s : State) (r : Request) : Bool :=
  match requestRanges s r with
  | p :: _ => (match keyCore p.1 with | some c => c != r.core && (getCore s c).killed | none => false)
  | [] => false

/-- The message meets a sealed core. What reached the mailbox before the seal has taken effect: a waiting `ldf` or `lde` is answered
only when its core dies, an arrival that was counted is not answered again (R410). -/
def meetsSeal (s : State) (r : Request) : Bool :=
  match r.kind with
  | .ksend _ _ level index => sendSealed s r level index
  | .shared fam k _ => sharedSealed s fam k
  | .load _ | .ldf | .lde | .ste | .fstat | .amo _ | .cas | .store | .stf | .red _ | .tileLoad _ _ | .tileStore _ =>
    (if r.arrived = 0 then targetSealed s r else targetKilled s r) && r.resp.isNone && !r.parked
  | .bar => r.arrived == 0 && targetSealed s r && !r.parked
  | .ldrd _ | .stm | .delayed | .famPut _ _ _ | .famGive _ _ _ _ | .brk _ _ | .rxa _ _ _ | .tenq _ | .macc _ _ _ _ _ _
  | .streamOut _ _ _ | .streamEnd _ _ _ | .engine _ => false

/-- SEALED_MAILBOX_REPLY (R408). -/
def execSealedMailboxReply (s : State) : Host.Outcome State Fault Refusal :=
  match s.event with
  | .sealedMailboxReply id =>
    match getRequest s id, s.mesh.find? (fun m => m.2.id == id) with
    | some r, _ => if meetsSeal s r then .next (refuseRequest s r 0x15) else .next s
    | none, some (c, k) =>
      if (getCore s c).sealed && !issuerAway s k then .next (killedCmd { s with mesh := s.mesh.filter (fun m => m.2.id != id) } c k) else .next s
    | none, none => .next s
  | _ => .next s

/-! ### Parked requests (R412) -/

/-- A parked request of a home after a repair: it is let go where its page is in order, parked still where it is not; an entry of an
engine's command that is no longer under way goes. -/
def unpark (s : State) (home : Nat) (r : Request) : Option Request :=
  if r.parked = false ∨ homeOf r.key ≠ home ∨ meetsFault s r = true then some r
  else
    match r.kind with
    | .engine id => if engineStands s id then some { r with parked := false, replayed := true } else none
    | _ => some { r with parked := false, replayed := true }

/-- PARKED_QUEUE_REPLAY: the home's parked requests are let go, to be performed in the order of their arrival there (R412). -/
def execParkedQueueReplay (s : State) : Host.Outcome State Fault Refusal :=
  match s.event with
  | .parkedQueueReplay home => .next { s with flights := s.flights.filterMap (unpark s home) }
  | _ => .next s

/-- A request ends as indeterminate: its register says so, or the thread's next wait for S; an `ldrd` is poisoned (R166, R173). An
engine's access that is discarded waits for its engine to find it so; the thread that stands at an `lde` or `ste` of the fabric window
goes on with a poisoned register. -/
def endIndet (s : State) (r : Request) : State :=
  match r.kind with
  | .amo _ | .cas =>
    answer (closeTag s r) r { Reg.empty with full := true, indet := true, indetAddr := r.va, indetPc := r.pc }
  | .engine _ => setRequest s { r with parked := false, resp := some 0 }
  | _ => refuseRequest (closeTag (if farStanding r then goOnFar s r else s) r) r 0x14

/-- PARKED_REQUEST_DISCARD. -/
def execParkedRequestDiscard (s : State) : Host.Outcome State Fault Refusal :=
  match s.event with
  | .parkedRequestDiscard id =>
    match getRequest s id with
    | some r => if r.parked then .next (endIndet s r) else .next s
    | none => .next s
  | _ => .next s

/-! ### Tagged requests (R413) -/

/-- RETRY_TIMEOUT: no response has come, or it was lost: another try with the same tag, or after the eighth the request ends as
indeterminate. -/
def execRetryTimeout (s : State) : Host.Outcome State Fault Refusal :=
  match s.event with
  | .retryTimeout id =>
    match getRequest s id with
    | some r =>
      if r.tag = 0 ∨ r.parked then .next s
      else if r.tries < 8 then .next (setRequest s { r with tries := r.tries + 1 })
      else .next (endIndet s r)
    | none => .next s
  | _ => .next s

/-- The request that a tag belongs to is still open. -/
def tagOpen (s : State) (c tag : Nat) : Bool := s.flights.any (fun r => r.core == c && r.tag == tag)

/-- TAG_ENTRY_EXPIRY: the entry may be reused; not while its request is open, since it is held for 32 µs and more (R413). -/
def execTagEntryExpiry (s : State) : Host.Outcome State Fault Refusal :=
  match s.event with
  | .tagEntryExpiry c tag =>
    if tagOpen s c tag then .next s
    else
      .next { s with tags := s.tags.map (fun p =>
        (p.1, p.2.map (fun e => if e.core = c ∧ e.tag = tag then { e with old := true } else e))) }
  | _ => .next s

/-! ### The retirement of pages (R402, R412, R417) -/

/-- A page that has been reported for retirement. -/
def pageReported (s : State) (page : Nat) : Bool := s.dev.sites.any (fun p => p.2.acted && p.2.pages.contains page)

/-- The device kernel begins to retire a page: requests to it park from now on. -/
def beginRetire (s : State) (page : Nat) : State :=
  if pageReported s page ∧ mapFind s.dev.moved page = none then
    { s with dev := { s.dev with retiring := setIns s.dev.retiring page } }
  else s

/-- The bytes of a page and the marks on it are taken to another page. -/
def movePage (s : State) (page target : Nat) : State :=
  let k := page * 2 ^ 16
  let j := target * 2 ^ 16
  let marks := (s.marks.filter (fun m => decide (k ≤ m ∧ m < k + 2 ^ 16))).map (fun m => m - k + j)
  let s1 := { s with
    mem := s.mem.filter (fun c => !decide (j ≤ c.1 ∧ c.1 < j + 2 ^ 16))
    marks := s.marks.filter (fun m => !decide (j ≤ m ∧ m < j + 2 ^ 16)) }
  marks.foldl (fun st m => { st with marks := setIns st.marks m }) (pokeBytes s1 j (memBytes s.mem k (2 ^ 16)))

/-- A page being retired is migrated to a page of module memory that no page has taken yet, and unmapped: every address that named it
names the other page. The host is told afterwards (R417, log 104). -/
def retirePage (s : State) (page target : Nat) : State :=
  let into : Bool := match physWin (target * 2 ^ 16), physWin (target * 2 ^ 16 + 0xFFFF) with
    | some .gddr, some .gddr | some .lpddr, some .lpddr => true
    | _, _ => false
  let used := fun (p : Nat × Nat) => p.1 == target || p.2 == target
  if s.dev.retiring.contains page && page != target && into && !s.dev.retiring.contains target &&
      !s.dev.moved.any used then
    let s1 := movePage s page target
    let moved := s1.dev.moved.map (fun p => if p.2 = page then (p.1, target) else p)
    postEvent { s1 with dev := { s1.dev with
      retiring := s1.dev.retiring.filter (fun p => p != page), moved := mapPut moved page target } }
      ⟨0x86, 0xFFFF, 0, 0, [page * 2 ^ 16]⟩
  else s

end Sys2Proof.Machine
end

