-- ==== Sys2Proof/Machine/Links.lean ====
section
/-! DEFINITION. Umaip ports, the fabric switch's paths, the time base, the arithmetic clock and the management port's small commands (R23, R411, R419,
R420, R430). -/
namespace Sys2Proof.Machine

/-! ### Ports (R411, R441) -/

/-- Replace a port. -/
def setLink (s : State) (p : Nat) (l : Link) : State := { s with dev := { s.dev with links := mapSet Link.init s.dev.links p l } }

/-- Log a move on the management port: the port, and its rung, 5 for down. -/
def logMove (s : State) (p rung : Nat) : State :=
  { s with dev := { s.dev with linkLog := s.dev.linkLog ++ [⟨0x0411, p, rung⟩] } }

/-! ### The paths of the switch (R419) -/

/-- The port that the switch's table gives for a device. -/
def routePort (s : State) (dst : Nat) : Option Nat := mapFind s.dev.routes dst

/-- Flits that stand on a port that is down are replayed on the route that their destination has now, where that is another port. -/
def replayFlits (s : State) : State :=
  { s with dev := { s.dev with transit := s.dev.transit.map (fun f =>
      if (getLink s f.2.2).up then f
      else match routePort s f.2.1 with | some p => (f.1, f.2.1, p) | none => f) } }

/-- The fabric configuration writes an entry of the switch's table. -/
def setRoute (s : State) (dst port : Nat) : State :=
  if dst < 4096 ∧ port < 18 then replayFlits { s with dev := { s.dev with routes := mapPut s.dev.routes dst port } } else s

/-- The port a flit of a source and destination pair takes: the one on which an earlier flit of the pair still is, so that the order is
kept, else the table's. -/
def flitPort (s : State) (src dst : Nat) : Option Nat :=
  match s.dev.transit.find? (fun f => f.1 == src && f.2.1 == dst) with
  | some f => some f.2.2
  | none => routePort s dst

/-- The switch takes a flit in, while its port is up. -/
def forwardFlit (s : State) (src dst : Nat) : State :=
  match flitPort s src dst with
  | some p =>
    if (getLink s p).up then { s with dev := { s.dev with transit := s.dev.transit ++ [(src, dst, p)] } } else s
  | none => s

/-- The oldest flit of a port has been delivered on its far side. -/
def flitOut (s : State) (p : Nat) : State :=
  if (getLink s p).up then
    { s with dev := { s.dev with transit := s.dev.transit.eraseIdx (s.dev.transit.findIdx (fun f => f.2.2 == p)) } }
  else s

/-- A port goes down; the flits on it are replayed elsewhere. -/
def linkDown (s : State) (p : Nat) (l : Link) : State :=
  replayFlits (logMove (setLink s p { l with up := false, retrain := false }) p 5)

/-- FLIT_RECEIVE: a good flit in order is delivered, one seen before is not; a bad one is replayed, and the eighth replay in a
row calls for a retrain (R411). -/
def execFlitReceive (s : State) : Host.Outcome State Fault Refusal :=
  match s.event with
  | .flitReceive p seq ok =>
    let l := getLink s p
    if 18 ≤ p ∨ l.up = false ∨ l.retrain = true then .next s
    else if ok then .next (if seq = l.next then setLink s p { l with next := l.next + 1, replays := 0 } else s)
    else .next (setLink s p { l with replays := l.replays + 1, retrain := decide (8 ≤ l.replays + 1) })
  | _ => .next s

/-- PORT_RETRAIN: the port comes back, or goes down (R411). -/
def execPortRetrain (s : State) : Host.Outcome State Fault Refusal :=
  match s.event with
  | .portRetrain p ok =>
    let l := getLink s p
    if p < 18 ∧ l.retrain = true then
      let l1 := { l with retrain := false, replays := 0, quietMs := 0, retrains := if l.retrains < 65535 then l.retrains + 1 else 65535 }
      .next (if ok then setLink s p l1 else linkDown s p l1)
    else .next s
  | _ => .next s

/-- The windows in a row in which each lane predicted less than 12 percent. -/
def lowRunsAfter (runs margins : List Nat) : List Nat :=
  (List.range 8).map (fun i => if margins.getD i 100 < 12 then runs.getD i 0 + 1 else 0)

/-- EYE_MARGIN_WINDOW: the 1 ms window's predictions; a lane low in three windows in a row steps the port down a rung, or down
altogether below the last (R411). -/
def execEyeMarginWindow (s : State) : Host.Outcome State Fault Refusal :=
  match s.event with
  | .eyeMarginWindow p margins =>
    let l := getLink s p
    if p < 18 ∧ l.up = true ∧ margins.length = 8 then
      let least := margins.foldl (fun a m => if m < a then m else a) 255
      let low := ((List.range 8).map (fun i => if margins.getD i 100 < 12 then 2 ^ i else 0)).sum
      let runs := lowRunsAfter l.lowRuns margins
      let l1 := { l with margin := least, low := low, lowRuns := runs, quietMs := if low = 0 then l.quietMs + 1 else 0 }
      if runs.any (fun n => decide (3 ≤ n)) then
        if l.rung < 4 then .next (logMove (setLink s p { l1 with rung := l.rung + 1, lowRuns := [] }) p (l.rung + 1))
        else .next (linkDown s p { l1 with lowRuns := [] })
      else .next (setLink s p l1)
    else .next s
  | _ => .next s

/-- One rung up. -/
def rungUp (s : State) (p : Nat) : State :=
  let l := getLink s p
  if p < 18 ∧ l.up = true ∧ 0 < l.rung then logMove (setLink s p { l with rung := l.rung - 1, lowRuns := [], quietMs := 0 }) p (l.rung - 1) else s

/-- RATE_UP_TIMEOUT: ten minutes, which are 600,000 windows, without a low lane or a retrain (R411). -/
def execRateUpTimeout (s : State) : Host.Outcome State Fault Refusal :=
  match s.event with
  | .rateUpTimeout p => if 600000 ≤ (getLink s p).quietMs ∧ (getLink s p).retrain = false then .next (rungUp s p) else .next s
  | _ => .next s

/-! ### The time base (R398, R420) -/

/-- Some group of this device has a member with a lower number: another device is its time master. -/
def hasMaster (s : State) : Bool :=
  s.dev.groups.any (fun g => g.2.contains s.dev.devNum && g.2.any (fun d => decide (d < s.dev.devNum)))

/-- TIMEBASE_SYNC: a timing message of the master tells how far the count is from the master's; the count is slewed by that as time
passes (R420). -/
def execTimebaseSync (s : State) : Host.Outcome State Fault Refusal :=
  match s.event with
  | .timebaseSync master =>
    if hasMaster s then .next { s with dev := { s.dev with slewed := (master.toNat : Int) - (s.dev.timebase.toNat : Int) } }
    else .next s
  | _ => .next s

/-! ### The arithmetic clock (R23, R437) -/

/-- POWER_CLOCK_STEP: one step of 25 MHz down while measured power exceeds the limit, else one up toward 1,750 MHz. The spec gives
no floor; the model stops at 25 MHz (log 105). -/
def execPowerClockStep (s : State) : Host.Outcome State Fault Refusal :=
  match s.event with
  | .powerClockStep watts =>
    let v := s.dev
    if v.limit < watts then .next { s with dev := { v with mhz := if 25 < v.mhz then v.mhz - 25 else v.mhz } }
    else .next { s with dev := { v with mhz := if v.mhz + 25 ≤ 1750 then v.mhz + 25 else v.mhz } }
  | _ => .next s

/-! ### The management port (R430) -/

/-- A command carries a valid HMAC under the key the device kernel has set. -/
def mgmtOk (s : State) (hmacOk : Bool) : Bool := hmacOk && s.dev.mgmtKey

/-- MGMT_POWER_LIMIT: at most 1,700 W (R23). -/
def execMgmtPowerLimit (s : State) : Host.Outcome State Fault Refusal :=
  match s.event with
  | .mgmtPowerLimit ok watts =>
    if mgmtOk s ok ∧ watts ≤ 1700 then .next { s with dev := { s.dev with limit := watts } } else .next s
  | _ => .next s

/-- MGMT_LINK_RATE_UP (R411). -/
def execMgmtLinkRateUp (s : State) : Host.Outcome State Fault Refusal :=
  match s.event with
  | .mgmtLinkRateUp ok p => if mgmtOk s ok then .next (rungUp s p) else .next s
  | _ => .next s

/-- MGMT_START_COUNTER_CLEAR (R424). -/
def execMgmtStartCounterClear (s : State) : Host.Outcome State Fault Refusal :=
  match s.event with
  | .mgmtStartCounterClear ok => if mgmtOk s ok then .next { s with dev := { s.dev with starts := 0 } } else .next s
  | _ => .next s

/-- MGMT_TELEMETRY: boot status, the error log and the rate-ladder log, as the port sends them (R428, R430). -/
def execMgmtTelemetry (s : State) : Host.Outcome State Fault Refusal :=
  match s.event with
  | .mgmtTelemetry =>
    .next { s with dev := { s.dev with
      report := ⟨s.dev.stage, s.dev.reason, s.dev.last⟩ :: ⟨s.dev.mhz, s.dev.limit, s.dev.starts⟩ :: s.dev.errLog ++ s.dev.linkLog } }
  | _ => .next s

end Sys2Proof.Machine
end

