-- ==== Sys2Proof/Machine/Boot.lean ====
section
/-! DEFINITION. Start-up, stage-1 and kernel slot images, the host's accesses through BAR 2, and what the outside sets up (R414,
R415, R418, R424 to R428, R430). -/
namespace Sys2Proof.Machine

/-! ### Reading images -/

/-- A little-endian field of n bytes of a file (R4). -/
def fileField (bs : List Byte) (off n : Nat) : Nat := leValue ((bs.drop off).take n)

/-- n bytes of a file. -/
def fileBytes (bs : List Byte) (off n : Nat) : List Byte := (bs.drop off).take n

/-- The reason code of a stage-1 or kernel slot image under R426: 0 where it is accepted, 2 for the key hash or the signature,
3 for the security version. The code is what follows the 256 bytes of header. -/
def imageReason (bs : List Byte) : Nat :=
  let code := fileBytes bs 256 (fileField bs 8 8)
  let digest := sha256 (fileBytes bs 0 80 ++ code)
  if bs.length < 256 ∨ code.length ≠ fileField bs 8 8 then 2
  else if sha256 (fileBytes bs 16 64) ≠ Config.vendorKeyHash then 2
  else if ecdsaVerify (fileField bs 16 32) (fileField bs 48 32) (fileField bs 80 32) (fileField bs 112 32) digest = false then 2
  else if fileField bs 4 4 < Config.rollbackCounter then 3
  else 0

/-! ### Start (R424 to R428) -/

/-- A start fails with a reason, and waits for a reset (R427). -/
def failStart (s : State) (reason : Nat) : State := { s with dev := { s.dev with reason := reason } }

/-- The boot ROM starts. Everything takes its reset value but the host's own memory, the fabric configuration, the start counter
(R424), and what a power cycle alone loses: the last failed start's reason, the kernel slots and the management key. The model's choice: a
core that was retired is in service again after any reset (log 16).
Three counted starts lead to minimal mode. -/
def bootStart (s : State) (powerCycle memoryOk diesOk : Bool) : State :=
  let v := s.dev
  let starts := if powerCycle then 0 else v.starts
  let last := if powerCycle then 0 else if v.reason = 0 ∨ v.reason = 7 then v.last else v.reason
  let dev : Device :=
    { Device.init with
      starts := if starts < 15 then starts + 1 else 15, last := last, devNum := v.devNum, groups := v.groups, groups6 := v.groups6, routes := v.routes,
      slotA := if powerCycle then [] else v.slotA, slotB := if powerCycle then [] else v.slotB,
      mgmtKey := v.mgmtKey && !powerCycle }
  let s1 := { State.reset with
    agenda := s.agenda, event := s.event, nextId := s.nextId, freeCtr := s.freeCtr, mem := s.mem.filter (fun c => keyIsHost c.1)
    dev := dev }
  if 3 ≤ starts then { s1 with dev := { dev with stage := 3, reason := 7 } }
  else if !memoryOk then failStart s1 4
  else
    let s2 := { s1 with dev := { dev with trained := true } }
    if diesOk then s2 else failStart s2 5

/-- POWER_ON_RESET (R424). -/
def execPowerOnReset (s : State) : Host.Outcome State Fault Refusal :=
  match s.event with
  | .powerOnReset cycle memoryOk diesOk => .next (bootStart s cycle memoryOk diesOk)
  | _ => .next s

/-- MGMT_RESET (R430). -/
def execMgmtReset (s : State) : Host.Outcome State Fault Refusal :=
  match s.event with
  | .mgmtReset ok memoryOk diesOk => if mgmtOk s ok then .next (bootStart s false memoryOk diesOk) else .next s
  | _ => .next s

/-- The boot ROM waits for a stage-1 image. -/
def awaitsImage (v : Device) : Bool := v.stage == 0 && v.reason == 0 && v.trained

/-- The stage-1 image of a length is verified, and the device kernel started from it (R424 to R426). -/
def verifyStage1 (s : State) (len : Nat) : State :=
  let bs := memBytes s.mem 0 len
  let s1 := { s with dev := { s.dev with stage := 1 } }
  match imageReason bs with
  | 0 =>
    let h := sha256 bs
    { s1 with dev := { s1.dev with stage := 2, kslot := 2, stage1 := bs, kernelHash := h } }
  | r => failStart s1 r

/-- BOOT_DOORBELL (R425): ignored unless the boot ROM waits. -/
def execBootDoorbell (s : State) : Host.Outcome State Fault Refusal :=
  match s.event with
  | .bootDoorbell len =>
    let n := len.toNat
    if awaitsImage s.dev then
      if n < 256 ∨ 2 ^ 28 < n ∨ n ≠ 256 + peek s 8 8 then .next (failStart s 8) else .next (verifyStage1 s n)
    else .next s
  | _ => .next s

/-- BOOT_IMAGE_TIMEOUT (R427). -/
def execBootImageTimeout (s : State) : Host.Outcome State Fault Refusal :=
  match s.event with
  | .bootImageTimeout => if awaitsImage s.dev then .next (failStart s 1) else .next s
  | _ => .next s

/-- The device kernel runs. -/
def kernelRuns (v : Device) : Bool := v.stage == 2 && v.reason == 0

/-- KERNEL_COMPLETION_TIMEOUT (R427). -/
def execKernelCompletionTimeout (s : State) : Host.Outcome State Fault Refusal :=
  match s.event with
  | .kernelCompletionTimeout => if kernelRuns s.dev && !s.dev.posted then .next (failStart s 6) else .next s
  | _ => .next s

/-! ### BAR 2 (R414, R425) -/

/-- Where a BAR 2 offset lies: GDDR 7 at the same address before the kernel starts, then through the kernel's page table; none
while nothing answers. -/
def bar2Place (s : State) (off n : Nat) : Option Nat :=
  if 2 ^ 36 < off + n ∨ n = 0 then none
  else if s.dev.stage = 2 then
    match mapFind s.dev.bar2 (off / 2 ^ 16) with
    | some p =>
      if off % 2 ^ 16 + n ≤ 2 ^ 16 ∧ physWin (p + off % 2 ^ 16 + n - 1) = some .gddr then some (movedKey s (p + off % 2 ^ 16)) else none
    | none => none
  else if s.dev.trained ∧ s.dev.stage < 2 then some (movedKey s off)
  else none

/-- Perform a host write: bytes of one 64-byte line at a time, each under R405. -/
def hostLineWrite (s : State) (k : Nat) : Nat → List Byte → State
  | 0, _ => s
  | n + 1, bs =>
    match bs with
    | [] => s
    | _ =>
      let m := 64 - k % 64
      let here := bs.take m
      hostLineWrite (storeAt s k here.length (leValue here) 0) (k + here.length) n (bs.drop m)

/-- HOST_BAR2_ACCESS: a write, or with no data a read of eight bytes; a write that nothing answers is discarded, and such a read
returns values the spec does not state (log 9). -/
def execHostBar2Access (s : State) : Host.Outcome State Fault Refusal :=
  match s.event with
  | .hostBar2Access off data =>
    match data with
    | [] =>
      match bar2Place s off 8 with
      | some k => .next { s with dev := { s.dev with bar2Read := memBytes s.mem k 8 } }
      | none =>
        let v := freeVal s
        .next { v.2 with dev := { v.2.dev with bar2Read := leBytes 8 v.1.toNat } }
    | _ =>
      match bar2Place s off data.length with
      | some k => .next (hostLineWrite s k (data.length + 1) data)
      | none => .next s
  | _ => .next s

/-- What a PCIe AtomicOp writes, from the old value. -/
def hostAtomicValue (op : HostAtomicOp) (old v cmp : Word) : Word :=
  match op with
  | .fetchAdd => old + v
  | .swap => v
  | .cas => if old = cmp then v else old

/-- HOST_ATOMIC: 64 bits, naturally aligned; the old value is returned (R414). A line that holds an uncorrectable error takes
no atomic (R405). -/
def execHostAtomic (s : State) : Host.Outcome State Fault Refusal :=
  match s.event with
  | .hostAtomic off op v cmp =>
    match bar2Place s off 8 with
    | some k =>
      if off % 8 ≠ 0 ∨ isMarked s k = true then .next s
      else
        let old := word (peek s k 8)
        let s1 := storeAt s k 8 (hostAtomicValue op old v cmp).toNat 0
        .next { s1 with dev := { s1.dev with bar2Read := leBytes 8 old.toNat } }
    | none => .next s
  | _ => .next s

/-- EVENT_HEAD_DOORBELL: the host frees room in the event ring, and held events are posted (R417). -/
def execEventHeadDoorbell (s : State) : Host.Outcome State Fault Refusal :=
  match s.event with
  | .eventHeadDoorbell head =>
    if s.dev.evHead ≤ head ∧ head ≤ s.dev.evTail then .next (postHeld 4100 { s with dev := { s.dev with evHead := head } })
    else .next s
  | _ => .next s

/-! ### What is set up from outside -/

/-- A ring of 2^k entries, k from 4 to 16 (R415). -/
def ringSizeOk (n : Nat) : Bool := (List.range 13).any (fun k => n == 2 ^ (k + 4))

/-- What the host reads from a register of BAR 0 (R414); what the boot doorbell returns before the kernel starts is not stated (log 112). -/
def bar0Value (s : State) (x : Bar0Reg) : Word × State :=
  let v := s.dev
  match x with
  | .commandBase => (word v.cmdBase, s)
  | .commandSize => (word v.cmdSize, s)
  | .commandTail => (word v.cmdTail, s)
  | .eventBase => (word v.evBase, s)
  | .eventSize => (word v.evSize, s)
  | .eventHead => (word v.evHead, s)
  | .bootStatus => (bootStat v, s)
  | .bootDoorbell => if v.stage = 2 then (0, s) else freeVal s

/-- The device kernel starts a thread of its own in a free slot of a control core (R18, R381, log 106). -/
def startKernelThread (s : State) (cc t ctx : Nat) (entry : CodeAddr) (locals : List Word) : State :=
  let hdr : Header := { Header.zero with entry := entry, l := 63 }
  if 2 ≤ s.dev.stage ∧ s.dev.handover = none ∧ cc < 16 ∧ t < 31 ∧ (getThread s (1088 + cc) t).status = .free then
    startThread s (1088 + cc) t ⟨.kernel, ctx, 0, 0, 0, 0, hdr, 0, localRegs hdr locals⟩
  else s

/-- A slot of a control core's instruction memory holds code of the device kernel (log 106). -/
def loadKernelCode (s : State) (cc b ctx num : Nat) (bytes : List Byte) : State :=
  if 2 ≤ s.dev.stage ∧ cc < 16 ∧ b < 2 then
    let co := getCore s (1088 + cc)
    putCore s (1088 + cc) (setImem co b
      { ImemSlot.init with state := .valid, overlay := num, ctx := ctx, bytes := memSetBytes [] 0 (bytes.take (2 ^ 16)) })
  else s

/-- What a request of another device asks of its home; an `stm` is a store under a tag, and an `ldrd` a load of this member's word. -/
def RemoteAccess.kind : RemoteAccess → ReqKind
  | .load | .ldrd => .load false
  | .ldf => .ldf
  | .lde => .lde
  | .fstat => .fstat
  | .store | .stm => .store
  | .stf => .stf
  | .ste => .ste
  | .cas => .cas
  | .amo op => .amo op
  | .red op => .red op

/-- It carries a tag (R413). -/
def RemoteAccess.tagged : RemoteAccess → Bool
  | .stm | .cas | .amo _ | .red _ | .ldrd => true
  | .load | .ldf | .lde | .fstat | .store | .stf | .ste => false

/-- The home accepts a request for a place: an `lde` or `ste` of a word without a state bit it does not (R150); one to a page absent
from the export table it does, and parks it (R412). -/
def remoteAccepted (s : State) (ctx k : Nat) (what : RemoteAccess) : Bool :=
  match what, localKey s ctx k with
  | .lde, some j | .ste, some j => keyHasState j
  | _, _ => true

/-- The number under which a core of another device stands: the home's window keeps the source core of a tag (R413). -/
def remoteCore (src core : Nat) : Nat := 4096 + 2048 * src + core

/-- A request of another device arrives (R418): its offset is mapped through the export table of its context, and the home keeps its
tag under its source core (R413); its answer leaves the device (log 107). -/
def remoteRequest (s : State) (src core tag ctx off width : Nat) (b e : Word) (what : RemoteAccess) : State :=
  let k := 2 ^ 47 + s.dev.devNum * 2 ^ 33 + off
  if src < 4096 ∧ src ≠ s.dev.devNum ∧ core < 1104 ∧ tag < 2 ^ 16 ∧ [1, 2, 4, 8].contains width = true ∧ off % width = 0 ∧ off + width ≤ 2 ^ 33 ∧
      remoteAccepted s ctx k what = true then
    sendRequest s { Request.zero with
      core := remoteCore src core, ctx := ctx, kind := what.kind, va := word off, key := k, width := width, b := b, e := e
      tag := if what.tagged then tag + 1 else 0 }
  else s

/-- The host's IOMMU faults on a page of host memory, or serves it again (R412). -/
def hostIommu (s : State) (page : Nat) (ok : Bool) : State :=
  if keyIsHost (page * 2 ^ 16) then
    { s with dev := { s.dev with
        hostFaults := if ok then setDel s.dev.hostFaults page else setIns s.dev.hostFaults page } }
  else s

/-- Take a setting (log 1). -/
def applySetup (s : State) (x : Setup) : State :=
  let v := s.dev
  match x with
  | .commandRing base size =>
    if ringSizeOk size then { s with dev := { v with cmdBase := base, cmdSize := size, cmdTail := 0, cmdHead := 0, cmdDone := [] } } else s
  | .eventRing base size =>
    if ringSizeOk size then
      postHeld 4100 { s with dev := { v with evBase := base, evSize := size, evHead := 0, evTail := 0 } }
    else s
  | .bar2Page page pa =>
    match pa with
    | some p => if p % 2 ^ 16 = 0 ∧ physWin p = some .gddr then { s with dev := { v with bar2 := mapPut v.bar2 page p } } else s
    | none => { s with dev := { v with bar2 := mapDel v.bar2 page } }
  | .fabricNumber n => if n < 4096 then { s with dev := { v with devNum := n } } else s
  | .group g ms => if ms.length ≤ 4096 then { s with dev := { v with groups := mapSet [] v.groups g ms } } else s
  | .portUp p => if p < 18 then setLink s p { getLink s p with up := true } else s
  | .mgmtKey => { s with dev := { v with mgmtKey := true } }
  | .kernelThread cc t ctx entry locals => startKernelThread s cc t ctx entry locals
  | .kernelCode cc b ctx num bytes => loadKernelCode s cc b ctx num bytes
  | .hostIommu page ok => hostIommu s page ok
  | .deviceGroups n => if 1 ≤ n then { s with dev := { v with groups6 := n } } else s
  | .pageRetiring page => beginRetire s page
  | .pageRetired page target => retirePage s page target
  | .bar0Read reg =>
    let y := bar0Value s reg
    { y.2 with dev := { y.2.dev with bar0Read := y.1 } }
  | .commandTail t =>
    if v.cmdTail ≤ t ∧ t ≤ v.cmdHead + v.cmdSize then { s with dev := { v with cmdTail := t } } else s
  | .remoteRequest src core tag ctx off width b e what => remoteRequest s src core tag ctx off width b e what
  | .switchRoute dst port => setRoute s dst port
  | .forwardFlit src dst => forwardFlit s src dst
  | .flitOut port => flitOut s port

end Sys2Proof.Machine
end

