-- ==== Sys2Proof/Machine/Coll.lean ====
section
/-! DEFINITION. Collectives (R421 to R423). What the other members of the group contribute, and the order in which the engine sums,
are the event's (log 99). -/
namespace Sys2Proof.Machine

/-- The agent of a collective. -/
def collAgent (k : Coll) : Agent := ⟨k.core, k.slot, k.uid, k.ctx, k.pc, 2, k.id, k.core⟩

/-- The members of a collective's group in rank order, and this device's rank (R419). -/
def collGroup (s : State) (k : Coll) : List Nat := mapGet [] s.dev.groups k.group
def collRank (s : State) (k : Coll) : Nat := ((collGroup s k).takeWhile (fun d => !(d == s.dev.devNum))).length

/-- The fields of a descriptor. -/
def collOf (s : State) (th : Thread) (d : Nat) : Coll :=
  { id := 0, core := s.core, slot := s.slot, uid := th.uid, ctx := th.ctx, pc := th.pc, op := fieldAt d 0 1,
    fmt := fieldAt d 1 1, rop := fieldAt d 2 1, group := fieldAt d 4 4, count := fieldAt d 8 8, send := wordAt d 16,
    recv := wordAt d 24, signals := wordAt d 32, tile := fieldAt d 40 4, root := fieldAt d 44 4, status := wordAt d 48,
    done := [] }

/-- The formats `coll` takes (R421). -/
def collFmtOk (c : Nat) : Bool :=
  match Fmt.ofCode (BitVec.ofNat 5 c) with
  | some .i32 | some .z32 | some .i64 | some .z64 | some .f32 | some .f64 | some .f16 | some .bf16 => decide (c < 32)
  | _ => false

/-- A word of the context in a window that carries state, as `accepts` has it. -/
def stateWordOk (s : State) (va : Word) (accepts : Win → Bool) : Bool :=
  decide (va.toNat % 8 = 0) &&
    (match (resolve s s.core s.slot (cur s).ctx va 8 true true).1 with
     | .ok l => accepts l.win
     | .error _ => false)

/-- The checks that raise 0x06 (R421, R422). -/
def collFieldsOk (s : State) (k : Coll) (d : Nat) : Bool :=
  let p := (collGroup s k).length
  decide (1 ≤ k.op ∧ k.op ≤ 4) && (if k.op = 1 ∨ k.op = 4 then k.rop == 0 else decide (1 ≤ k.rop ∧ k.rop ≤ 3)) &&
    fieldAt d 3 1 == 0 && fieldAt d 56 8 == 0 && (collGroup s k).contains s.dev.devNum && decide (p ≤ 4096) &&
    decide (1 ≤ k.count) && (k.op != 1 || k.count % p == 0) && decide (1 ≤ k.tile ∧ k.tile ≤ 2 ^ 20) &&
    (k.op != 4 || decide (k.root < p)) && (k.signals == 0 || stateWordOk s k.signals (fun w => w == .urn)) &&
    stateWordOk s k.status Win.hasState

/-- `coll` (R422). -/
def execColl (a : RegNo) (s : State) :=
  runBody s (do
    let r ← readOnlyForm s [a]
    checkHeld s 0b001100
    checkSpec s
    let va := on1 id r.1
    if va.toNat % 64 ≠ 0 then .error (.trap 0x03 va) else .ok ()
    let (d, s1) ← descRead (setCur s r.2) va 64 0x04
    let k := collOf s1 r.2 d
    let w := elemBytes (collFmt k)
    if !collFmtOk k.fmt then .error (.trap 0x06 va) else .ok ()
    if k.send.toNat % w ≠ 0 ∨ k.recv.toNat % w ≠ 0 then .error (.trap 0x03 va) else .ok ()
    if !collFieldsOk s1 k d then .error (.trap 0x06 va) else .ok ()
    checkCount r.2.cntC 31
    let (id, s2) := fresh s1
    .ok (retire (addC { s2 with colls := s2.colls ++ [{ k with id := id }] })))

/-- The result as a record of one dimension. -/
def collRec (k : Coll) : ShapeRec :=
  { addr := 0, base := k.recv, fmt := k.fmt, scale := 0, swz := 0, rank := 1, ext := [k.count, 0, 0, 0],
    str := [word (elemBytes (collFmt k)), 0, 0, 0] }

/-- The element of this member's own contribution that goes into a result element: none where the whole element is another
member's (R421). -/
def collOwn (s : State) (k : Coll) (i : Nat) : Option Nat :=
  let p := (collGroup s k).length
  let me := collRank s k
  match k.op with
  | 1 => if i / (k.count / p) = me then some (i % (k.count / p)) else none
  | 2 => some (me * k.count + i)
  | 4 => if me = k.root then some i else none
  | _ => some i

/-- The result elements are formed from every member's contribution: reduce-scatter and all-reduce. -/
def collReduces (k : Coll) : Bool := k.op == 2 || k.op == 3

/-- Two elements combined (R422): floats add in the format, rounded to nearest without flushing, their flags discarded. -/
def collPair (f : Fmt) (rop : Nat) (x y : Word) : Word :=
  let n := f.width
  let a := x.toNat % 2 ^ n
  let b := y.toNat % 2 ^ n
  let least := match f with
    | .i32 | .i64 => decide (toSigned n a < toSigned n b)
    | _ => decide (a < b)
  match f with
  | .i32 | .i64 | .z32 | .z64 =>
    word (match rop with
      | 1 => (a + b) % 2 ^ n
      | 2 => if least then a else b
      | _ => if least then b else a)
  | _ =>
    word (match rop with
      | 1 => (fpAdd f envBare 0 a b).bits
      | 2 => (fpMinMax f envBare false a b).bits
      | _ => (fpMinMax f envBare true a b).bits)

/-- The entries that a step is given suit the elements: for a reduced element one value of every other member, for one copied from
another member its value. -/
def collGiven (s : State) (k : Coll) (els : List Nat) (others : List (List Word × List (Nat × Nat))) : Bool :=
  others.length == els.length && (els.zip others).all (fun p =>
    if collReduces k then p.2.1.length + 1 == (collGroup s k).length
    else (collOwn s k p.1).isSome || !p.2.1.isEmpty)

/-- The elements of signal j. -/
def collTile (k : Coll) (j : Nat) : List Nat :=
  (List.range (if (j + 1) * k.tile < k.count then k.tile else k.count - j * k.tile)).map (j * k.tile + ·)

/-- This member's parts of a reduce-scatter that go to the other members are read for them, and can fail (R421, R422). -/
def collParts (s0 : State) (k : Coll) (i : Nat) : Eng Unit :=
  if k.op = 2 then
    (List.range (collGroup s0 k).length).forM (fun q =>
      if q = collRank s0 k then pure ()
      else do
        let _ ← engRead (collAgent k) (k.send + word (elemBytes (collFmt k) * (q * k.count + i))) (elemBytes (collFmt k))
        pure ())
  else pure ()

/-- One result element: copied from its member, or formed from all contributions in rank order, pair by pair (R422); where this
member's own contribution holds an uncorrectable error the element is marked (R405). -/
def collElem (s0 : State) (k : Coll) (isDone : Nat → Bool) (i : Nat) (given : List Word × List (Nat × Nat)) : Eng Unit :=
  let ag := collAgent k
  let r := collRec k
  let w := elemBytes (collFmt k)
  match collOwn s0 k i with
  | none => writeElem ag r k.count isDone i ((given.1.headD 0).toNat % 2 ^ (8 * w))
  | some o => do
    collParts s0 k i
    let x ← engRead ag (k.send + word (w * o)) w
    if x.2 then do
      markElem ag r i
      fillWords ag r k.count isDone i
    else
      let v := if collReduces k then
          mergeBy (collPair (collFmt k) k.rop) given.2 (rankWords s0.dev.devNum (word x.1) (collGroup s0 k) given.1)
        else word x.1
      writeElem ag r k.count isDone i (v.toNat % 2 ^ (8 * w))

/-- Perform result elements. -/
def collPerform (s0 : State) (k : Coll) (els : List Nat) (others : List (List Word × List (Nat × Nat))) : Eng Unit :=
  let isDone := fun j => collSigned k j || els.contains j
  (els.zip others).forM (fun p => collElem s0 k isDone p.1 p.2)

/-- COLL_SIGNAL: the elements of signal j are performed and its word holds their number (R423). -/
def execCollSignal (s : State) : Host.Outcome State Fault Refusal :=
  match s.event with
  | .collSignal id j others =>
    match s.colls.find? (fun k => k.id == id) with
    | some k =>
      let els := collTile k j
      if k.signals ≠ 0 ∧ j * k.tile < k.count ∧ k.done.contains j = false ∧ collGiven s k els others = true then
        whenOk s (collAgent k) (do
          collPerform s k els others
          writeSignal (collAgent k) (k.signals + word (8 * j)) els.length
          modify (fun st => { st with colls := st.colls.map (fun x => if x.id = id then { x with done := j :: x.done } else x) }))
      else .next s
    | none => .next s
  | _ => .next s

/-- The collective ends: the status word takes a `stf` at `.fab` and C falls; a word that its home cannot serve holds the end up
(R412). -/
def collEnd (s : State) (k : Coll) (status : Nat) : State :=
  let ended := fun (st : State) =>
    lowerC { st with colls := st.colls.filter (fun x => !(x.id == k.id)) } k.core k.slot k.uid 1
  match runEng s (writeSignal (collAgent k) k.status status) with
  | .ok s1 => ended s1
  | .error (0, va) => engPark s (collAgent k) va
  | .error _ => ended s

/-- An access of this member fails (R422, status 2). -/
def collFails (s : State) (k : Coll) (others : List (List Word × List (Nat × Nat))) : Bool :=
  match runEng s (collPerform s k (collRest k) others) with
  | .ok _ | .error (0, _) => false
  | .error _ => true

/-- Write what the event gives into what can be reached of a result that is indeterminate. -/
def collScatter (s : State) (k : Coll) (others : List (List Word × List (Nat × Nat))) : State :=
  let w := elemBytes (collFmt k)
  ((List.range k.count).zip others).foldl (fun st p =>
    match p.2.1 with
    | [] => st
    | v :: _ =>
      match runEng st (engWrite (collAgent k) (k.recv + word (w * p.1)) w (v.toNat % 2 ^ (8 * w))) with
      | .ok x => x
      | .error _ => st) s

/-- COLL_COMPLETE (R422): status 0 once everything is performed and signalled; 2 where an access of this member fails; 1 and 3
as other members decide; recv is then indeterminate. -/
def execCollComplete (s : State) : Host.Outcome State Fault Refusal :=
  match s.event with
  | .collComplete id status others =>
    match s.colls.find? (fun k => k.id == id) with
    | some k =>
      let alone := decide ((collGroup s k).length ≤ 1)
      let signalled := k.signals == 0 || (collRest k).isEmpty
      match status with
      | 0 =>
        if signalled && collGiven s k (collRest k) others then
          match runEng s (collPerform s k (collRest k) others) with
          | .ok s1 => .next (collEnd s1 k 0)
          | .error (0, va) => .next (engPark s (collAgent k) va)
          | .error _ => .next s
        else .next s
      | 2 => if collFails s k others then .next (collEnd (collScatter s k others) k 2) else .next s
      | 1 => if alone then .next s else .next (collEnd (collScatter s k others) k 1)
      | 3 => if alone then .next s else .next (collEnd (collScatter s k others) k 3)
      | _ => .next s
    | none => .next s
  | _ => .next s

end Sys2Proof.Machine
end

