-- ==== Sys2Proof/Machine/Image.lean ====
section
/-! DEFINITION. The NKI container: its checks and how an image is laid out and loaded (R91 to R94, R252, R416). -/
namespace Sys2Proof.Machine

/-! ### The checks of R94 -/

/-- The first failing check of a list of file offsets and conditions: its offset. -/
def firstBad : List (Nat × Bool) → Option Nat
  | [] => none
  | (off, bad) :: r => if bad then some off else firstBad r

/-- A byte range lies beyond the image; the model's choice: so does an empty one whose offset does (log 117). -/
def beyond (size off n : Nat) : Bool := decide (size < off + n)

/-- Header fields (R91). `strict` says that reserved fields are checked: a minor version of 0. The model's choice: a launch offset of
zero with launches present is a range from 0 (log 117). -/
def headerBad (bs : List Byte) (strict : Bool) : Option Nat :=
  let f := fileField bs
  let size := f 16 8
  firstBad [
    (0, decide (bs.length < 128)),
    (0, f 0 4 != 0x31494B4E),
    (4, f 4 2 != 1),
    (8, strict && f 8 4 != 0),
    (12, f 12 4 != 128),
    (16, size != bs.length),
    (24, decide (f 24 4 = 0 ∨ 65536 < f 24 4)),
    (28, decide (65535 < f 28 4)),
    (32, decide (f 32 8 % 64 ≠ 0) || beyond size (f 32 8) (64 * f 24 4)),
    (40, decide (f 40 8 % 32 ≠ 0) || beyond size (f 40 8) (32 * f 28 4)),
    (48, beyond size (f 48 8) (8 * f 56 4)),
    (60, strict && f 60 4 != 0),
    (96, strict && (fileBytes bs 96 32).any (· != 0))]

/-- The manifest's digest. -/
def digestBad (bs : List Byte) : Bool :=
  sha256 (fileBytes bs (fileField bs 32 8) (64 * fileField bs 24 4)) != beValue (fileBytes bs 64 32)

/-- A manifest entry at an offset, after one for overlay number `prev` (R92). -/
def entryBad (bs : List Byte) (strict : Bool) (off : Nat) (prev : Option Nat) : Option Nat :=
  let f := fun o n => fileField bs (off + o) n
  firstBad [
    (off, match prev with | some p => decide (f 0 2 ≤ p) | none => false),
    (off + 2, strict && f 2 2 != 0),
    (off + 4, decide (f 4 4 % 4 ≠ 0 ∨ f 4 4 < 4 ∨ 65536 < f 4 4)),
    (off + 8, decide (f 8 8 % 4 ≠ 0) || beyond (fileField bs 16 8) (f 8 8) (f 4 4)),
    (off + 48, strict && (fileBytes bs (off + 48) 16).any (· != 0))]

/-- n manifest entries from an offset on. -/
def manifestBad (bs : List Byte) (strict : Bool) : Nat → Nat → Option Nat → Option Nat
  | 0, _, _ => none
  | n + 1, off, prev =>
    match entryBad bs strict off prev with
    | some o => some o
    | none => manifestBad bs strict n (off + 64) (some (fileField bs off 2))

/-- A section table entry (R93). -/
structure Sect where
  at_   : Nat
  kind  : Nat
  addr  : Nat
  size  : Nat
  bytes : List Byte

/-- Read the section table. -/
def sections (bs : List Byte) : List Sect :=
  (List.range (fileField bs 28 4)).map (fun i =>
    let off := fileField bs 40 8 + 32 * i
    ⟨off, fileField bs off 1, fileField bs (off + 8) 8, fileField bs (off + 16) 8,
      fileBytes bs (fileField bs (off + 24) 8) (fileField bs (off + 4) 4)⟩)

/-- A section's fields; a kind outside 1 to 4 fails too (log 108). -/
def sectBad (bs : List Byte) (strict : Bool) (x : Sect) : Option Nat :=
  let f := fun o n => fileField bs (x.at_ + o) n
  firstBad [
    (x.at_, decide (f 0 1 = 0 ∨ 4 < f 0 1)),
    (x.at_ + 1, decide (f 1 1 < 6 ∨ 16 < f 1 1)),
    (x.at_ + 2, strict && f 2 2 != 0),
    (x.at_ + 16, decide (x.size < f 4 4)),
    (x.at_ + 24, beyond (fileField bs 16 8) (f 24 8) (f 4 4))]

/-- Two sections of one kind overlap in memory: the later one's offset. An empty section occupies none. -/
def overlapBad : List Sect → Option Nat
  | [] => none
  | x :: r =>
    match r.find? (fun y => y.kind == x.kind && decide (0 < x.size ∧ 0 < y.size ∧ x.addr < y.addr + y.size ∧ y.addr < x.addr + x.size)) with
    | some y => some (y.at_ + 8)
    | none => overlapBad r

/-- The first of some results. -/
def firstSome : List (Option Nat) → Option Nat
  | [] => none
  | some o :: _ => some o
  | none :: r => firstSome r

/-- The file offset at which an image fails R94, none where it passes. -/
def nkiBad (bs : List Byte) : Option Nat :=
  let strict := fileField bs 6 2 == 0
  match headerBad bs strict with
  | some o => some o
  | none =>
    if digestBad bs then some 64
    else
      match manifestBad bs strict (fileField bs 24 4) (fileField bs 32 8) none with
      | some o => some o
      | none =>
        match firstSome ((sections bs).map (sectBad bs strict)) with
        | some o => some o
        | none => overlapBad (sections bs)

/-! ### Layout and loading (R252, R416) -/

/-- The image's overlays for the caddy. -/
def overlays (bs : List Byte) (image : Nat) : List Overlay :=
  (List.range (fileField bs 24 4)).map (fun i =>
    let off := fileField bs 32 8 + 64 * i
    ⟨fileField bs off 2, image, beValue (fileBytes bs (off + 16) 32), fileBytes bs (fileField bs (off + 8) 8) (fileField bs (off + 4) 4),
      false⟩)

/-- The scratchpad allocations an image asks for (R41). -/
def scratchOf (xs : List Sect) : List Scratch :=
  (xs.filter (fun x => x.kind == 3)).map (fun x => ⟨x.addr, roundUp x.size 256, x.bytes⟩)

/-- The allocations of a context fit: at most 32, on 256-byte bounds, no allocation under another's granule or the save
region, which begins at the offset given. -/
def scratchFits (save : Nat) : List Scratch → Bool
  | [] => true
  | a :: r =>
    decide (a.off % 256 = 0 ∧ a.off + a.size + 256 ≤ save ∧ r.length < 32) &&
      r.all (fun b => decide (a.off + a.size + 256 ≤ b.off ∨ b.off + b.size + 256 ≤ a.off)) && scratchFits save r

/-- The 64 KiB pages that a section touches. -/
def sectPages (x : Sect) : List Nat :=
  if x.size = 0 then []
  else (List.range ((x.addr + x.size - 1) / 2 ^ 16 - x.addr / 2 ^ 16 + 1)).map (fun i => x.addr / 2 ^ 16 + i)

/-- The window of a section's kind: the urn, else GDDR 7. -/
def sectWin (x : Sect) : Win := if x.kind = 2 then .urn else .gddr

/-- The virtual pages of an image, each once, with the window it must lie in. -/
def imagePages (xs : List Sect) : List (Nat × Win) :=
  (((xs.filter (fun x => x.kind != 3)).flatMap (fun x => (sectPages x).map (fun p => (p, sectWin x)))).eraseDups)

/-- No page is asked for in two windows. -/
def pagesAgree : List (Nat × Win) → Bool
  | [] => true
  | p :: r => r.all (fun q => q.1 != p.1) && pagesAgree r

/-- Map each page onto the place chosen for it; none where a page cannot be mapped: an address at or above 0xF_0000_0000_0000 has no
place that suits (log 117). -/
def mapImage (root : Nat) : List (Nat × Win) → List Nat → State → Option (State × List Nat)
  | [], blocks, s => some (s, blocks)
  | p :: r, places, s =>
    match places with
    | [] => none
    | pa :: rest =>
      if physWin pa = some p.2 then
        match mapImage root r rest s with
        | none => none
        | some (s1, blocks) => mapRange root .p64K true true false 1 (p.1 * 2 ^ 16) pa s1 blocks
      else none

/-- Write a section's bytes, zeros after them, page by page; its words are full and hold no error. -/
def loadSect (s : State) (root : Nat) (x : Sect) : State :=
  (sectPages x).foldl (fun st p =>
    let lo := if x.addr < p * 2 ^ 16 then p * 2 ^ 16 else x.addr
    let hi := if x.addr + x.size < (p + 1) * 2 ^ 16 then x.addr + x.size else (p + 1) * 2 ^ 16
    match walkTables st.mem lo 3 root with
    | some (e, size) =>
      let k := bits e 47 16 * 2 ^ 16 + lo % size
      let bs := (x.bytes.drop (lo - x.addr)).take (hi - lo)
      let st1 := pokeBytes (clearRange st k (hi - lo)) k bs
      { st1 with
        empties := st1.empties.filter (fun w => !decide (k ≤ w + 7 ∧ w < k + (hi - lo)))
        marks := st1.marks.filter (fun w => !decide (k ≤ w ∧ w < k + (hi - lo))) }
    | none => st) s

/-- The image cannot be laid out beside what its context has (R252, R416). The save region begins behind 1 MiB of scratchpad and the
granules of several allocations (R433, log 6). -/
def layoutBad (x : Context) (bs : List Byte) : Bool :=
  let all := x.scratch ++ scratchOf (sections bs)
  !(pagesAgree (imagePages (sections bs)) && scratchFits Core.init.saveBase all && decide (all.length ≤ 32))

/-- The device kernel has found no memory for the image's pages: it names no place at all (log 103). -/
def noMemory (bs : List Byte) (places : List Nat) : Bool := places.isEmpty && !(imagePages (sections bs)).isEmpty

/-- Lay an image out and load it: none where the places named do not suit. `places` holds a physical place for each virtual page of
the image, in the order of its sections, and then blocks for new tables. -/
def loadNki (s : State) (ctx : Nat) (x : Context) (bs : List Byte) (places : List Nat) : Option State :=
  let xs := sections bs
  let pages := imagePages xs
  let all := x.scratch ++ scratchOf xs
  if layoutBad x bs = false then
    match mapImage x.troot.toNat pages places s with
    | none => none
    | some (s1, _) =>
      let s2 := (xs.filter (fun y => y.kind != 3)).foldl (fun st y => loadSect st x.troot.toNat y) s1
      let ovs := overlays bs (x.images + 1)
      some (onCtx s2 ctx (fun y =>
        { y with
          caddy := y.caddy.filter (fun o => !ovs.any (fun n => n.num == o.num)) ++ ovs
          scratch := all
          images := y.images + 1 }))
  else none

end Sys2Proof.Machine
end

