-- ==== Sys2Proof/Machine/Commands.lean ====
section
/-! DEFINITION. The commands of the message port, the attestation report, the kernel slots and the handover (R415, R416, R428,
R429, R431, R432). -/
namespace Sys2Proof.Machine

/-! ### Completions -/

/-- Post a command's completion; the kernel's first one clears the start counter (R424). -/
def complete (s : State) (tag : BitVec 32) (ctx status : Nat) (args : List Nat) : State :=
  let first := s.dev.stage = 2 ∧ s.dev.cleared = false
  let s1 := if first then { s with dev := { s.dev with starts := 0, cleared := true, posted := true } } else s
  postEvent s1 ⟨0x80, ctx, tag, status, args⟩

/-! ### The command ring (R415) -/

/-- An entry of the command ring: its 64 bytes. -/
def ringEntry (s : State) (i : Nat) : List Byte :=
  memBytes s.mem (hostBase + s.dev.cmdBase + 64 * (i % s.dev.cmdSize)) 64

/-- The entries that a doorbell covers and that are not taken yet, in ring order. -/
def ringWaiting (s : State) : List Nat :=
  ((List.range (s.dev.cmdTail - s.dev.cmdHead)).map (s.dev.cmdHead + ·)).filter (fun i => !s.dev.cmdDone.contains i)

/-- An entry holds this command; its arguments stand from byte 16 on, eight bytes each, in the order in which R416 lists them. Bytes 8
to 15, the status and the reserved field, are not looked at: no rule states a fault for them (R6, log 109). -/
def entryIs (e : List Byte) (op ctx : Nat) (tag : BitVec 32) (args : List Nat) : Bool :=
  args.all (fun a => decide (a < 2 ^ 64)) && fileField e 0 2 == op && fileField e 2 2 == ctx && fileField e 4 4 == tag.toNat &&
    fileBytes e 16 (8 * args.length) == args.flatMap (leBytes 8)

/-- The entry to be taken for a command: the first that holds it, where no entry that waits before it names the same context. -/
def ringFind (s : State) (op ctx : Nat) (tag : BitVec 32) (args : List Nat) : Option Nat :=
  match (ringWaiting s).find? (fun i => entryIs (ringEntry s i) op ctx tag args) with
  | some i =>
    if (ringWaiting s).all (fun j => ctx == 0xFFFF || decide (i ≤ j) || fileField (ringEntry s j) 2 2 != ctx) then some i else none
  | none => none

/-- The head of the ring passes the entries that have been taken. -/
def ringPass : Nat → Device → Device
  | 0, v => v
  | n + 1, v =>
    if v.cmdDone.contains v.cmdHead then
      ringPass n { v with cmdHead := v.cmdHead + 1, cmdDone := v.cmdDone.filter (· != v.cmdHead) }
    else v

/-- Take an entry out of the ring. -/
def ringTake (s : State) (i : Nat) : State :=
  { s with dev := ringPass (s.dev.cmdDone.length + 1) { s.dev with cmdDone := i :: s.dev.cmdDone } }

/-- The entry to be taken for a command that needs no context, whatever its context field names: one that names none comes first. -/
def ringFindAny (s : State) (op : Nat) (tag : BitVec 32) (args : List Nat) : Option Nat :=
  (0xFFFF :: (ringWaiting s).map (fun i => fileField (ringEntry s i) 2 2)).findSome? (fun c => ringFind s op c tag args)

/-- Take a command from its entry of the ring: it waits there during a handover and before the kernel runs; minimal mode answers all
but two with status 8 (R428, R431). A command that the ring does not hold is none. -/
def onEntry (s : State) (at_ : Option Nat) (tag : BitVec 32) (ctx : Nat) (minimal : Bool) (f : State → State) :
    Host.Outcome State Fault Refusal :=
  match at_ with
  | none => .next s
  | some i =>
    if s.dev.handover.isSome then .next s
    else if kernelRuns s.dev then .next (f (ringTake s i))
    else if s.dev.stage = 3 then .next (if minimal then f (ringTake s i) else complete (ringTake s i) tag ctx 8 [])
    else .next s

/-- Take a command of a context. -/
def onCommand (s : State) (op : Nat) (tag : BitVec 32) (ctx : Nat) (args : List Nat) (minimal : Bool) (f : State → State) :
    Host.Outcome State Fault Refusal :=
  onEntry s (ringFind s op ctx tag args) tag ctx minimal f

/-- Take a command that needs no context (0x02, 0x07, 0x08, 0x09); its completion names none (log 109). -/
def onBare (s : State) (op : Nat) (tag : BitVec 32) (args : List Nat) (minimal : Bool) (f : State → State) :
    Host.Outcome State Fault Refusal :=
  onEntry s (ringFindAny s op tag args) tag 0xFFFF minimal f

/-- A command whose step is taken only where the kernel's choices suit it. -/
def orStay (s : State) (take : (State → State) → Host.Outcome State Fault Refusal) (f : State → Option State) :
    Host.Outcome State Fault Refusal :=
  take (fun s1 => (f s1).getD s)

/-- A command that names a context that is not live has no effect; the spec states no status for it (log 9). -/
def noContext (s : State) (tag : BitVec 32) (ctx : Nat) : State :=
  let v := freeVal s
  complete v.2 tag ctx (v.1.toNat % 2 ^ 32) []

/-- n bytes of host memory. -/
def hostBytes (s : State) (addr n : Nat) : List Byte := memBytes s.mem (hostBase + addr) n

/-- UNKNOWN_COMMAND: opcode 0x00 and those from 0x0A on (R416). -/
def execUnknownCommand (s : State) : Host.Outcome State Fault Refusal :=
  match s.event with
  | .unknownCommand tag op ctx =>
    if op = 0 ∨ 0x0A ≤ op then onCommand s op tag ctx [] false (fun s => complete s tag ctx 7 []) else .next s
  | _ => .next s

/-! ### Images and contexts -/

/-- LOAD_IMAGE (0x01). Places that do not suit are no choice of the kernel's, and nothing happens; the model's choice: a section that
no place suits keeps the command from completing (log 117). -/
def execLoadImage (s : State) : Host.Outcome State Fault Refusal :=
  match s.event with
  | .loadImage tag ctx addr len places =>
    orStay s (onCommand s 1 tag ctx [addr, len] false) (fun s =>
      match getCtx s ctx with
      | none => some (noContext s tag ctx)
      | some x =>
        let bs := hostBytes s addr len
        match nkiBad bs with
        | some off => some (complete s tag ctx 1 [off])
        | none =>
          if layoutBad x bs || noMemory bs places then some (complete s tag ctx 2 [])
          else (loadNki s ctx x bs places).map (fun s1 => complete s1 tag ctx 0 []))
  | _ => .next s

/-- The lowest number of no live context. -/
def freeContext (s : State) : Option Nat := (List.range 512).find? (fun n => (getCtx s n).isNone)

/-- A new context: its configuration and seed as the command gives them, everything else at rest (R278, R442). -/
def newContext (p q cfg : Word) (root portVa portKey : Nat) : Context :=
  { cfg := cfg &&& 0x1FF, pendCfg := none, troot := word root, rootNow := word root, rootAt := [], seedP := p, seedQ := q, epochP := p, epochQ := q, threads := 0,
    coreTbl := 0, routeTbl := 0, expTbl := 0, caddy := [], scratch := [], portVa := word portVa, portKey := portKey, portBy := 0, taskSeq := 0,
    taskMax := 0, images := 0, spares := [] }

/-- Make a context at the places the kernel chose: a block for its root table, a word of the urn for its launch port, the virtual
address of that word, and blocks for tables. The model's choice (log 124): the context is live from its creation on (R24), so a
launch of it finds it live (R378). -/
def makeContext (s : State) (n : Nat) (p q cfg : Word) (tables : List Nat) : Option State :=
  match tables with
  | root :: portPa :: portVa :: blocks =>
    if tableBlock root ∧ physWin portPa = some .urn ∧ portPa % 8 = 0 ∧ portVa % 2 ^ 16 = portPa % 2 ^ 16 then
      let s1 := clearRange s root (2 ^ 16)
      match mapRange root .p64K true true false 1 (portVa / 2 ^ 16 * 2 ^ 16) (portPa / 2 ^ 16 * 2 ^ 16) s1 blocks with
      | some (s2, _) =>
        some (setEmpty { s2 with contexts := mapPut s2.contexts n (newContext p q cfg root portVa portPa) } portPa)
      | none => none
    else none
  | _ => none

/-- CREATE_CONTEXT (0x02): places that do not suit are no choice of the kernel's, and nothing happens. -/
def execCreateContext (s : State) : Host.Outcome State Fault Refusal :=
  match s.event with
  | .createContext tag p q cfg tables =>
    orStay s (onBare s 2 tag [p.toNat, q.toNat, cfg.toNat] false) (fun s =>
      match freeContext s with
      | none => some (complete s tag 0xFFFF 3 [])
      | some n => (makeContext s n p q cfg tables).map (fun s1 => complete s1 tag n 0 [n, tables.getD 2 0]))
  | _ => .next s

/-- The context's launches that run, have accesses to be performed before their end is told (R285), or are to be restored. -/
def launchesHeld (s : State) (ctx : Nat) : Bool :=
  s.launches.any (fun l => l.ctx == ctx && (l.state == .running || l.state == .preempted || l.closing.isSome))

/-- END_CONTEXT (0x03). No core keeps a CTXCFG value of the number: a later context of that number has the value of its own command
(R442). -/
def execEndContext (s : State) : Host.Outcome State Fault Refusal :=
  match s.event with
  | .endContext tag ctx =>
    onCommand s 3 tag ctx [] false (fun s =>
      match getCtx s ctx with
      | none => noContext s tag ctx
      | some _ =>
        if launchesHeld s ctx then complete s tag ctx 4 []
        else
          let queued := s.launches.filter (fun l => l.ctx == ctx && l.state == .queued)
          let s1 := queued.foldl (fun st l => closeLaunch st l 3) s
          let cores := s1.cores.map (fun p => (p.1, { p.2 with cfg := mapDel p.2.cfg ctx }))
          complete (settleDeficits (tlbInvalidate { s1 with contexts := mapDel s1.contexts ctx, cores := cores } 1 ctx 0)) tag ctx 0 [])
  | _ => .next s

/-- SUBMIT_LAUNCH (0x04). -/
def execSubmitLaunch (s : State) : Host.Outcome State Fault Refusal :=
  match s.event with
  | .submitLaunch tag ctx addr =>
    onCommand s 4 tag ctx [addr] false (fun s =>
      let d := if addr + 256 ≤ 2 ^ 46 then some (leValue (hostBytes s addr 256)) else none
      let r := submitRecord s (word addr) d 0 ctx (fun n => (getCtx s n).isSome)
      complete r.2 tag ctx r.1 [])
  | _ => .next s

/-! ### Pages -/

/-- The page size of a command's size code: 0, 1 and 2 for 64 KiB, 2 MiB and 1 GiB; none for any other (log 109). -/
def pageSizeOf (code : Nat) : Option PageSize :=
  match code with
  | 0 => some .p64K
  | 1 => some .p2M
  | 2 => some .p1G
  | _ => none

/-- Every page of a range is valid under R249. -/
def rangeOk (va pa count : Nat) (size : PageSize) : Bool :=
  (List.range count).all (fun i => mappingOk (va + i * pageBytes size.level) (pa + i * pageBytes size.level) size)

/-- A larger page already stands where the walk to a level would go on: no table can stand there as well. -/
def pageAbove (s : State) (va target : Nat) : Nat → Nat → Bool
  | level, table =>
    let e := peek s (table + 8 * walkIndex va level) 8
    if level ≤ target ∨ e % 2 = 0 then false
    else if e / 2 % 2 = 1 then true
    else
      match level with
      | 0 => false
      | l + 1 => pageAbove s va target l (nbits e 47 16 * 2 ^ 16)

/-- The range can be mapped: valid pages, none within a larger page that is mapped (log 109). -/
def mapOk (s : State) (root va pa count : Nat) (size : PageSize) : Bool :=
  rangeOk va pa count size &&
    (List.range count).all (fun i => !pageAbove s (va + i * pageBytes size.level) size.level 3 root)

/-- MAP_PAGES (0x05): all pages or none; bits 0 to 2 of the permissions allow reads, writes, and privileged access alone (log 109). -/
def execMapPages (s : State) : Host.Outcome State Fault Refusal :=
  match s.event with
  | .mapPages tag ctx va pa count size perm tables =>
    orStay s (onCommand s 5 tag ctx [va.toNat, pa.toNat, count, size, perm] false) (fun s =>
      match getCtx s ctx, pageSizeOf size with
      | none, _ => some (noContext s tag ctx)
      | some _, none => some (complete s tag ctx 5 [])
      | some x, some sz =>
        let root := x.troot.toNat
        if mapOk s root va.toNat pa.toNat count sz && decide (perm < 8) then
          (mapRange root sz (perm.testBit 0) (perm.testBit 1) (perm.testBit 2) count va.toNat pa.toNat s tables).map
            (fun p => complete p.1 tag ctx 0 [])
        else some (complete s tag ctx 5 []))
  | _ => .next s

/-- UNMAP_PAGES (0x06); a size code that names no size names no page (log 109). -/
def execUnmapPages (s : State) : Host.Outcome State Fault Refusal :=
  match s.event with
  | .unmapPages tag ctx va count size =>
    onCommand s 6 tag ctx [va.toNat, count, size] false (fun s =>
      match getCtx s ctx, pageSizeOf size with
      | none, _ => noContext s tag ctx
      | some _, none => complete s tag ctx 0 []
      | some x, some sz => complete (unmapRange ctx x.troot.toNat sz count va.toNat s) tag ctx 0 [])
  | _ => .next s

/-! ### Attestation (R429) -/

/-- The report's bytes before the signature. -/
def reportBody (v : Device) (nonce : List Byte) : List Byte :=
  let n := (nonce ++ List.replicate 32 (0 : Byte)).take 32
  let state := (if v.stage = 3 then 1 else 0) + v.kslot % 4 * 2
  n ++ leBytes 16 Config.serial ++ beBytes 32 (sha256 v.stage1) ++ beBytes 32 v.kernelHash ++ leBytes 4 Config.rollbackCounter ++
    leBytes 4 state ++ leBytes 64 Config.identityKey

/-- The 256 bytes of the report. -/
def reportBytes (v : Device) (nonce : List Byte) : List Byte :=
  let body := reportBody v nonce
  body ++ leBytes 64 (Config.identitySign (sha256 body)) ++ List.replicate 8 (0 : Byte)

/-- A nonce of 32 bytes as four words of the command. -/
def nonceWords (nonce : List Byte) : List Nat := (List.range 4).map (fun i => leValue ((nonce.drop (8 * i)).take 8))

/-- ATTEST (0x07). -/
def execAttest (s : State) : Host.Outcome State Fault Refusal :=
  match s.event with
  | .attest tag nonce addr =>
    onBare s 7 tag (nonceWords nonce ++ [addr]) true (fun s =>
      complete (hostStore s addr (reportBytes s.dev nonce)) tag 0xFFFF 0 [])
  | _ => .next s

/-! ### Kernel slots and handover (R431, R432) -/

/-- The image of a kernel slot: A, B, or the stage-1 image. -/
def slotImage (v : Device) (slot : Nat) : List Byte :=
  match slot with
  | 0 => v.slotA
  | 1 => v.slotB
  | 2 => v.stage1
  | _ => []

/-- WRITE_KERNEL_SLOT (0x08): an image that fails R426 leaves the slot as it was. -/
def execWriteKernelSlot (s : State) : Host.Outcome State Fault Refusal :=
  match s.event with
  | .writeKernelSlot tag slot addr len =>
    onBare s 8 tag [slot, addr, len] true (fun s =>
      let bs := hostBytes s addr len
      if imageReason bs = 0 then
        match slot with
        | 0 => complete { s with dev := { s.dev with slotA := bs } } tag 0xFFFF 0 []
        | 1 => complete { s with dev := { s.dev with slotB := bs } } tag 0xFFFF 0 []
        | _ => noContext s tag 0xFFFF
      else complete s tag 0xFFFF 6 [])
  | _ => .next s

/-- Where the handover table lies. -/
def tableKey (s : State) : Nat := urnBase + s.dev.htbase * 2 ^ 16

/-- Five addresses of the device's own structures, of its choosing (log 9). -/
def freeWords (s : State) : Nat → List Word × State
  | 0 => ([], s)
  | n + 1 =>
    let v := freeVal s
    let r := freeWords v.2 n
    (v.1 :: r.1, r.2)

/-- A control core that restarts: it has no thread, no trap under way and no code. -/
def restartControl (co : Core) : Core :=
  { co with halted := false, queue := [], current := none, allocs := [], mons := [], poolBy := 0, im0 := .init, im1 := .init }

/-- The old kernel stops, writes the handover table and restarts the control cores (R431, R432). -/
def beginHandover (s : State) (slot : Nat) (tag : BitVec 32) : State :=
  let r := freeWords s 5
  let s1 := r.2
  let head := leBytes 4 0x31544856 ++ leBytes 2 1 ++ leBytes 1 s1.dev.kslot ++ leBytes 1 0 ++ leBytes 8 (s1.dev.generation + 1) ++
    r.1.flatMap (fun w => leBytes 8 w.toNat) ++ leBytes 8 0
  let table := head ++ beBytes 32 (sha256 head) ++ List.replicate 32 (0 : Byte)
  let s2 := pokeBytes s1 (tableKey s1) table
  let s3 := (List.range 16).foldl (fun st i =>
    (List.range 32).foldl (fun st t => putThread st (1088 + i) t Thread.free)
      (putCore st (1088 + i) (restartControl (getCore st (1088 + i))))) s2
  { s3 with dev := { s3.dev with handover := some (slot, tag), generation := s3.dev.generation + 1 } }

/-- The table is one a kernel adopts: magic, version and digest are right. -/
def tableOk (s : State) : Bool :=
  let bs := memBytes s.mem (tableKey s) 128
  fileField bs 0 4 == 0x31544856 && fileField bs 4 2 == 1 && sha256 (fileBytes bs 0 64) == beValue (fileBytes bs 64 32)

/-- A kernel slot adopts the table and resumes the ports: held events are posted, and the command completes. -/
def adopt (s : State) (slot status : Nat) (tag : BitVec 32) : State :=
  let s1 := { s with dev := { s.dev with handover := none, kslot := slot, kernelHash := sha256 (slotImage s.dev slot) } }
  complete (postHeld 4100 s1) tag 0xFFFF status []

/-- RESTART_KERNEL (0x09): the handover begins; while it runs, this step is the new kernel's adoption, for which its image passes
R426 once more. -/
def execRestartKernel (s : State) : Host.Outcome State Fault Refusal :=
  match s.event with
  | .restartKernel tag slot =>
    match s.dev.handover with
    | none => onBare s 9 tag [slot] false (fun s => beginHandover s slot tag)
    | some (n, t) =>
      if n = slot ∧ t = tag ∧ slot < 2 ∧ imageReason (slotImage s.dev slot) = 0 ∧ tableOk s = true then .next (adopt s slot 0 tag)
      else .next s
  | _ => .next s

/-- HANDOVER_TIMEOUT: the old slot adopts the same table instead (R431). -/
def execHandoverTimeout (s : State) : Host.Outcome State Fault Refusal :=
  match s.event with
  | .handoverTimeout =>
    match s.dev.handover with
    | some (_, tag) => if tableOk s then .next (adopt s s.dev.kslot 9 tag) else .next s
    | none => .next s
  | _ => .next s

end Sys2Proof.Machine
end

