-- ==== Sys2Proof/Machine/Control.lean ====
section
/-! DEFINITION. Branches and jumps (R144 to R146). -/
namespace Sys2Proof.Machine

/-- A branch: the condition chooses between the target of R50 and the successor. -/
def branchForm (s : State) (a b : RegNo) (off : BitVec 14) (test : Word → Word → Bool) : Except Stop State := do
  let r ← readOnlyForm s [a, b]
  let s1 := setCur s r.2
  match r.1 with
  | [x, y] => .ok (if test x y then retireTo s1 (pcOffset (cur s).pc (off.signExtend 16)) else retire s1)
  | _ => .ok (retire s1)

/-- `beq` (R144). -/
def execBeq (a b : RegNo) (off : BitVec 14) (s : State) := runBody s (branchForm s a b off (fun x y => x == y))

/-- `bne` (R144). -/
def execBne (a b : RegNo) (off : BitVec 14) (s : State) := runBody s (branchForm s a b off (fun x y => x != y))

/-- `blt` (R144). -/
def execBlt (a b : RegNo) (off : BitVec 14) (s : State) := runBody s (branchForm s a b off (fun x y => x.slt y))

/-- `bge` (R144). -/
def execBge (a b : RegNo) (off : BitVec 14) (s : State) := runBody s (branchForm s a b off (fun x y => !(x.slt y)))

/-- `bltz` (R144). -/
def execBltz (a b : RegNo) (off : BitVec 14) (s : State) := runBody s (branchForm s a b off (fun x y => x.ult y))

/-- `bgez` (R144). -/
def execBgez (a b : RegNo) (off : BitVec 14) (s : State) := runBody s (branchForm s a b off (fun x y => !(x.ult y)))

/-- `jal` (R145). -/
def execJal (d : RegNo) (imm : BitVec 20) (s : State) :=
  runBody s (do
    let r ← readForm s [] d
    let pc := (cur s).pc
    .ok (retireTo (writeReg (setCur s r.2) d (pcWord (pcNext pc))) (pcOffset pc (imm.setWidth 16))))

/-- `jalr`: the target is read before the link is written; one with bits 63:32 or 1:0 set raises 0x03 (R74, R146). -/
def execJalr (d a : RegNo) (imm : BitVec 14) (s : State) :=
  runBody s (do
    let r ← readForm s [a] d
    let t := on1 (fun x => x + imm.signExtend 64) r.1
    if bits t 63 32 ≠ 0 ∨ bits t 1 0 ≠ 0 then .error (.trap 0x03 t)
    else .ok (retireTo (writeReg (setCur s r.2) d (pcWord (pcNext (cur s).pc))) (t.setWidth 32)))

end Sys2Proof.Machine
end

