-- ==== Sys2Proof/Machine/Fp.lean ====
section
/-! DEFINITION. Scalar floating point (R138 to R143). -/
namespace Sys2Proof.Machine

/-- A binary operation of one format, rounded under RF. -/
def fpBinary (s : State) (d a b : RegNo) (rf : Rf) (fm : Fmt2) (op : Fmt → Env → Word → Nat → Nat → FOut) : Except Stop State :=
  let f := Fmt2.fmt fm
  fpForm s [a, b] d (fp2 (fun w x y => (op f (curEnv s rf) w (lowBits f x) (lowBits f y)).result))

/-- A unary operation of one format. -/
def fpUnary (s : State) (d a : RegNo) (rf : Rf) (fm : Fmt2) (op : Fmt → Env → Word → Nat → FOut) : Except Stop State :=
  let f := Fmt2.fmt fm
  fpForm s [a] d (fp1 (fun w x => (op f (curEnv s rf) w (lowBits f x)).result))

/-- A comparison: 1 or 0, with flags. -/
def fpTest (s : State) (d a b : RegNo) (fm : Fmt2) (quiet : Bool) (test : Int → Bool) : Except Stop State :=
  let f := Fmt2.fmt fm
  fpForm s [a, b] d (fp2 (fun _ x y =>
    let r := fpCompare f (curEnv s .rne) quiet test (lowBits f x) (lowBits f y)
    ⟨boolWord r.1, r.2, false⟩))

/-- Sign injection: bits copied exactly, a new sign, nothing raised (R139). -/
def signInject (f : Fmt) (sign : Bool → Bool → Bool) (x y : Word) : Word :=
  let a := lowBits f x
  word (a % 2 ^ f.magBits + f.signBit (sign (a.testBit f.magBits) ((lowBits f y).testBit f.magBits)))

/-- The formats of `fcvt` results (R68). -/
def FcvtTo.fmt : FcvtTo → Fmt
  | .f64 => .f64 | .f32 => .f32 | .f16 => .f16 | .bf16 => .bf16 | .e4m3 => .e4m3 | .e5m2 => .e5m2 | .e3m2 => .e3m2
  | .e2m3 => .e2m3 | .e2m1 => .e2m1

/-- Width and signedness of the integer side of a conversion. -/
def IntTo.width : IntTo → Nat | .i32 | .z32 => 32 | .i64 | .z64 => 64
def IntTo.signed : IntTo → Bool | .i32 | .i64 => true | .z32 | .z64 => false

/-- The integer source of `icvtf`: 32-bit sources from the low bits, extended by their own signedness (R129). -/
def intSource (t : IntTo) (x : Word) : Int :=
  if IntTo.signed t then toSigned (IntTo.width t) x.toNat else ((x.toNat % 2 ^ IntTo.width t : Nat) : Int)

/-- `fadd` (R138). -/
def execFadd (d a b : RegNo) (rf : Rf) (fmt : Fmt2) (s : State) := runBody s (fpBinary s d a b rf fmt fpAdd)

/-- `fsub` (R138). -/
def execFsub (d a b : RegNo) (rf : Rf) (fmt : Fmt2) (s : State) := runBody s (fpBinary s d a b rf fmt fpSub)

/-- `fmul` (R138). -/
def execFmul (d a b : RegNo) (rf : Rf) (fmt : Fmt2) (s : State) := runBody s (fpBinary s d a b rf fmt fpMul)

/-- `fdiv`: the result arrives later (R126, R138). -/
def execFdiv (d a b : RegNo) (rf : Rf) (fmt : Fmt2) (s : State) :=
  let f := Fmt2.fmt fmt
  runBody s (fpLaterForm s [a, b] d (fp2 (fun w x y => (fpDiv f (curEnv s rf) w (lowBits f x) (lowBits f y)).result)))

/-- `fsqrt`: the result arrives later (R126, R138). -/
def execFsqrt (d a : RegNo) (rf : Rf) (fmt : Fmt2) (s : State) :=
  let f := Fmt2.fmt fmt
  runBody s (fpLaterForm s [a] d (fp1 (fun w x => (fpSqrt f (curEnv s rf) w (lowBits f x)).result)))

/-- `frcps` (R122). -/
def execFrcps (d a b : RegNo) (rf : Rf) (fmt : Fmt2) (s : State) := runBody s (fpBinary s d a b rf fmt fpRcps)

/-- `frsqs` (R122). -/
def execFrsqs (d a b : RegNo) (rf : Rf) (fmt : Fmt2) (s : State) := runBody s (fpBinary s d a b rf fmt fpRsqs)

/-- `frcp` (R119). -/
def execFrcp (d a : RegNo) (rf : Rf) (fmt : Fmt2) (s : State) := runBody s (fpUnary s d a rf fmt (fun f e _ x => fpRcp f e x))

/-- `frsq` (R120). -/
def execFrsq (d a : RegNo) (rf : Rf) (fmt : Fmt2) (s : State) := runBody s (fpUnary s d a rf fmt (fun f e _ x => fpRsq f e x))

/-- `fmin` (R139). -/
def execFmin (d a b : RegNo) (fmt : Fmt2) (s : State) :=
  runBody s (fpBinary s d a b .rne fmt (fun f e _ x y => fpMinMax f e false x y))

/-- `fmax` (R139). -/
def execFmax (d a b : RegNo) (fmt : Fmt2) (s : State) :=
  runBody s (fpBinary s d a b .rne fmt (fun f e _ x y => fpMinMax f e true x y))

/-- `fsgnj` (R139). -/
def execFsgnj (d a b : RegNo) (fmt : Fmt2) (s : State) := binary s d a b (signInject (Fmt2.fmt fmt) (fun _ y => y))

/-- `fsgnjn` (R139). -/
def execFsgnjn (d a b : RegNo) (fmt : Fmt2) (s : State) := binary s d a b (signInject (Fmt2.fmt fmt) (fun _ y => !y))

/-- `fsgnjx` (R139). -/
def execFsgnjx (d a b : RegNo) (fmt : Fmt2) (s : State) := binary s d a b (signInject (Fmt2.fmt fmt) (fun x y => x != y))

/-- `feq`: invalid for a signalling NaN only (R139). -/
def execFeq (d a b : RegNo) (fmt : Fmt2) (s : State) := runBody s (fpTest s d a b fmt true (fun c => c == 0))

/-- `flt`: invalid for any NaN (R139). -/
def execFlt (d a b : RegNo) (fmt : Fmt2) (s : State) := runBody s (fpTest s d a b fmt false (fun c => decide (c < 0)))

/-- `fle`: invalid for any NaN (R139). -/
def execFle (d a b : RegNo) (fmt : Fmt2) (s : State) := runBody s (fpTest s d a b fmt false (fun c => decide (c ≤ 0)))

/-- `fclass`: one bit, no flag, no flush (R140). -/
def execFclass (d a : RegNo) (fmt : Fmt2) (s : State) :=
  unary s d a (fun x => word (2 ^ fpClass (Fmt2.fmt fmt) (lowBits (Fmt2.fmt fmt) x)))

/-- `fcvt` (R141). -/
def execFcvt (d a : RegNo) (dst : FcvtTo) (rf : Rf) (fmt : Fmt2) (s : State) :=
  runBody s (fpUnary s d a rf fmt (fun f e w x => convertFmt (FcvtTo.fmt dst) f e w x))

/-- `fcvti`: sign- or zero-extended to 64 bits by the target's suffix (R141). -/
def execFcvti (d a : RegNo) (dst : IntTo) (rf : Rf) (fmt : Fmt2) (s : State) :=
  let f := Fmt2.fmt fmt
  runBody s (fpForm s [a] d (fp1 (fun w x =>
    let r := roundInt (IntTo.width dst) (IntTo.signed dst) rf w (operand f (curEnv s rf) (lowBits f x))
    ⟨BitVec.ofInt 64 r.1, r.2.1, r.2.2⟩)))

/-- `icvtf` (R141). -/
def execIcvtf (d a : RegNo) (src : IntTo) (rf : Rf) (fmt : Fmt2) (s : State) :=
  runBody s (fpForm s [a] d (fp1 (fun w x =>
    (roundFmt (Fmt2.fmt fmt) (curEnv s rf) w (intVal (intSource src x))).result)))

/-- A fused multiply-add of one format, to nearest even (R142). -/
def fpFused (s : State) (d a b c : RegNo) (f : Fmt) (negC : Bool) : Except Stop State :=
  fpForm s [a, b, c] d (fp3 (fun w x y z =>
    (fpFma f (curEnv s .rne) w negC (lowBits f x) (lowBits f y) (lowBits f z)).result))

/-- `fma.f64` (R142). -/
def execFmaF64 (d a b c : RegNo) (s : State) := runBody s (fpFused s d a b c .f64 false)

/-- `fms.f64` (R142). -/
def execFmsF64 (d a b c : RegNo) (s : State) := runBody s (fpFused s d a b c .f64 true)

/-- `fma.f32` (R142). -/
def execFmaF32 (d a b c : RegNo) (s : State) := runBody s (fpFused s d a b c .f32 false)

/-- `fms.f32` (R142). -/
def execFmsF32 (d a b c : RegNo) (s : State) := runBody s (fpFused s d a b c .f32 true)

end Sys2Proof.Machine
end

