-- ==== Sys2Proof/Machine/Dispatch.lean ====
section
/-! DEFINITION. What each instruction does: one arm per constructor of Instr, each a direct call of its meaning. -/
namespace Sys2Proof.Machine

/-- One step of the opcode table in a state. -/
def exec (i : Instr) (s : State) : Host.Outcome State Fault Refusal :=
  match i with
  | .add d a b => Sys2Proof.Machine.execAdd d a b s
  | .sub d a b => Sys2Proof.Machine.execSub d a b s
  | .and d a b => Sys2Proof.Machine.execAnd d a b s
  | .or d a b => Sys2Proof.Machine.execOr d a b s
  | .xor d a b => Sys2Proof.Machine.execXor d a b s
  | .andn d a b => Sys2Proof.Machine.execAndn d a b s
  | .orn d a b => Sys2Proof.Machine.execOrn d a b s
  | .xnor d a b => Sys2Proof.Machine.execXnor d a b s
  | .shl d a b => Sys2Proof.Machine.execShl d a b s
  | .shr d a b => Sys2Proof.Machine.execShr d a b s
  | .sar d a b => Sys2Proof.Machine.execSar d a b s
  | .rol d a b => Sys2Proof.Machine.execRol d a b s
  | .ror d a b => Sys2Proof.Machine.execRor d a b s
  | .slt d a b => Sys2Proof.Machine.execSlt d a b s
  | .sltz d a b => Sys2Proof.Machine.execSltz d a b s
  | .seq d a b => Sys2Proof.Machine.execSeq d a b s
  | .sne d a b => Sys2Proof.Machine.execSne d a b s
  | .min d a b => Sys2Proof.Machine.execMin d a b s
  | .max d a b => Sys2Proof.Machine.execMax d a b s
  | .minz d a b => Sys2Proof.Machine.execMinz d a b s
  | .maxz d a b => Sys2Proof.Machine.execMaxz d a b s
  | .qadd d a b => Sys2Proof.Machine.execQadd d a b s
  | .qaddz d a b => Sys2Proof.Machine.execQaddz d a b s
  | .qsub d a b => Sys2Proof.Machine.execQsub d a b s
  | .qsubz d a b => Sys2Proof.Machine.execQsubz d a b s
  | .abs d a => Sys2Proof.Machine.execAbs d a s
  | .sextI8 d a => Sys2Proof.Machine.execSextI8 d a s
  | .sextI16 d a => Sys2Proof.Machine.execSextI16 d a s
  | .sextI32 d a => Sys2Proof.Machine.execSextI32 d a s
  | .zextZ8 d a => Sys2Proof.Machine.execZextZ8 d a s
  | .zextZ16 d a => Sys2Proof.Machine.execZextZ16 d a s
  | .zextZ32 d a => Sys2Proof.Machine.execZextZ32 d a s
  | .addi d a imm => Sys2Proof.Machine.execAddi d a imm s
  | .andi d a imm => Sys2Proof.Machine.execAndi d a imm s
  | .ori d a imm => Sys2Proof.Machine.execOri d a imm s
  | .xori d a imm => Sys2Proof.Machine.execXori d a imm s
  | .shli d a n => Sys2Proof.Machine.execShli d a n s
  | .shri d a n => Sys2Proof.Machine.execShri d a n s
  | .sari d a n => Sys2Proof.Machine.execSari d a n s
  | .rori d a n => Sys2Proof.Machine.execRori d a n s
  | .slti d a imm => Sys2Proof.Machine.execSlti d a imm s
  | .lih d imm => Sys2Proof.Machine.execLih d imm s
  | .pcadd d imm => Sys2Proof.Machine.execPcadd d imm s
  | .mul d a b => Sys2Proof.Machine.execMul d a b s
  | .mulh d a b => Sys2Proof.Machine.execMulh d a b s
  | .mulhz d a b => Sys2Proof.Machine.execMulhz d a b s
  | .div d a b => Sys2Proof.Machine.execDiv d a b s
  | .divz d a b => Sys2Proof.Machine.execDivz d a b s
  | .rem d a b => Sys2Proof.Machine.execRem d a b s
  | .remz d a b => Sys2Proof.Machine.execRemz d a b s
  | .clmul d a b => Sys2Proof.Machine.execClmul d a b s
  | .clmulh d a b => Sys2Proof.Machine.execClmulh d a b s
  | .pop d a => Sys2Proof.Machine.execPop d a s
  | .clz d a => Sys2Proof.Machine.execClz d a s
  | .ctz d a => Sys2Proof.Machine.execCtz d a s
  | .bext d a b => Sys2Proof.Machine.execBext d a b s
  | .bins d a b => Sys2Proof.Machine.execBins d a b s
  | .sel d a b => Sys2Proof.Machine.execSel d a b s
  | .brev d a => Sys2Proof.Machine.execBrev d a s
  | .bswap d a => Sys2Proof.Machine.execBswap d a s
  | .fadd d a b rf fmt => Sys2Proof.Machine.execFadd d a b rf fmt s
  | .fsub d a b rf fmt => Sys2Proof.Machine.execFsub d a b rf fmt s
  | .fmul d a b rf fmt => Sys2Proof.Machine.execFmul d a b rf fmt s
  | .fdiv d a b rf fmt => Sys2Proof.Machine.execFdiv d a b rf fmt s
  | .frcps d a b rf fmt => Sys2Proof.Machine.execFrcps d a b rf fmt s
  | .frsqs d a b rf fmt => Sys2Proof.Machine.execFrsqs d a b rf fmt s
  | .fmin d a b fmt => Sys2Proof.Machine.execFmin d a b fmt s
  | .fmax d a b fmt => Sys2Proof.Machine.execFmax d a b fmt s
  | .fsgnj d a b fmt => Sys2Proof.Machine.execFsgnj d a b fmt s
  | .fsgnjn d a b fmt => Sys2Proof.Machine.execFsgnjn d a b fmt s
  | .fsgnjx d a b fmt => Sys2Proof.Machine.execFsgnjx d a b fmt s
  | .feq d a b fmt => Sys2Proof.Machine.execFeq d a b fmt s
  | .flt d a b fmt => Sys2Proof.Machine.execFlt d a b fmt s
  | .fle d a b fmt => Sys2Proof.Machine.execFle d a b fmt s
  | .fsqrt d a rf fmt => Sys2Proof.Machine.execFsqrt d a rf fmt s
  | .frcp d a rf fmt => Sys2Proof.Machine.execFrcp d a rf fmt s
  | .frsq d a rf fmt => Sys2Proof.Machine.execFrsq d a rf fmt s
  | .fclass d a fmt => Sys2Proof.Machine.execFclass d a fmt s
  | .fcvt d a dst rf fmt => Sys2Proof.Machine.execFcvt d a dst rf fmt s
  | .fcvti d a dst rf fmt => Sys2Proof.Machine.execFcvti d a dst rf fmt s
  | .icvtf d a src rf fmt => Sys2Proof.Machine.execIcvtf d a src rf fmt s
  | .fmaF64 d a b c => Sys2Proof.Machine.execFmaF64 d a b c s
  | .fmsF64 d a b c => Sys2Proof.Machine.execFmsF64 d a b c s
  | .fmaF32 d a b c => Sys2Proof.Machine.execFmaF32 d a b c s
  | .fmsF32 d a b c => Sys2Proof.Machine.execFmsF32 d a b c s
  | .ldI8 d a imm => Sys2Proof.Machine.execLdI8 d a imm s
  | .ldZ8 d a imm => Sys2Proof.Machine.execLdZ8 d a imm s
  | .ldI16 d a imm => Sys2Proof.Machine.execLdI16 d a imm s
  | .ldZ16 d a imm => Sys2Proof.Machine.execLdZ16 d a imm s
  | .ldI32 d a imm => Sys2Proof.Machine.execLdI32 d a imm s
  | .ldZ32 d a imm => Sys2Proof.Machine.execLdZ32 d a imm s
  | .ldI64 d a imm => Sys2Proof.Machine.execLdI64 d a imm s
  | .ldx d a b width => Sys2Proof.Machine.execLdx d a b width s
  | .ldf d a b scope => Sys2Proof.Machine.execLdf d a b scope s
  | .lde d a b scope => Sys2Proof.Machine.execLde d a b scope s
  | .ldrd d a b op => Sys2Proof.Machine.execLdrd d a b op s
  | .fstat d a b => Sys2Proof.Machine.execFstat d a b s
  | .stI8 b a imm => Sys2Proof.Machine.execStI8 b a imm s
  | .stI16 b a imm => Sys2Proof.Machine.execStI16 b a imm s
  | .stI32 b a imm => Sys2Proof.Machine.execStI32 b a imm s
  | .stI64 b a imm => Sys2Proof.Machine.execStI64 b a imm s
  | .amo d a b op os => Sys2Proof.Machine.execAmo d a b op os s
  | .red a b op os => Sys2Proof.Machine.execRed a b op os s
  | .cas d a b os => Sys2Proof.Machine.execCas d a b os s
  | .stf a b scope => Sys2Proof.Machine.execStf a b scope s
  | .ste d a b scope => Sys2Proof.Machine.execSte d a b scope s
  | .fen pset sset scope => Sys2Proof.Machine.execFen pset sset scope s
  | .wait lcnt scnt ccnt mcnt => Sys2Proof.Machine.execWait lcnt scnt ccnt mcnt s
  | .bar a => Sys2Proof.Machine.execBar a s
  | .beq a b off => Sys2Proof.Machine.execBeq a b off s
  | .bne a b off => Sys2Proof.Machine.execBne a b off s
  | .blt a b off => Sys2Proof.Machine.execBlt a b off s
  | .bge a b off => Sys2Proof.Machine.execBge a b off s
  | .bltz a b off => Sys2Proof.Machine.execBltz a b off s
  | .bgez a b off => Sys2Proof.Machine.execBgez a b off s
  | .jal d imm => Sys2Proof.Machine.execJal d imm s
  | .jalr d a imm => Sys2Proof.Machine.execJalr d a imm s
  | .crt d a => Sys2Proof.Machine.execCrt d a s
  | .sync d a => Sys2Proof.Machine.execSync d a s
  | .brk a => Sys2Proof.Machine.execBrk a s
  | .fput n a b => Sys2Proof.Machine.execFput n a b s
  | .fputS n a b => Sys2Proof.Machine.execFputS n a b s
  | .fget d a n => Sys2Proof.Machine.execFget d a n s
  | .fgetS d a n => Sys2Proof.Machine.execFgetS d a n s
  | .fgetBrk d a => Sys2Proof.Machine.execFgetBrk d a s
  | .qry d n => Sys2Proof.Machine.execQry d n s
  | .tenq a b => Sys2Proof.Machine.execTenq a b s
  | .ksendB0 a b => Sys2Proof.Machine.execKsendB0 a b s
  | .ksendB1 a b => Sys2Proof.Machine.execKsendB1 a b s
  | .ksendB2 a b => Sys2Proof.Machine.execKsendB2 a b s
  | .ksendB3 a b => Sys2Proof.Machine.execKsendB3 a b s
  | .wta d a => Sys2Proof.Machine.execWta d a s
  | .wtw d => Sys2Proof.Machine.execWtw d s
  | .wtd a => Sys2Proof.Machine.execWtd a s
  | .stm a b => Sys2Proof.Machine.execStm a b s
  | .rxaB0 a => Sys2Proof.Machine.execRxaB0 a s
  | .rxaB1 a => Sys2Proof.Machine.execRxaB1 a s
  | .rxaB2 a => Sys2Proof.Machine.execRxaB2 a s
  | .rxaB3 a => Sys2Proof.Machine.execRxaB3 a s
  | .ewr e a => Sys2Proof.Machine.execEwr e a s
  | .erd d e => Sys2Proof.Machine.execErd d e s
  | .sbind d a => Sys2Proof.Machine.execSbind d a s
  | .sunb d => Sys2Proof.Machine.execSunb d s
  | .rnd d => Sys2Proof.Machine.execRnd d s
  | .cpy a b => Sys2Proof.Machine.execCpy a b s
  | .chn a b => Sys2Proof.Machine.execChn a b s
  | .ovl d a b => Sys2Proof.Machine.execOvl d a b s
  | .coll a => Sys2Proof.Machine.execColl a s
  | .mma a b fmt => Sys2Proof.Machine.execMma a b fmt s
  | .mmasS24 a b fmt => Sys2Proof.Machine.execMmasS24 a b fmt s
  | .mmasS48 a b fmt => Sys2Proof.Machine.execMmasS48 a b fmt s
  | .mmag a b fmt => Sys2Proof.Machine.execMmag a b fmt s
  | .mrc d a b fmt => Sys2Proof.Machine.execMrc d a b fmt s
  | .macc t a b fmt => Sys2Proof.Machine.execMacc t a b fmt s
  | .mclr a => Sys2Proof.Machine.execMclr a s
  | .mdrn a b fmt => Sys2Proof.Machine.execMdrn a b fmt s
  | .edge a => Sys2Proof.Machine.execEdge a s
  | .mbs a b fmt => Sys2Proof.Machine.execMbs a b fmt s
  | .mss a b fmt => Sys2Proof.Machine.execMss a b fmt s
  | .dpf a b => Sys2Proof.Machine.execDpf a b s
  | .trap n => Sys2Proof.Machine.execTrap n s
  | .sysr d n => Sys2Proof.Machine.execSysr d n s
  | .sysw a n => Sys2Proof.Machine.execSysw a n s
  | .tlbi a b => Sys2Proof.Machine.execTlbi a b s
  | .ctxs a => Sys2Proof.Machine.execCtxs a s
  | .ctxr d a => Sys2Proof.Machine.execCtxr d a s
  | .seal a => Sys2Proof.Machine.execSeal a s
  | .capw a b => Sys2Proof.Machine.execCapw a b s
  | .capr d a => Sys2Proof.Machine.execCapr d a s
  | .tbr d => Sys2Proof.Machine.execTbr d s
  | .ovli a => Sys2Proof.Machine.execOvli a s
  | .vaddInt td ta tb sh mask => Sys2Proof.Machine.execVaddInt td ta tb sh mask s
  | .vsubInt td ta tb sh mask => Sys2Proof.Machine.execVsubInt td ta tb sh mask s
  | .vmulInt td ta tb sh mask => Sys2Proof.Machine.execVmulInt td ta tb sh mask s
  | .vmulh td ta tb sh mask => Sys2Proof.Machine.execVmulh td ta tb sh mask s
  | .vmacInt td ta tb sh mask => Sys2Proof.Machine.execVmacInt td ta tb sh mask s
  | .vqadd td ta tb sh mask => Sys2Proof.Machine.execVqadd td ta tb sh mask s
  | .vqsub td ta tb sh mask => Sys2Proof.Machine.execVqsub td ta tb sh mask s
  | .vminInt td ta tb sh mask => Sys2Proof.Machine.execVminInt td ta tb sh mask s
  | .vmaxInt td ta tb sh mask => Sys2Proof.Machine.execVmaxInt td ta tb sh mask s
  | .vabsInt td ta sh mask => Sys2Proof.Machine.execVabsInt td ta sh mask s
  | .vnegInt td ta sh mask => Sys2Proof.Machine.execVnegInt td ta sh mask s
  | .vavg td ta tb sh mask => Sys2Proof.Machine.execVavg td ta tb sh mask s
  | .vaddFp td ta tb sh mask rf => Sys2Proof.Machine.execVaddFp td ta tb sh mask rf s
  | .vsubFp td ta tb sh mask rf => Sys2Proof.Machine.execVsubFp td ta tb sh mask rf s
  | .vmulFp td ta tb sh mask rf => Sys2Proof.Machine.execVmulFp td ta tb sh mask rf s
  | .vdiv td ta tb sh mask rf => Sys2Proof.Machine.execVdiv td ta tb sh mask rf s
  | .vmacFp td ta tb sh mask rf => Sys2Proof.Machine.execVmacFp td ta tb sh mask rf s
  | .vminFp td ta tb sh mask rf => Sys2Proof.Machine.execVminFp td ta tb sh mask rf s
  | .vmaxFp td ta tb sh mask rf => Sys2Proof.Machine.execVmaxFp td ta tb sh mask rf s
  | .vabsFp td ta sh mask => Sys2Proof.Machine.execVabsFp td ta sh mask s
  | .vnegFp td ta sh mask => Sys2Proof.Machine.execVnegFp td ta sh mask s
  | .vsqrt td ta sh mask rf => Sys2Proof.Machine.execVsqrt td ta sh mask rf s
  | .vand td ta tb sh mask => Sys2Proof.Machine.execVand td ta tb sh mask s
  | .vor td ta tb sh mask => Sys2Proof.Machine.execVor td ta tb sh mask s
  | .vxor td ta tb sh mask => Sys2Proof.Machine.execVxor td ta tb sh mask s
  | .vandn td ta tb sh mask => Sys2Proof.Machine.execVandn td ta tb sh mask s
  | .vnot td ta sh mask => Sys2Proof.Machine.execVnot td ta sh mask s
  | .vshl td ta tb sh mask => Sys2Proof.Machine.execVshl td ta tb sh mask s
  | .vshr td ta tb sh mask => Sys2Proof.Machine.execVshr td ta tb sh mask s
  | .vsar td ta tb sh mask => Sys2Proof.Machine.execVsar td ta tb sh mask s
  | .vclmul td ta tb sh mask => Sys2Proof.Machine.execVclmul td ta tb sh mask s
  | .vceq td ta tb sh mask => Sys2Proof.Machine.execVceq td ta tb sh mask s
  | .vclt td ta tb sh mask => Sys2Proof.Machine.execVclt td ta tb sh mask s
  | .vcle td ta tb sh mask => Sys2Proof.Machine.execVcle td ta tb sh mask s
  | .vmov td ta sh mask => Sys2Proof.Machine.execVmov td ta sh mask s
  | .vbcast td ta sh mask => Sys2Proof.Machine.execVbcast td ta sh mask s
  | .vtrn td ta sh mask => Sys2Proof.Machine.execVtrn td ta sh mask s
  | .vperm td ta tb sh mask => Sys2Proof.Machine.execVperm td ta tb sh mask s
  | .vcpr td ta tb sh => Sys2Proof.Machine.execVcpr td ta tb sh s
  | .vexd td ta tb sh => Sys2Proof.Machine.execVexd td ta tb sh s
  | .vscan td ta sh mask => Sys2Proof.Machine.execVscan td ta sh mask s
  | .vrsum td ta sh mask => Sys2Proof.Machine.execVrsum td ta sh mask s
  | .vrmin td ta sh mask => Sys2Proof.Machine.execVrmin td ta sh mask s
  | .vrmax td ta sh mask => Sys2Proof.Machine.execVrmax td ta sh mask s
  | .vrot td ta tb sh mask => Sys2Proof.Machine.execVrot td ta tb sh mask s
  | .vld td b sh => Sys2Proof.Machine.execVld td b sh s
  | .vst td b sh => Sys2Proof.Machine.execVst td b sh s
  | .vldg td ta b sh => Sys2Proof.Machine.execVldg td ta b sh s
  | .vstg td ta b sh => Sys2Proof.Machine.execVstg td ta b sh s
  | .vcvt td ta shx sh mask rf => Sys2Proof.Machine.execVcvt td ta shx sh mask rf s
  | .vexp2 td ta sh mask rf => Sys2Proof.Machine.execVexp2 td ta sh mask rf s
  | .vlog2 td ta sh mask rf => Sys2Proof.Machine.execVlog2 td ta sh mask rf s
  | .vrcp td ta sh mask rf => Sys2Proof.Machine.execVrcp td ta sh mask rf s
  | .vrsq td ta sh mask rf => Sys2Proof.Machine.execVrsq td ta sh mask rf s
  | .vrcps td ta tb sh mask rf => Sys2Proof.Machine.execVrcps td ta tb sh mask rf s
  | .vrsqs td ta tb sh mask rf => Sys2Proof.Machine.execVrsqs td ta tb sh mask rf s
  | .vrnd td sh mask => Sys2Proof.Machine.execVrnd td sh mask s
  | .vclr td sh mask => Sys2Proof.Machine.execVclr td sh mask s
  | .vpop td ta sh mask => Sys2Proof.Machine.execVpop td ta sh mask s
  | .vsh d a sh fmt => Sys2Proof.Machine.execVsh d a sh fmt s
  | .vshq d sh => Sys2Proof.Machine.execVshq d sh s
  | .vmsk td b sh => Sys2Proof.Machine.execVmsk td b sh s
  | .vadds td ta b sh rf => Sys2Proof.Machine.execVadds td ta b sh rf s
  | .vsubs td ta b sh rf => Sys2Proof.Machine.execVsubs td ta b sh rf s
  | .vmuls td ta b sh rf => Sys2Proof.Machine.execVmuls td ta b sh rf s
  | .vmins td ta b sh rf => Sys2Proof.Machine.execVmins td ta b sh rf s
  | .vmaxs td ta b sh rf => Sys2Proof.Machine.execVmaxs td ta b sh rf s
  | .vsplat td b sh => Sys2Proof.Machine.execVsplat td b sh s
  | .vext ta d sh => Sys2Proof.Machine.execVext ta d sh s
  | .vins td b sh => Sys2Proof.Machine.execVins td b sh s
  | .nop x => Sys2Proof.Machine.execNop x s
  | .ovlh x => Sys2Proof.Machine.execOvlh x s
  | .hintDest hi d x => Sys2Proof.Machine.execHintDest hi d x s
  | .exit => Sys2Proof.Machine.execExit s
  | .yield => Sys2Proof.Machine.execYield s
  | .texit => Sys2Proof.Machine.execTexit s
  | .tirr => Sys2Proof.Machine.execTirr s
  | .eret => Sys2Proof.Machine.execEret s
  | .halt => Sys2Proof.Machine.execHalt s
  | .idle => Sys2Proof.Machine.execIdle s
  | .vsp => Sys2Proof.Machine.execVsp s
  | .resultArrival => Sys2Proof.Machine.execResultArrival s
  | .writeAtHome => Sys2Proof.Machine.execWriteAtHome s
  | .feAccessAtHome => Sys2Proof.Machine.execFeAccessAtHome s
  | .feRequestBounce => Sys2Proof.Machine.execFeRequestBounce s
  | .atomicAtHome => Sys2Proof.Machine.execAtomicAtHome s
  | .barArrivalAtHome => Sys2Proof.Machine.execBarArrivalAtHome s
  | .chunkClaim => Sys2Proof.Machine.execChunkClaim s
  | .memberStart => Sys2Proof.Machine.execMemberStart s
  | .epochAdvance => Sys2Proof.Machine.execEpochAdvance s
  | .sharedDelivery => Sys2Proof.Machine.execSharedDelivery s
  | .fold => Sys2Proof.Machine.execFold s
  | .breakAtHome => Sys2Proof.Machine.execBreakAtHome s
  | .copyElementWrite => Sys2Proof.Machine.execCopyElementWrite s
  | .copyComplete => Sys2Proof.Machine.execCopyComplete s
  | .engineFaultStop => Sys2Proof.Machine.execEngineFaultStop s
  | .streamElementArrival => Sys2Proof.Machine.execStreamElementArrival s
  | .overlayLoadComplete => Sys2Proof.Machine.execOverlayLoadComplete s
  | .matrixCommandAccept => Sys2Proof.Machine.execMatrixCommandAccept s
  | .matrixRowCommit => Sys2Proof.Machine.execMatrixRowCommit s
  | .matrixRowDrain => Sys2Proof.Machine.execMatrixRowDrain s
  | .rowHandlerStart => Sys2Proof.Machine.execRowHandlerStart s
  | .matrixCommandComplete => Sys2Proof.Machine.execMatrixCommandComplete s
  | .matrixCommandStop => Sys2Proof.Machine.execMatrixCommandStop s
  | .taskAccept => Sys2Proof.Machine.execTaskAccept s
  | .taskStart => Sys2Proof.Machine.execTaskStart s
  | .taskAbort => Sys2Proof.Machine.execTaskAbort s
  | .taskNonspeculative => Sys2Proof.Machine.execTaskNonspeculative s
  | .taskCommit => Sys2Proof.Machine.execTaskCommit s
  | .ksendBinStep => Sys2Proof.Machine.execKsendBinStep s
  | .rxaConfigTake => Sys2Proof.Machine.execRxaConfigTake s
  | .edgeRunStart => Sys2Proof.Machine.execEdgeRunStart s
  | .edgeHandlerStart => Sys2Proof.Machine.execEdgeHandlerStart s
  | .edgeCombine => Sys2Proof.Machine.execEdgeCombine s
  | .edgeApplyPhase => Sys2Proof.Machine.execEdgeApplyPhase s
  | .edgeRoundEnd => Sys2Proof.Machine.execEdgeRoundEnd s
  | .edgeRunStop => Sys2Proof.Machine.execEdgeRunStop s
  | .collSignal => Sys2Proof.Machine.execCollSignal s
  | .collComplete => Sys2Proof.Machine.execCollComplete s
  | .trapDelivery => Sys2Proof.Machine.execTrapDelivery s
  | .launchRecordCopy => Sys2Proof.Machine.execLaunchRecordCopy s
  | .launchStart => Sys2Proof.Machine.execLaunchStart s
  | .launchPreempt => Sys2Proof.Machine.execLaunchPreempt s
  | .launchRestore => Sys2Proof.Machine.execLaunchRestore s
  | .launchEnd => Sys2Proof.Machine.execLaunchEnd s
  | .gangMiss => Sys2Proof.Machine.execGangMiss s
  | .checkerMismatch => Sys2Proof.Machine.execCheckerMismatch s
  | .errorEvent => Sys2Proof.Machine.execErrorEvent s
  | .lastingFault => Sys2Proof.Machine.execLastingFault s
  | .errorWindowExpiry => Sys2Proof.Machine.execErrorWindowExpiry s
  | .scrub => Sys2Proof.Machine.execScrub s
  | .coreKill => Sys2Proof.Machine.execCoreKill s
  | .sealedMailboxReply => Sys2Proof.Machine.execSealedMailboxReply s
  | .parkedQueueReplay => Sys2Proof.Machine.execParkedQueueReplay s
  | .parkedRequestDiscard => Sys2Proof.Machine.execParkedRequestDiscard s
  | .retryTimeout => Sys2Proof.Machine.execRetryTimeout s
  | .tagEntryExpiry => Sys2Proof.Machine.execTagEntryExpiry s
  | .flitReceive => Sys2Proof.Machine.execFlitReceive s
  | .portRetrain => Sys2Proof.Machine.execPortRetrain s
  | .eyeMarginWindow => Sys2Proof.Machine.execEyeMarginWindow s
  | .rateUpTimeout => Sys2Proof.Machine.execRateUpTimeout s
  | .timebaseSync => Sys2Proof.Machine.execTimebaseSync s
  | .powerClockStep => Sys2Proof.Machine.execPowerClockStep s
  | .powerOnReset => Sys2Proof.Machine.execPowerOnReset s
  | .bootDoorbell => Sys2Proof.Machine.execBootDoorbell s
  | .bootImageTimeout => Sys2Proof.Machine.execBootImageTimeout s
  | .kernelCompletionTimeout => Sys2Proof.Machine.execKernelCompletionTimeout s
  | .loadImage => Sys2Proof.Machine.execLoadImage s
  | .createContext => Sys2Proof.Machine.execCreateContext s
  | .endContext => Sys2Proof.Machine.execEndContext s
  | .submitLaunch => Sys2Proof.Machine.execSubmitLaunch s
  | .mapPages => Sys2Proof.Machine.execMapPages s
  | .unmapPages => Sys2Proof.Machine.execUnmapPages s
  | .attest => Sys2Proof.Machine.execAttest s
  | .writeKernelSlot => Sys2Proof.Machine.execWriteKernelSlot s
  | .restartKernel => Sys2Proof.Machine.execRestartKernel s
  | .handoverTimeout => Sys2Proof.Machine.execHandoverTimeout s
  | .unknownCommand => Sys2Proof.Machine.execUnknownCommand s
  | .eventHeadDoorbell => Sys2Proof.Machine.execEventHeadDoorbell s
  | .hostBar2Access => Sys2Proof.Machine.execHostBar2Access s
  | .hostAtomic => Sys2Proof.Machine.execHostAtomic s
  | .mgmtPowerLimit => Sys2Proof.Machine.execMgmtPowerLimit s
  | .mgmtLinkRateUp => Sys2Proof.Machine.execMgmtLinkRateUp s
  | .mgmtReset => Sys2Proof.Machine.execMgmtReset s
  | .mgmtStartCounterClear => Sys2Proof.Machine.execMgmtStartCounterClear s
  | .mgmtTelemetry => Sys2Proof.Machine.execMgmtTelemetry s
  | .errwinWrite => Sys2Proof.Machine.execErrwinWrite s
  | .ctxcfgWrite => Sys2Proof.Machine.execCtxcfgWrite s
  | .seedWrite => Sys2Proof.Machine.execSeedWrite s
  | .heldWindowWrite => Sys2Proof.Machine.execHeldWindowWrite s
  | .heldEngineWrite => Sys2Proof.Machine.execHeldEngineWrite s
  | .illegalInstruction => Sys2Proof.Machine.execIllegalInstruction s
  | .overlayMiss => Sys2Proof.Machine.execOverlayMiss s
  | .globalDelivery => Sys2Proof.Machine.execGlobalDelivery s
  | .gangStartTick => Sys2Proof.Machine.execGangStartTick s

end Sys2Proof.Machine
end

