-- ==== Sys2Proof/Machine/Step.lean ====
section
/-! DEFINITION. One step of the machine: the agenda's next turn is taken (log 1). -/
namespace Sys2Proof.Machine

/-- Issue from a slot: a due pending trap is taken; else the fetched word is executed, or what the fetch met (R89, R265). The model's
choice: an instruction that had to wait is fetched again at its next turn, and meets what the slots then hold (log 117). -/
def issueSlot (s : State) (c t : Nat) : Host.Outcome State Fault Refusal :=
  let s := { s with core := c, slot := t }
  match pendingDue s (cur s) with
  | some p => .next (takePending s c t p)
  | none =>
    if trapHeld s (cur s) then .next s
    else if standing s (cur s) then .next (setCur s { cur s with status := .waitHome })
    else
    match fetchAt (getCore s c) (cur s).pc with
    | .wait => .next (suspendFetch s)
    | .word w =>
      let s := noteFetch s c (cur s).pc
      match decodeWord w with
      | .ok i => exec i s
      | .error _ => exec .illegalInstruction { s with event := .illegalInstruction w }
    | .invalid | .miss => exec .overlayMiss { s with event := .overlayMiss }

/-- A status in which a thread waits (R175). -/
def isWaiting (x : Status) : Bool := x == .waitReg || x == .waitHome || x == .waitFamily

/-- A thread may issue and its next instruction is of a class. -/
def inClass (s : State) (c : Nat) (engine : Bool) (t : Nat) : Bool :=
  (getThread s c t).status.canIssue && (nextIsEngine s c t == engine)

/-- A thread is ready in a class: its next issue is of that class and would not leave it waiting (R380). -/
def readyIn (s : State) (c : Nat) (engine : Bool) (t : Nat) : Bool :=
  inClass s c engine t &&
    (match issueSlot s c t with
     | .next s1 => !isWaiting (getThread s1 c t).status
     | .fault _ => false
     | .refused _ => true)

/-- A thread that cannot issue waits, and its record says on what (R175). -/
def settleSlot (c : Nat) (engine : Bool) (s : State) (t : Nat) : State :=
  if inClass s c engine t then
    match issueSlot s c t with
    | .next s1 => if isWaiting (getThread s1 c t).status then putThread s c t (getThread s1 c t) else s
    | .fault _ | .refused _ => s
  else s

/-- Every thread of a core and class that cannot issue waits. -/
def settle (s : State) (c : Nat) (engine : Bool) : State := (List.range 32).foldl (settleSlot c engine) s

/-- The ready threads of a core in a class. -/
def readyList (s : State) (c : Nat) (engine : Bool) : List (Nat × Thread) :=
  ((List.range 32).filter (readyIn s c engine)).map (fun t => (t, getThread s c t))

/-- One issue opportunity of a core in a class (R15, R380). A killed or halted core issues nothing. -/
def issueTurn (s : State) (c : Nat) (engine : Bool) : Host.Outcome State Fault Refusal :=
  let co := getCore s c
  if co.killed || co.halted then .next s
  else
    let ready := readyList s c engine
    let s1 := settle s c engine
    match pickSlot (if engine then co.lastEngine else co.lastScalar) ready with
    | none => .next (noteUnused s1 c ready)
    | some t => issueSlot (noteIssue s1 c engine ready t) c t

/-- Take one turn. -/
def takeTurn (s : State) : Turn → Host.Outcome State Fault Refusal
  | .issue c engine => issueTurn s c engine
  | .event i e => exec i { s with event := e }
  | .tick ns => .next (passTime s ns)
  | .hostWrite off data => .next (hostStore s off data)
  | .setup x => .next (applySetup s x)

/-- One step: the agenda's head, or the default turn while the agenda is empty. -/
def step (s : State) : Host.Outcome State Fault Refusal :=
  match s.agenda with
  | t :: rest => takeTurn { s with agenda := rest } t
  | [] => .next (passTime s 1)

/-- The state with an instruction stored where the next step fetches (log 11): a member thread in slot 0 of core 0, in user
mode, all 63 locals full and sixteen tile registers, whose overlay 0 is valid and holds the word at offset 0; the agenda
lets core 0 issue in the word's class. -/
def State.withFetchWord (s : State) (nbits w : Nat) : State :=
  let iw := BitVec.ofNat 32 (w % 2 ^ nbits)
  let hdr : Header := { Header.zero with l := 63, tiles := 16 }
  let th := { Thread.free with
    status := .ready, uid := 1, hdr := hdr, regs := fullRegs ((List.range 64).map (fun i => (i, (0 : Word)))), genP := 1 }
  let im := { ImemSlot.init with state := .valid, bytes := memSetBytes [] 0 (bytesOfWord iw) }
  let s := putCore s 0 { getCore s 0 with im0 := im, killed := false, halted := false }
  { putThread s 0 0 th with agenda := [.issue 0 (isEngineWord iw)] }

end Sys2Proof.Machine
end

