-- ==== Sys2Proof/Safety.lean ====
section
/-! DEFINITION. What claims speak of: the invariants a step keeps, a safe run, and the words in which the statements say what
an instruction needs and what it leaves. -/
namespace Sys2Proof.Machine

/-! ### Invariants and runs -/

/-- Numbers strictly rising. -/
def rising : List Nat → Bool
  | [] => true
  | [_] => true
  | a :: b :: r => decide (a < b) && rising (b :: r)

/-- The storage of a state is in its one canonical form: memory lists no byte that reads as an unlisted one, keys strictly
rising; so do the lists of empty words and of marked ones. -/
def State.storageWf (s : State) : Bool := Memory.wf s.mem && rising s.empties && rising s.marks

/-- A step answers with a next state. -/
def goesOn (s : State) : Prop := ∃ t, step s = .next t

/-- k steps answer with next states throughout. -/
def goesOnFor : Nat → State → Prop
  | 0, _ => True
  | k + 1, s => ∃ t, step s = .next t ∧ goesOnFor k t

/-! ### What an instruction needs -/

/-- The thread at the focus may issue (R175). -/
def Live (s : State) : Prop := (cur s).status.canIssue = true

/-- The thread may issue, its sources are read as vs, leaving the thread th (a bound source takes its element), and d may be
written. -/
def Ready (s : State) (srcs : List RegNo) (d : RegNo) (vs : List Word) (th : Thread) : Prop :=
  Live s ∧ readForm s srcs d = .ok (vs, th)

/-- The same without a destination. -/
def ReadyFor (s : State) (srcs : List RegNo) (vs : List Word) (th : Thread) : Prop :=
  Live s ∧ readOnlyForm s srcs = .ok (vs, th)

/-- A plain source: named, not bound to a stream, full, neither poisoned nor indeterminate. -/
def plainSource (th : Thread) (n : RegNo) : Bool :=
  decide (n.toNat < windowSize th.hdr) && (portOf th n).isNone && (getReg th n).full && !(getReg th n).poison &&
    !(getReg th n).indet

/-- A plain destination: named, neither a global, a dependent nor bound, and no earlier result outstanding. -/
def plainDest (th : Thread) (d : RegNo) : Bool :=
  decide (d.toNat < windowSize th.hdr) && !isReadOnly th.hdr d.toNat && (portOf th d).isNone && !(getReg th d).pend

/-- An access of n bytes at va may issue and lands at l, with s1 the state that keeps the translation; `sets` are the sets of
R280 it belongs to. -/
def Reaches (s : State) (th : Thread) (va : Word) (align n : Nat) (rd wr : Bool) (accepts : Win → Bool) (sets : BitVec 6)
    (l : Loc) (s1 : State) : Prop :=
  isHeld s (cur s) sets = false ∧ checkAddr (setCur s th) va align n rd wr accepts = .ok (l, s1)

/-! ### What an instruction leaves -/

/-- The instruction retired: d holds v and the thread stands at the next address. -/
def wrote (s : State) (th : Thread) (d : RegNo) (v : Word) : State := retire (writeReg (setCur s th) d v)

/-- The same for a value that may be poisoned or indeterminate. -/
def wroteReg (s : State) (th : Thread) (d : RegNo) (x : Reg) : State := retire (putReg (setCur s th) d x)

/-- The instruction retired and left the thread th, at the next address. -/
def stepped (s : State) (th : Thread) : State := setCur s { th with pc := pcNext th.pc, status := .ready }

/-- The instruction trapped at its own address. -/
def trapped (s : State) (cause : Nat) (detail : Word) : State :=
  takeTrap s s.core s.slot cause detail (cur s).pc (cur s).pc

/-- The instruction trapped at its own address for an indeterminate register: 0x14, with the address and the PC of the atomic that
left it so (R173). -/
def trappedFor (s : State) (x : Reg) : State :=
  takeTrapOf x.indetAddr.toNat x.indetPc.toNat (setCur s (cur s)) s.core s.slot 0x14 x.indetAddr (cur s).pc (cur s).pc

/-- The instruction did not issue: the thread waits at it. -/
def waits (s : State) (st : Status) : State := setCur s { cur s with status := st }

/-- t differs from s in threads, cores, flights and the number counter at most. -/
def OnlyIssued (s t : State) : Prop :=
  t = { s with threads := t.threads, cores := t.cores, flights := t.flights, nextId := t.nextId }

/-- Every thread but the one at the focus is as before. -/
def OthersKept (s t : State) : Prop :=
  ∀ c k, c * 32 + k ≠ s.core * 32 + s.slot → getThread t c k = getThread s c k

end Sys2Proof.Machine
end

