-- ==== Sys2Proof/Certificates/Slice0/Obligations.lean ====
section
/-! DEFINITION. What the provers are asked to prove: statements about the machine, each from the rules of spec/ that its
docstring names. The tables of instructions they range over come first in each section. -/
namespace Sys2Proof.Claims
open Sys2Proof.Machine

/-! ### Integer results, in the words of R131 to R136 -/

/-- An integer clamped to the signed, or the unsigned, 64-bit range (R108). -/
def clampSigned (v : Int) : Word :=
  if v < -(2 ^ 63 : Int) then BitVec.ofInt 64 (-(2 ^ 63)) else if (2 ^ 63 : Int) ≤ v then BitVec.ofInt 64 (2 ^ 63 - 1) else BitVec.ofInt 64 v
def clampUnsigned (v : Int) : Word :=
  if v < 0 then 0 else if (2 ^ 64 : Int) ≤ v then BitVec.allOnes 64 else BitVec.ofInt 64 v

/-- The 128-bit carry-less product: XOR, over the one bits of b, of a shifted left by their positions (R136). -/
def clProduct (a b : Word) : BitVec 128 :=
  (List.range 64).foldl (fun z i => if b.getLsbD i then z ^^^ (a.setWidth 128 <<< i) else z) 0

/-- The number of one bits. -/
def ones (a : Word) : Nat := ((List.range 64).filter a.getLsbD).length

/-- Zero bits before the first one bit in a list of positions. -/
def zerosBefore (a : Word) (is : List Nat) : Nat := (is.takeWhile (fun i => !a.getLsbD i)).length

/-- The word of which bit i is f i. -/
def wordOfBits (f : Nat → Bool) : Word := (List.range 64).foldl (fun r i => if f i then r ||| (1#64 <<< i) else r) 0

/-- Two-operand instructions with the value d takes from a and b (R131, R135, R136). -/
def binaryTable : List ((RegNo → RegNo → RegNo → Instr) × (Word → Word → Word)) :=
  [(.add, fun a y => a + y), (.sub, fun a y => a - y), (.and, fun a y => a &&& y), (.or, fun a y => a ||| y),
   (.xor, fun a y => a ^^^ y), (.andn, fun a y => a &&& ~~~y), (.orn, fun a y => a ||| ~~~y), (.xnor, fun a y => ~~~(a ^^^ y)),
   (.shl, fun a y => a <<< (y.extractLsb' 0 6).toNat), (.shr, fun a y => a >>> (y.extractLsb' 0 6).toNat),
   (.sar, fun a y => a.sshiftRight (y.extractLsb' 0 6).toNat), (.rol, fun a y => a.rotateLeft (y.extractLsb' 0 6).toNat),
   (.ror, fun a y => a.rotateRight (y.extractLsb' 0 6).toNat),
   (.slt, fun a y => if a.toInt < y.toInt then 1 else 0), (.sltz, fun a y => if a.toNat < y.toNat then 1 else 0),
   (.seq, fun a y => if a = y then 1 else 0), (.sne, fun a y => if a = y then 0 else 1)] ++
  [(.min, fun a y => if a.toInt ≤ y.toInt then a else y), (.max, fun a y => if a.toInt ≤ y.toInt then y else a),
   (.minz, fun a y => if a.toNat ≤ y.toNat then a else y), (.maxz, fun a y => if a.toNat ≤ y.toNat then y else a),
   (.qadd, fun a y => clampSigned (a.toInt + y.toInt)), (.qsub, fun a y => clampSigned (a.toInt - y.toInt)),
   (.qaddz, fun a y => clampUnsigned ((a.toNat : Int) + y.toNat)), (.qsubz, fun a y => clampUnsigned ((a.toNat : Int) - y.toNat)),
   (.mul, fun a b => a * b), (.mulh, fun a b => (a.signExtend 128 * b.signExtend 128).extractLsb' 64 64),
   (.mulhz, fun a b => (a.setWidth 128 * b.setWidth 128).extractLsb' 64 64),
   (.clmul, fun a b => (clProduct a b).extractLsb' 0 64), (.clmulh, fun a b => (clProduct a b).extractLsb' 64 64),
   (.bext, fun a b => (a >>> (b.extractLsb' 0 6).toNat) &&& BitVec.ofNat 64 (2 ^ min (b.extractLsb' 8 7).toNat 64 - 1))]

/-- One-operand instructions with the value d takes from a (R131, R136). -/
def unaryTable : List ((RegNo → RegNo → Instr) × (Word → Word)) :=
  [(.abs, fun a => if a.toInt < 0 then 0 - a else a), (.sextI8, fun a => (a.extractLsb' 0 8).signExtend 64),
   (.sextI16, fun a => (a.extractLsb' 0 16).signExtend 64), (.sextI32, fun a => (a.extractLsb' 0 32).signExtend 64),
   (.zextZ8, fun a => (a.extractLsb' 0 8).setWidth 64), (.zextZ16, fun a => (a.extractLsb' 0 16).setWidth 64),
   (.zextZ32, fun a => (a.extractLsb' 0 32).setWidth 64), (.pop, fun a => BitVec.ofNat 64 (ones a)),
   (.clz, fun a => BitVec.ofNat 64 (zerosBefore a (List.range 64).reverse)),
   (.ctz, fun a => BitVec.ofNat 64 (zerosBefore a (List.range 64))), (.brev, fun a => a.reverse),
   (.bswap, fun a => a.extractLsb' 0 8 ++ a.extractLsb' 8 8 ++ a.extractLsb' 16 8 ++ a.extractLsb' 24 8 ++
     a.extractLsb' 32 8 ++ a.extractLsb' 40 8 ++ a.extractLsb' 48 8 ++ a.extractLsb' 56 8)]

/-- Immediate forms: the immediate is sign-extended for `addi` and `slti`, zero-extended for the others (R131). -/
def immTable : List ((RegNo → RegNo → BitVec 14 → Instr) × (Word → BitVec 14 → Word)) :=
  [(.addi, fun a i => a + i.signExtend 64), (.andi, fun a i => a &&& i.setWidth 64), (.ori, fun a i => a ||| i.setWidth 64),
   (.xori, fun a i => a ^^^ i.setWidth 64), (.slti, fun a i => if a.toInt < (i.signExtend 64).toInt then 1 else 0)]

/-- Shifts by an immediate amount (R131, R132). -/
def shiftTable : List ((RegNo → RegNo → BitVec 6 → Instr) × (Word → Nat → Word)) :=
  [(.shli, fun a n => a <<< n), (.shri, fun a n => a >>> n), (.sari, fun a n => a.sshiftRight n),
   (.rori, fun a n => a.rotateRight n)]

/-- `bins` and `sel`, which read d as well (R136): from a, b and d. -/
def ternaryTable : List ((RegNo → RegNo → RegNo → Instr) × (Word → Word → Word → Word)) :=
  [(.bins, fun a b z =>
      let pos := (b.extractLsb' 0 6).toNat
      let len := min (b.extractLsb' 8 7).toNat 64
      wordOfBits (fun i => if pos ≤ i ∧ i < min (pos + len) 64 then a.getLsbD (i - pos) else z.getLsbD i)),
   (.sel, fun a b z => (a &&& b) ||| (z &&& ~~~b))]

/-- Division (R135): the quotient truncated toward zero, and the remainder that goes with it. -/
def divisionTable : List ((RegNo → RegNo → RegNo → Instr) × (Word → Word → Word)) :=
  [(.div, fun a b => if b = 0 then BitVec.allOnes 64 else BitVec.ofInt 64 (a.toInt.tdiv b.toInt)),
   (.divz, fun a b => if b = 0 then BitVec.allOnes 64 else BitVec.ofNat 64 (a.toNat / b.toNat)),
   (.rem, fun a b => if b = 0 then a else BitVec.ofInt 64 (a.toInt.tmod b.toInt)),
   (.remz, fun a b => if b = 0 then a else BitVec.ofNat 64 (a.toNat % b.toNat))]

/-- The conditions of the branches (R144). -/
def branchTable : List ((RegNo → RegNo → BitVec 14 → Instr) × (Word → Word → Bool)) :=
  [(.beq, fun a b => decide (a = b)), (.bne, fun a b => decide (a ≠ b)), (.blt, fun a b => decide (a.toInt < b.toInt)),
   (.bge, fun a b => decide (b.toInt ≤ a.toInt)), (.bltz, fun a b => decide (a.toNat < b.toNat)),
   (.bgez, fun a b => decide (b.toNat ≤ a.toNat))]

end Sys2Proof.Claims

open Sys2Proof Sys2Proof.Machine Sys2Proof.Claims

/-- R131, R135, R136: each two-operand integer instruction retires with its value in d. -/
def Sys2Proof.Claims.BinaryIntegerResults : Prop :=
  ∀ p ∈ binaryTable, ∀ s d a b x y th, Ready s [a, b] d [x, y] th → exec (p.1 d a b) s = .next (wrote s th d (p.2 x y))

/-- R131 to R134, R136: the unary, immediate, three-source and constant forms. -/
def Sys2Proof.Claims.UnaryAndImmediateResults : Prop :=
  (∀ p ∈ unaryTable, ∀ s d a x th, Ready s [a] d [x] th → exec (p.1 d a) s = .next (wrote s th d (p.2 x))) ∧
  (∀ p ∈ immTable, ∀ s d a i x th, Ready s [a] d [x] th → exec (p.1 d a i) s = .next (wrote s th d (p.2 x i))) ∧
  (∀ p ∈ shiftTable, ∀ s d a n x th, Ready s [a] d [x] th → exec (p.1 d a n) s = .next (wrote s th d (p.2 x n.toNat))) ∧
  (∀ p ∈ ternaryTable, ∀ s d a b x y z th, Ready s [a, b, d] d [x, y, z] th →
    exec (p.1 d a b) s = .next (wrote s th d (p.2 x y z))) ∧
  (∀ s d (i : BitVec 20) th, Ready s [] d [] th → exec (.lih d i) s = .next (wrote s th d (i.signExtend 64 * 0x4000))) ∧
  (∀ s d (i : BitVec 20) th, Ready s [] d [] th →
    exec (.pcadd d i) s = .next (wrote s th d (((cur s).pc.extractLsb' 16 16 ++
      ((cur s).pc.extractLsb' 0 16 + 4 * i.setWidth 16)).setWidth 64)))

/-- R126, R135: a division empties d and sends its result after it; d = z stays full. -/
def Sys2Proof.Claims.DivisionResultsComeLater : Prop :=
  ∀ p ∈ divisionTable, ∀ s d a b x y th, Ready s [a, b] d [x, y] th →
    ∃ t q, exec (p.1 d a b) s = .next t ∧ OthersKept s t ∧
      t = { s with threads := t.threads, flights := s.flights ++ [q], nextId := s.nextId + 1 } ∧
      q.id = s.nextId ∧ q.kind = .delayed ∧ q.resp = some (p.2 x y) ∧ q.d = d ∧ q.uid = (cur s).uid ∧
      cur t = { (if d = 0 then th else setReg th d { Reg.empty with pend := true }) with pc := pcNext th.pc, status := .ready }

/-- R50, R144: a branch goes to pc + 4·sext(imm14) within its overlay where its condition holds, else to its successor, and
writes no register. -/
def Sys2Proof.Claims.BranchesChooseTheirTarget : Prop :=
  ∀ p ∈ branchTable, ∀ s a b (off : BitVec 14) x y th, ReadyFor s [a, b] [x, y] th →
    exec (p.1 a b off) s = .next (setCur s { th with
      status := .ready
      pc := if p.2 x y then (cur s).pc.extractLsb' 16 16 ++ ((cur s).pc.extractLsb' 0 16 + 4 * off.signExtend 16)
            else th.pc.extractLsb' 16 16 ++ (th.pc.extractLsb' 0 16 + 4) })

/-- R74, R145, R146: jumps write the successor's code address to d and continue at their target; `jalr` to a target with bits
63:32 or 1:0 set traps with 0x03 and that target, writing nothing. -/
def Sys2Proof.Claims.JumpsLinkAndGo : Prop :=
  (∀ s d (off : BitVec 20) th, Ready s [] d [] th →
    exec (.jal d off) s = .next (retireTo (writeReg (setCur s th) d (pcWord (pcNext (cur s).pc)))
      ((cur s).pc.extractLsb' 16 16 ++ ((cur s).pc.extractLsb' 0 16 + 4 * off.setWidth 16)))) ∧
  (∀ s d a (off : BitVec 14) x th, Ready s [a] d [x] th →
    (x + off.signExtend 64).extractLsb' 32 32 = 0 → (x + off.signExtend 64).extractLsb' 0 2 = 0 →
    exec (.jalr d a off) s = .next (retireTo (writeReg (setCur s th) d (pcWord (pcNext (cur s).pc)))
      ((x + off.signExtend 64).setWidth 32))) ∧
  (∀ s d a (off : BitVec 14) x th, Ready s [a] d [x] th →
    ((x + off.signExtend 64).extractLsb' 32 32 ≠ 0 ∨ (x + off.signExtend 64).extractLsb' 0 2 ≠ 0) →
    exec (.jalr d a off) s = .next (trapped s 0x03 (x + off.signExtend 64)))

/-- R53, R125, R191: plain operands are ready with the values of their registers, where none is a dependent whose predecessor, running
on the same core, awaits a result in that shared; z reads zero. -/
def Sys2Proof.Claims.PlainOperandsAreReady : Prop :=
  (∀ s srcs d, Live s → srcs.all (plainSource (cur s)) = true → (∀ n ∈ srcs, depOwed s n = false) → plainDest (cur s) d = true →
    Ready s srcs d (srcs.map (fun n => (getReg (cur s) n).val)) (cur s)) ∧
  (∀ s srcs, Live s → srcs.all (plainSource (cur s)) = true → (∀ n ∈ srcs, depOwed s n = false) →
    ReadyFor s srcs (srcs.map (fun n => (getReg (cur s) n).val)) (cur s)) ∧
  (∀ th, getReg th 0 = { Reg.empty with val := 0, full := true })

/-- R53, R125, R128, R173, R180, R191: an empty source makes the thread wait, and so does a dependent that is the shared register of a
predecessor on the same core to which a result is owed; then a poisoned one traps with 0x0A, an indeterminate one with 0x14, the address
and the PC of its atomic; a number without a name, and a destination that is a global or a dependent, trap with 0x02. For every
instruction of the integer table. -/
def Sys2Proof.Claims.OperandsThatStopAnInstruction : Prop :=
  ∀ p ∈ binaryTable, ∀ s d a b, Live s → (portOf (cur s) a = none ∧ portOf (cur s) b = none ∧ portOf (cur s) d = none) →
    ((windowSize (cur s).hdr ≤ a.toNat ∨ windowSize (cur s).hdr ≤ b.toNat ∨ windowSize (cur s).hdr ≤ d.toNat ∨
        isReadOnly (cur s).hdr d.toNat = true) → exec (p.1 d a b) s = .next (trapped s 0x02 0)) ∧
    (a.toNat < windowSize (cur s).hdr → b.toNat < windowSize (cur s).hdr → d.toNat < windowSize (cur s).hdr →
      isReadOnly (cur s).hdr d.toNat = false →
      (((getReg (cur s) a).full = false ∨ (getReg (cur s) b).full = false ∨ depOwed s a = true ∨ depOwed s b = true) →
        exec (p.1 d a b) s = .next (waits s .waitReg)) ∧
      ((getReg (cur s) a).full = true → (getReg (cur s) b).full = true → depOwed s a = false → depOwed s b = false →
        (((getReg (cur s) a).poison = true ∨ (getReg (cur s) b).poison = true) →
          exec (p.1 d a b) s = .next (trapped s 0x0A 0)) ∧
        ((getReg (cur s) a).poison = false → (getReg (cur s) b).poison = false →
          ((getReg (cur s) a).indet = true → exec (p.1 d a b) s = .next (trappedFor s (getReg (cur s) a))) ∧
          ((getReg (cur s) a).indet = false → (getReg (cur s) b).indet = true →
            exec (p.1 d a b) s = .next (trappedFor s (getReg (cur s) b))) ∧
          ((getReg (cur s) a).indet = false → (getReg (cur s) b).indet = false → d ≠ 0 → (getReg (cur s) d).pend = true →
            exec (p.1 d a b) s = .next (waits s .waitReg)))))

/-- R126, R181, R269, R270: what writing d does. z discards; a local takes the value, full, and nothing but the thread
changes; a shared takes it and is sent on; a name bound to an output port appends an element while the stream has room. -/
def Sys2Proof.Claims.DestinationForms : Prop :=
  (∀ s th v, wrote s th 0 v = stepped s th) ∧
  (∀ s th d v, d ≠ 0 → portOf th d = none → isShared th.hdr d.toNat = false →
    wrote s th d v = stepped s (setReg th d (fullReg v)) ∧ (fullReg v).full = true ∧ (fullReg v).val = v ∧
    (fullReg v).poison = false ∧ (fullReg v).indet = false) ∧
  (∀ s th d v f, d ≠ 0 → portOf th d = none → isShared th.hdr d.toNat = true → th.kind = .member → th.frames = [] →
    getFam s th.fam = some f → ∀ c, chunkCore f (th.member + 1) = some c → c ≠ s.core →
    ∃ t q, wrote s th d v = t ∧
      t = { s with threads := t.threads, families := t.families, flights := s.flights ++ [q], nextId := s.nextId + 1 } ∧
      cur t = { setReg th d (fullReg v) with pc := pcNext th.pc, status := .ready } ∧ OthersKept s t ∧
      q.kind = .shared th.fam th.member (d.toNat - 1 - th.hdr.g) ∧ q.b = v ∧ q.uid = th.uid ∧ q.poison = false ∧
      q.indet = false) ∧
  (∀ s th d v p, d ≠ 0 → portOf th d = some p → p.output = true → p.stopped = false → p.pos < recCount p.shape →
    ∃ t q, wrote s th d v = t ∧
      t = { s with threads := t.threads, nextId := s.nextId + 1
                   flights := s.flights.map (fun r => if appendsTo p.id r then { r with e := q.e } else r) ++ [q] } ∧ OthersKept s t ∧
      q.kind = .streamOut p.id p.shape p.pos ∧ q.b = v ∧ q.d = d ∧ q.pc = p.pc ∧ q.e = word (p.pos + 1) ∧
      (∀ n, getReg (cur t) n = if n = d then { getReg th d with pend := false } else getReg th n) ∧
      (cur t).ports = th.ports.map (fun q => if q.reg = d then { q with pos := q.pos + 1 } else q))

/-- R126, R254: frame. An instruction that retires with a plain local or z destination leaves every other register, every flag,
counter and engine register of its thread, every other thread and every byte of memory as they were. -/
def Obligations.RegisterResultsTouchNothingElse : Prop :=
  ∀ s d v, plainDest (cur s) d = true → isShared (cur s).hdr d.toNat = false →
    ∃ t, wrote s (cur s) d v = t ∧ t = { s with threads := t.threads } ∧ OthersKept s t ∧
      (∀ n, n ≠ d → getReg (cur t) n = getReg (cur s) n) ∧ (d ≠ 0 → getReg (cur t) d = fullReg v) ∧
      cur t = { cur s with regs := (cur t).regs, pc := pcNext (cur s).pc, status := .ready } ∧
      (∀ a, memByte t.mem a = memByte s.mem a)

namespace Sys2Proof.Claims

/-! ### Floating point (R138 to R143) -/

/-- A result of the thread's formats: the exact value and its flags, rounded. -/
def fpTable : List ((RegNo → RegNo → RegNo → Rf → Fmt2 → Instr) × (Fmt → Env → Word → Nat → Nat → FOut)) :=
  [(.fadd, fun f e w a b => roundWith f e w (sumVals e.rf [operand f e a, operand f e b])),
   (.fsub, fun f e w a b => roundWith f e w (sumVals e.rf [operand f e a, (operand f e b).neg])),
   (.fmul, fun f e w a b => roundWith f e w (mulVals (operand f e a) (operand f e b))), (.frcps, fpRcps), (.frsqs, fpRsqs)]

/-- The operations that do not round (R139), under the context's flushing. -/
def fpPickTable : List ((RegNo → RegNo → RegNo → Fmt2 → Instr) × (Fmt → Env → Nat → Nat → FOut)) :=
  [(.fmin, fun f e a b => fpMinMax f e false a b), (.fmax, fun f e a b => fpMinMax f e true a b)]

/-- Comparisons: whether quiet NaNs are let pass, and the test of the order −1, 0, 1. -/
def fpCompareTable : List ((RegNo → RegNo → RegNo → Fmt2 → Instr) × Bool × (Int → Bool)) :=
  [(.feq, true, fun c => c == 0), (.flt, false, fun c => decide (c < 0)), (.fle, false, fun c => decide (c ≤ 0))]

/-- Sign injection: the new sign from the two old ones. -/
def fpSignTable : List ((RegNo → RegNo → RegNo → Fmt2 → Instr) × (Bool → Bool → Bool)) :=
  [(.fsgnj, fun _ b => b), (.fsgnjn, fun _ b => !b), (.fsgnjx, fun a b => xor a b)]

/-- Fused forms: the format, and whether c is subtracted (R115, R142). -/
def fpFusedTable : List ((RegNo → RegNo → RegNo → RegNo → Instr) × Fmt × Bool) :=
  [(.fmaF64, .f64, false), (.fmsF64, .f64, true), (.fmaF32, .f32, false), (.fmsF32, .f32, true)]

/-- A floating-point instruction retires with o in d: its flags join the status word, and a draw it took is gone. -/
def FpRetires (i : Instr) (s : State) (th : Thread) (d : RegNo) (bits flags : Nat) (used : Bool) : Prop :=
  flagsTrap (curCfg s) flags = false →
    exec i s = .next (wrote s (afterFp th ⟨word bits, flags, used⟩) d (word bits))

/-- It traps with 0x13 where a flag it raised is enabled: the flags join the status word, d and the generator keep. -/
def FpTraps (i : Instr) (s : State) (flags : Nat) : Prop :=
  flagsTrap (curCfg s) flags = true →
    exec i s = .next (takeTrap (setCur s (orStatus (cur s) flags)) s.core s.slot 0x13 (word flags) (cur s).pc (cur s).pc)

end Sys2Proof.Claims

/-- R107, R112, R138, R139, R141 to R143: scalar floating point that writes at once. -/
def Sys2Proof.Claims.ScalarFloatResults : Prop :=
  (∀ p ∈ fpTable, ∀ s d a b rf fm x y th, Ready s [a, b] d [x, y] th →
    let o := p.2 (Fmt2.fmt fm) (curEnv s rf) (nextDraw (cur s)) (lowBits (Fmt2.fmt fm) x) (lowBits (Fmt2.fmt fm) y)
    FpRetires (p.1 d a b rf fm) s th d o.bits o.flags o.used ∧ FpTraps (p.1 d a b rf fm) s o.flags) ∧
  (∀ p ∈ fpPickTable, ∀ s d a b fm x y th, Ready s [a, b] d [x, y] th →
    let o := p.2 (Fmt2.fmt fm) (curEnv s .rne) (lowBits (Fmt2.fmt fm) x) (lowBits (Fmt2.fmt fm) y)
    FpRetires (p.1 d a b fm) s th d o.bits o.flags o.used ∧ FpTraps (p.1 d a b fm) s o.flags) ∧
  (∀ p ∈ fpCompareTable, ∀ s d a b fm x y th, Ready s [a, b] d [x, y] th →
    let o := fpCompare (Fmt2.fmt fm) (curEnv s .rne) p.2.1 p.2.2 (lowBits (Fmt2.fmt fm) x) (lowBits (Fmt2.fmt fm) y)
    FpRetires (p.1 d a b fm) s th d (if o.1 then 1 else 0) o.2 false ∧ FpTraps (p.1 d a b fm) s o.2) ∧
  (∀ s d a rf fm x th, Ready s [a] d [x] th →
    (let o := fpRcp (Fmt2.fmt fm) (curEnv s rf) (lowBits (Fmt2.fmt fm) x)
     FpRetires (.frcp d a rf fm) s th d o.bits o.flags o.used ∧ FpTraps (.frcp d a rf fm) s o.flags) ∧
    (let o := fpRsq (Fmt2.fmt fm) (curEnv s rf) (lowBits (Fmt2.fmt fm) x)
     FpRetires (.frsq d a rf fm) s th d o.bits o.flags o.used ∧ FpTraps (.frsq d a rf fm) s o.flags) ∧
    (∀ dst, let o := convertFmt (FcvtTo.fmt dst) (Fmt2.fmt fm) (curEnv s rf) (nextDraw (cur s)) (lowBits (Fmt2.fmt fm) x)
      FpRetires (.fcvt d a dst rf fm) s th d o.bits o.flags o.used ∧ FpTraps (.fcvt d a dst rf fm) s o.flags) ∧
    (∀ src, let o := roundFmt (Fmt2.fmt fm) (curEnv s rf) (nextDraw (cur s)) (intVal (intSource src x))
      FpRetires (.icvtf d a src rf fm) s th d o.bits o.flags o.used ∧ FpTraps (.icvtf d a src rf fm) s o.flags)) ∧
  (∀ p ∈ fpFusedTable, ∀ s d a b c x y z th, Ready s [a, b, c] d [x, y, z] th →
    let o := fpFma p.2.1 (curEnv s .rne) (nextDraw (cur s)) p.2.2 (lowBits p.2.1 x) (lowBits p.2.1 y) (lowBits p.2.1 z)
    FpRetires (p.1 d a b c) s th d o.bits o.flags o.used ∧ FpTraps (p.1 d a b c) s o.flags)

/-- R139 to R141: sign injection and classification copy or inspect the unflushed bits and raise nothing, `fclass` setting the bit of the class; `fcvti` extends its integer by the
target's signedness. -/
def Sys2Proof.Claims.FloatBitsAndIntegers : Prop :=
  (∀ p ∈ fpSignTable, ∀ s d a b fm x y th, Ready s [a, b] d [x, y] th →
    let f := Fmt2.fmt fm
    exec (p.1 d a b fm) s = .next (wrote s th d (word (lowBits f x % 2 ^ f.magBits +
      if p.2 (x.getLsbD f.magBits) (y.getLsbD f.magBits) then 2 ^ f.magBits else 0)))) ∧
  (∀ s d a fm x th, Ready s [a] d [x] th →
    let f := Fmt2.fmt fm
    let neg := x.getLsbD f.magBits
    let mag := lowBits f x % 2 ^ f.magBits
    let k := if f.infBits < mag then (if mag.testBit (f.frac - 1) then 9 else 8)
      else if mag = f.infBits then (if neg then 0 else 7)
      else if 2 ^ f.frac ≤ mag then (if neg then 1 else 6)
      else if 0 < mag then (if neg then 2 else 5)
      else if neg then 3 else 4
    exec (.fclass d a fm) s = .next (wrote s th d (BitVec.twoPow 64 k))) ∧
  (∀ s d a dst rf fm x th, Ready s [a] d [x] th →
    let r := roundInt (IntTo.width dst) (IntTo.signed dst) rf (nextDraw (cur s))
      (operand (Fmt2.fmt fm) (curEnv s rf) (lowBits (Fmt2.fmt fm) x))
    (flagsTrap (curCfg s) r.2.1 = false → exec (.fcvti d a dst rf fm) s =
      .next (wrote s (afterFp th ⟨BitVec.ofInt 64 r.1, r.2.1, r.2.2⟩) d (BitVec.ofInt 64 r.1))) ∧
    FpTraps (.fcvti d a dst rf fm) s r.2.1)

/-- R126, R138, R143: `fdiv` and `fsqrt` set their flags at issue and write d later. -/
def Sys2Proof.Claims.SlowFloatResultsComeLater : Prop :=
  (∀ s d a b rf fm x y th, Ready s [a, b] d [x, y] th →
    let f := Fmt2.fmt fm
    let o := roundWith f (curEnv s rf) (nextDraw (cur s))
      (divVals (operand f (curEnv s rf) (lowBits f x)) (operand f (curEnv s rf) (lowBits f y)))
    (flagsTrap (curCfg s) o.flags = false →
      ∃ t q, exec (.fdiv d a b rf fm) s = .next t ∧ t.flights = s.flights ++ [q] ∧ q.kind = .delayed ∧
        q.resp = some (word o.bits) ∧ q.d = d ∧ t.mem = s.mem ∧ OthersKept s t ∧
        (cur t).fpStatus = th.fpStatus ||| BitVec.ofNat 5 o.flags ∧ (cur t).pc = pcNext th.pc ∧
        (d ≠ 0 → (getReg (cur t) d).full = false ∧ (getReg (cur t) d).pend = true)) ∧
    FpTraps (.fdiv d a b rf fm) s o.flags) ∧
  (∀ s d a rf fm x th, Ready s [a] d [x] th →
    let f := Fmt2.fmt fm
    let o := roundWith f (curEnv s rf) (nextDraw (cur s)) (sqrtVal (operand f (curEnv s rf) (lowBits f x)))
    (flagsTrap (curCfg s) o.flags = false →
      ∃ t q, exec (.fsqrt d a rf fm) s = .next t ∧ t.flights = s.flights ++ [q] ∧ q.kind = .delayed ∧
        q.resp = some (word o.bits) ∧ q.d = d ∧ t.mem = s.mem ∧ OthersKept s t ∧
        (cur t).fpStatus = th.fpStatus ||| BitVec.ofNat 5 o.flags ∧ (cur t).pc = pcNext th.pc ∧
        (d ≠ 0 → (getReg (cur t) d).full = false ∧ (getReg (cur t) d).pend = true)) ∧
    FpTraps (.fsqrt d a rf fm) s o.flags)

/-- R98, R113: a NaN operand of an addition, subtraction or multiplication gives the canonical NaN of the format, and raises
invalid exactly where an operand is signalling. -/
def Sys2Proof.Claims.NanOperandsGiveTheCanonicalNan : Prop :=
  ∀ op ∈ [fpAdd, fpSub, fpMul], ∀ f ∈ [Fmt.f64, .f32, .f16, .bf16], ∀ e w a b,
    ((operand f e a).isNan = true ∨ (operand f e b).isNan = true) →
      (op f e w a b).bits = f.nanBits ∧ (op f e w a b).used = false ∧
      (op f e w a b).flags = if (operand f e a).isSig || (operand f e b).isSig then 1 else 0

namespace Sys2Proof.Claims

/-! ### Memory access (R147 to R173) -/

/-- Loads with an immediate: width in bytes, and whether the value is sign-extended (R157). -/
def loadTable : List ((RegNo → RegNo → BitVec 14 → Instr) × Nat × Bool) :=
  [(.ldI8, 1, true), (.ldZ8, 1, false), (.ldI16, 2, true), (.ldZ16, 2, false), (.ldI32, 4, true), (.ldZ32, 4, false),
   (.ldI64, 8, false)]

/-- Widths and signedness of `ldx` (R71). -/
def ldxTable : List (LdxWidth × Nat × Bool) :=
  [(.i8, 1, true), (.z8, 1, false), (.i16, 2, true), (.z16, 2, false), (.i32, 4, true), (.z32, 4, false), (.i64, 8, false)]

/-- Stores and their widths (R157); the register in DST, the first operand here, is the data. -/
def storeTable : List ((RegNo → RegNo → BitVec 14 → Instr) × Nat) := [(.stI8, 1), (.stI16, 2), (.stI32, 4), (.stI64, 8)]

/-- An instruction put one request in flight and retired: d awaits it, the counter L rose, no byte of memory and no other
thread changed. -/
def RequestSent (i : Instr) (s : State) (th : Thread) (d : RegNo) (l : Loc) (va : Word) (n : Nat) (kind : ReqKind)
    (more : Request → Prop) : Prop :=
  ∃ t q, exec i s = .next t ∧ t.flights = s.flights ++ [q] ∧
    q.kind = kind ∧ q.key = l.key ∧ q.va = va ∧ q.width = n ∧ q.d = d ∧ q.resp = none ∧ q.uid = (cur s).uid ∧ more q ∧
    t.mem = s.mem ∧ t.empties = s.empties ∧ t.marks = s.marks ∧ OthersKept s t ∧
    (cur t).cntL = th.cntL + 1 ∧ (cur t).pc = pcNext th.pc ∧ (cur t).fpStatus = th.fpStatus ∧ (cur t).eng = th.eng ∧
    (d ≠ 0 → getReg (cur t) d = { Reg.empty with pend := true }) ∧ (∀ n, n ≠ d → getReg (cur t) n = getReg th n)

/-- The same for an access without a destination, which counts in S. -/
def StoreSent (i : Instr) (s : State) (th : Thread) (l : Loc) (va : Word) (n : Nat) (kind : ReqKind) (v : Word)
    (more : Request → Prop) : Prop :=
  ∃ t q, exec i s = .next t ∧ t.flights = s.flights ++ [q] ∧
    q.kind = kind ∧ q.key = l.key ∧ q.va = va ∧ q.width = n ∧ q.b = v ∧ q.resp = none ∧ q.uid = (cur s).uid ∧ more q ∧
    t.mem = s.mem ∧ t.empties = s.empties ∧ t.marks = s.marks ∧ OthersKept s t ∧
    (cur t).cntS = th.cntS + 1 ∧ (cur t).pc = pcNext th.pc ∧ (cur t).fpStatus = th.fpStatus ∧ (cur t).eng = th.eng ∧
    (∀ n, getReg (cur t) n = getReg th n)

/-- An access dropped at a guard granule: answered with zero at once, nothing in flight, the touch recorded (R253, R254). -/
def DroppedLoad (i : Instr) (s : State) (th : Thread) (d : RegNo) (l : Loc) (s1 : State) : Prop :=
  exec i s = .next (wrote s1 (recordGuard (cur s1) l.key l.logical 0 l.remote (cur s1).pc) d 0) ∧ (cur s1).regs = th.regs

/-- A dropped store: nothing is written. -/
def DroppedStore (i : Instr) (s s1 : State) (l : Loc) : Prop :=
  exec i s = .next (stepped s1 (recordGuard (cur s1) l.key l.logical 0 l.remote (cur s1).pc))

/-- A load may issue outside the register window: it reaches l, its window is open to a speculative task, and L has room. -/
def LoadGoes (s : State) (th : Thread) (va : Word) (n : Nat) (l : Loc) (s1 : State) : Prop :=
  Reaches s th va n n true false loadWin 0b000001 l s1 ∧ l.win ≠ .regWin ∧ specWindow s l.win = .ok () ∧ th.cntL < 15

/-- A store may issue outside the register window, from a thread that is no speculative task. -/
def StoreGoes (s : State) (th : Thread) (va : Word) (n : Nat) (l : Loc) (s1 : State) : Prop :=
  Reaches s th va n n false true loadWin 0b000010 l s1 ∧ l.win ≠ .regWin ∧ specTask s (cur s) = none ∧ th.cntS < 15

/-- An access that only a thread which is no speculative task makes, of 8 bytes or as given. -/
def AccessGoes (s : State) (th : Thread) (va : Word) (n : Nat) (rd wr : Bool) (acc : Win → Bool) (sets : BitVec 6) (l : Loc)
    (s1 : State) : Prop :=
  Reaches s th va n n rd wr acc sets l s1 ∧ specTask s (cur s) = none ∧ th.cntL < 15 ∧ th.cntS < 15

/-- The request left for another device's home and the thread stands at its instruction, unchanged, until that accepts or refuses it
(R150). -/
def StandsAt (i : Instr) (s : State) (l : Loc) (va : Word) (kind : ReqKind) : Prop :=
  ∃ t q, exec i s = .next t ∧ t.flights = s.flights ++ [q] ∧ q.kind = kind ∧ q.key = l.key ∧ q.va = va ∧ q.resp = none ∧
    q.uid = (cur s).uid ∧ t.mem = s.mem ∧ t.empties = s.empties ∧ OthersKept s t ∧ cur t = { cur s with status := .ready }

/-- The request in flight is a request of a live thread for a plain destination: neither bound nor shared. -/
def Awaited (s : State) (req : Nat) (r : Request) : Prop :=
  getRequest s req = some r ∧ (getThread s r.core r.slot).uid = r.uid ∧ (getThread s r.core r.slot).status ≠ .free ∧
    portOf (getThread s r.core r.slot) r.d = none ∧ isShared (getThread s r.core r.slot).hdr r.d.toNat = false ∧ r.d ≠ 0

/-- The result reached its register as x and the request left; every other thread, memory and state bit is as before. -/
def Answered (s t : State) (r : Request) (x : Reg) : Prop :=
  t.flights = s.flights.filter (fun q => q.id ≠ r.id) ∧ t = { s with flights := t.flights, threads := t.threads } ∧
    (∀ c k, c * 32 + k ≠ r.core * 32 + r.slot → getThread t c k = getThread s c k) ∧
    getThread t r.core r.slot = setReg { getThread s r.core r.slot with cntL := (getThread s r.core r.slot).cntL - 1 } r.d x

/-- Bytes k to k + n − 1 of memory hold the low bytes of v, little-endian; every other byte is as before. -/
def Stored (s t : State) (k n : Nat) (v : Nat) : Prop :=
  (∀ i, i < n → memByte t.mem (k + i) = BitVec.ofNat 8 (v / 256 ^ i)) ∧
    (∀ a, a < k ∨ k + n ≤ a → memByte t.mem a = memByte s.mem a)

/-- Atomic operations on whole words, in the words of R167: the new value from the old one and b. -/
def wordOps : List (AmoOp × (Word → Word → Word)) :=
  [(.add, fun x b => x + b), (.and, fun x b => x &&& b), (.or, fun x b => x ||| b), (.xor, fun x b => x ^^^ b),
   (.min, fun x b => if x.toInt ≤ b.toInt then x else b), (.max, fun x b => if x.toInt ≤ b.toInt then b else x),
   (.minz, fun x b => if x.toNat ≤ b.toNat then x else b), (.maxz, fun x b => if x.toNat ≤ b.toNat then b else x),
   (.swap, fun _ b => b)]

/-- The home finds the bytes of a request at key k of this device now: its page is exported, and neither faults nor is being retired
(R412, R418). -/
def FoundAt (s : State) (r : Request) (k : Nat) : Prop :=
  homeFaults s r.ctx r.key = false ∧ hereKey s r.ctx r.key = k ∧ farKey s k = false

/-- An indivisible step at key k finds x as the old value of n bytes: those in memory, but that bytes of a running collective's result
which no signal has announced are free (R423). -/
def Finds (s : State) (k n x : Nat) : Prop :=
  x < 256 ^ n ∧ ∀ i, i < n → x / 2 ^ (8 * i) % 256 =
    if recvOpen s (k + i) then (Config.freeWord s.freeCtr).toNat / 2 ^ (8 * i) % 256 else (memByte s.mem (k + i)).toNat

/-- A request without the marks that fences and releases have left on it. -/
def bare (q : Request) : Request := { q with shields := [] }

/-- The request leaves, S of its thread falls, and no register of any thread changes. -/
def StoreDone (s t : State) (r : Request) : Prop :=
  t.flights.map bare = (s.flights.filter (fun q => q.id ≠ r.id)).map bare ∧
    (∀ c k, c * 32 + k ≠ r.core * 32 + r.slot → getThread t c k = getThread s c k) ∧
    ((getThread s r.core r.slot).uid = r.uid → (getThread s r.core r.slot).status ≠ .free →
      getThread t r.core r.slot = { getThread s r.core r.slot with cntS := (getThread s r.core r.slot).cntS - 1 })

end Sys2Proof.Claims

/-- R126, R147, R149, R151, R157: a load that reaches its place leaves for it; at a guard granule it reads zero at once. -/
def Sys2Proof.Claims.LoadsIssue : Prop :=
  (∀ p ∈ loadTable, ∀ s d a (i : BitVec 14) x th l s1, Ready s [a] d [x] th →
    LoadGoes s th (x + i.signExtend 64) p.2.1 l s1 →
    if l.drop then DroppedLoad (p.1 d a i) s th d l s1
    else RequestSent (p.1 d a i) s th d l (x + i.signExtend 64) p.2.1 (.load p.2.2) (fun _ => True)) ∧
  (∀ p ∈ ldxTable, ∀ s d a b x y th l s1, Ready s [a, b] d [x, y] th → LoadGoes s th (x + y) p.2.1 l s1 →
    if l.drop then DroppedLoad (.ldx d a b p.1) s th d l s1
    else RequestSent (.ldx d a b p.1) s th d l (x + y) p.2.1 (.load p.2.2) (fun _ => True))

/-- R147, R149, R151, R157: a store leaves for its home with its data and does not wait for it; nothing is written yet. -/
def Sys2Proof.Claims.StoresIssue : Prop :=
  ∀ p ∈ storeTable, ∀ s b a (i : BitVec 14) v x th l s1, ReadyFor s [b, a] [v, x] th →
    StoreGoes s th (x + i.signExtend 64) p.2 l s1 →
    if l.drop then DroppedStore (p.1 b a i) s s1 l
    else StoreSent (p.1 b a i) s th l (x + i.signExtend 64) p.2 .store v (fun _ => True)

/-- R148 to R150 (that 0x03 comes first, whatever the translation of the address does, is the model's choice, log 17): a misaligned load or store traps with 0x03; one whose address no window or translation takes traps with 0x04
for a load and 0x05 for a store; one that is refused traps with 0x06. The address is the detail, and nothing else happens. -/
def Obligations.AddressFaultsArePrecise : Prop :=
  (∀ p ∈ loadTable, ∀ s d a (i : BitVec 14) x th, Ready s [a] d [x] th → isHeld s (cur s) 0b000001 = false →
    let va := x + i.signExtend 64
    let r := (resolve (setCur s th) s.core s.slot th.ctx va p.2.1 true false).1
    (va.toNat % p.2.1 ≠ 0 → exec (p.1 d a i) s = .next (trapped s 0x03 va)) ∧
    (va.toNat % p.2.1 = 0 → r = .error true → exec (p.1 d a i) s = .next (trapped s 0x04 va)) ∧
    (va.toNat % p.2.1 = 0 → r = .error false → exec (p.1 d a i) s = .next (trapped s 0x06 va))) ∧
  (∀ s d a b sc x y th, Ready s [a, b] d [x, y] th → isHeld s (cur s) 0b000001 = false →
    let va := x + y
    let r := (resolve (setCur s th) s.core s.slot th.ctx va 8 true true).1
    (va.toNat % 8 ≠ 0 → exec (.lde d a b sc) s = .next (trapped s 0x03 va)) ∧
    (va.toNat % 8 = 0 → r = .error true → exec (.lde d a b sc) s = .next (trapped s 0x04 va)) ∧
    (va.toNat % 8 = 0 → r = .error false → exec (.lde d a b sc) s = .next (trapped s 0x06 va))) ∧
  (∀ p ∈ storeTable, ∀ s b a (i : BitVec 14) v x th, ReadyFor s [b, a] [v, x] th → isHeld s (cur s) 0b000010 = false →
    let va := x + i.signExtend 64
    let r := (resolve (setCur s th) s.core s.slot th.ctx va p.2 false true).1
    (va.toNat % p.2 ≠ 0 → exec (p.1 b a i) s = .next (trapped s 0x03 va)) ∧
    (va.toNat % p.2 = 0 → r = .error true → exec (p.1 b a i) s = .next (trapped s 0x05 va)) ∧
    (va.toNat % p.2 = 0 → r = .error false → exec (p.1 b a i) s = .next (trapped s 0x06 va)))

/-- R130: a load or store of 8 aligned bytes in the register window reads or writes the window register of that number. That it acts on
the register at once, with L and S as they were, is the model's choice (log 26). -/
def Sys2Proof.Claims.MappedRegisterAccess : Prop :=
  (∀ s d a (i : BitVec 14) x th l s1 v, Ready s [a] d [x] th →
    Reaches s th (x + i.signExtend 64) 8 8 true false loadWin 0b000001 l s1 → l.win = .regWin → l.key < windowSize th.hdr →
    portOf th (BitVec.ofNat 6 l.key) = none → plainSource th (BitVec.ofNat 6 l.key) = true →
    depOwed s (BitVec.ofNat 6 l.key) = false →
    (getReg th (BitVec.ofNat 6 l.key)).val = v → exec (.ldI64 d a i) s = .next (wrote s1 th d v)) ∧
  (∀ s b a (i : BitVec 14) v x th l s1, ReadyFor s [b, a] [v, x] th →
    Reaches s th (x + i.signExtend 64) 8 8 false true loadWin 0b000010 l s1 → l.win = .regWin → l.key < 64 →
    plainDest th (BitVec.ofNat 6 l.key) = true →
    exec (.stI64 b a i) s = .next (wrote s1 th (BitVec.ofNat 6 l.key) v))

/-- R150, R158, R159, R163, R165: the full/empty loads, `fstat` and the reducing loads leave for their homes; `ldf` and `lde` are
acquires at the scope of their modifier, or at their window's. That an `lde` behind the fabric window leaves while its thread stands at
it unchanged is R150 as the model reads it (log 28). Accesses dropped at a guard granule are not spoken of here. -/
def Sys2Proof.Claims.FullEmptyLoadsIssue : Prop :=
  ∀ s d a b x y th l s1, Ready s [a, b] d [x, y] th →
    (∀ sc, AccessGoes s th (x + y) 8 true false plainWin 0b000001 l s1 → l.drop = false →
      RequestSent (.ldf d a b sc) s th d l (x + y) 8 .ldf (fun q => q.acq = true ∧ q.scope = feScope sc l.win)) ∧
    (∀ sc, AccessGoes s th (x + y) 8 true true stateWin 0b000001 l s1 → l.drop = false →
      if l.far then StandsAt (.lde d a b sc) s l (x + y) .lde
      else RequestSent (.lde d a b sc) s th d l (x + y) 8 .lde (fun q => q.acq = true ∧ q.scope = feScope sc l.win)) ∧
    (AccessGoes s th (x + y) 8 true false plainWin 0b000001 l s1 → l.drop = false →
      RequestSent (.fstat d a b) s th d l (x + y) 8 .fstat (fun q => q.acq = false)) ∧
    (∀ op, AccessGoes s th (x + y) 8 true false (fun w => w == .reduce) 0b000001 l s1 →
      RequestSent (.ldrd d a b op) s th d l (x + y) 8 (.ldrd op) (fun q => q.acq = false))

/-- R150, R160, R161, R164, R167, R168, R169: the full/empty stores, `stm` and the atomics leave for their homes with their operands
and their ordering; a `ste` behind the fabric window as `lde` does (log 28). -/
def Sys2Proof.Claims.FullEmptyStoresAndAtomicsIssue : Prop :=
  (∀ s a b x v th l s1, ReadyFor s [a, b] [x, v] th →
    (∀ sc, AccessGoes s th x 8 false true plainWin 0b000010 l s1 → l.drop = false →
      StoreSent (.stf a b sc) s th l x 8 .stf v (fun q => q.rel = true ∧ q.scope = feScope sc l.win)) ∧
    (AccessGoes s th x 8 false true (fun w => w == .multicast) 0b000010 l s1 →
      StoreSent (.stm a b) s th l x 8 .stm v (fun q => q.rel = false)) ∧
    (∀ op os, AccessGoes s th x (amoBytes op) true true (amoWin (amoHostOk op)) 0b000011 l s1 → l.drop = false →
      StoreSent (.red a b op os) s th l x (amoBytes op) (.red op) v
        (fun q => q.acq = osAcq os ∧ q.rel = osRel os ∧ q.scope = osScope os))) ∧
  (∀ s d a b x v th l s1, Ready s [a, b] d [x, v] th →
    (∀ sc, AccessGoes s th x 8 true true stateWin 0b000011 l s1 → l.drop = false →
      if l.far then StandsAt (.ste d a b sc) s l x .ste
      else RequestSent (.ste d a b sc) s th d l x 8 .ste (fun q => q.b = v ∧ q.rel = true ∧ q.scope = feScope sc l.win)) ∧
    (∀ op os, AccessGoes s th x (amoBytes op) true true (amoWin (amoHostOk op)) 0b000011 l s1 → l.drop = false →
      RequestSent (.amo d a b op os) s th d l x (amoBytes op) (.amo op)
        (fun q => q.b = v ∧ q.acq = osAcq os ∧ q.rel = osRel os ∧ q.scope = osScope os))) ∧
  (∀ s d a b x v e th l s1 os, Ready s [a, b, d] d [x, v, e] th →
    AccessGoes s th x 8 true true (amoWin true) 0b000011 l s1 → l.drop = false →
      RequestSent (.cas d a b os) s th d l x 8 .cas
        (fun q => q.b = v ∧ q.e = e ∧ q.acq = osAcq os ∧ q.rel = osRel os ∧ q.scope = osScope os))

/-- R126, R156, R157, R405, R413, R423: a load's result is the bytes at its place, little-endian, extended as the load says; a word or
line with an uncorrectable error poisons it; bytes of a running collective's result that no signal has announced are free. A load under
a tag that its home keeps is answered by what is kept. A word of another device gives the value that device answers, or poison where it
answers that the word holds such an error. A result that was only delayed arrives as it was formed. -/
def Sys2Proof.Claims.LoadResultsArrive : Prop :=
  (∀ s req v far r signed, s.event = .resultArrival req v far → Awaited s req r → r.kind = .load signed → mayPerform s r = true → r.width ≤ 8 →
    r.rel = false → specTask s (getThread s r.core r.slot) = none → ∀ k, FoundAt s r k →
    (r.tag = 0 → (∀ i, i < r.width → recvOpen s (k + i) = false) →
      ∃ t, exec .resultArrival s = .next t ∧ Answered s t r
        (if rangeMarked s k r.width then poisonReg
         else fullReg (if signed then BitVec.ofInt 64 (toSigned (8 * r.width) (memRead s.mem k r.width))
                       else word (memRead s.mem k r.width)))) ∧
    (r.tag = 0 → rangeMarked s k r.width = false → (∃ i, i < r.width ∧ recvOpen s (k + i) = true) →
      ∃ t v, exec .resultArrival s = .next t ∧
        getThread t r.core r.slot = setReg { getThread s r.core r.slot with cntL := (getThread s r.core r.slot).cntL - 1 } r.d
          (fullReg (if signed then BitVec.ofInt 64 (toSigned (8 * r.width) v) else word v)) ∧
        ∀ i, i < r.width → v / 2 ^ (8 * i) % 256 =
          if recvOpen s (k + i) then (Config.freeWord s.freeCtr).toNat / 2 ^ (8 * i) % 256 else (memByte s.mem (k + i)).toNat) ∧
    (∀ v bad, tagResult s { r with key := k } = some (v, bad) →
      ∃ t, exec .resultArrival s = .next t ∧ Answered s t r
        (if bad then poisonReg
         else fullReg (if signed then BitVec.ofInt 64 (toSigned (8 * r.width) (v.toNat % 2 ^ (8 * r.width)))
                       else word (v.toNat % 2 ^ (8 * r.width)))))) ∧
  (∀ s req v bad r signed, s.event = .resultArrival req v bad → Awaited s req r → r.kind = .load signed → mayPerform s r = true →
    r.rel = false → homeFaults s r.ctx r.key = false → farKey s (hereKey s r.ctx r.key) = true →
      ∃ t, exec .resultArrival s = .next t ∧ Answered s t r
        (if bad then poisonReg
         else fullReg (if signed then BitVec.ofInt 64 (toSigned (8 * r.width) (v.toNat % 2 ^ (8 * r.width)))
                       else word (v.toNat % 2 ^ (8 * r.width))))) ∧
  (∀ s req v bad r, s.event = .resultArrival req v bad → Awaited s req r → r.kind = .delayed →
    ∃ t, exec .resultArrival s = .next t ∧ t.flights = s.flights.filter (fun q => q.id ≠ r.id) ∧ t.mem = s.mem ∧
      getThread t r.core r.slot = setReg (getThread s r.core r.slot) r.d (fullReg (r.resp.getD 0)))

/-- R163: `fstat` answers the word's state: bit 0 full, which a word of a window without state bits counts as, bit 1 error, bit 2 whether
its window carries a state bit, and no other bit; of another device's word it gives what that device says of the three. -/
def Sys2Proof.Claims.FstatAnswersTheWordsState : Prop :=
  ∀ s req v bad r, s.event = .resultArrival req v bad → Awaited s req r → r.kind = .fstat → mayPerform s r = true →
    r.rel = false → homeFaults s r.ctx r.key = false →
    ∃ t w, exec .resultArrival s = .next t ∧ Answered s t r (fullReg w) ∧ w.toNat < 8 ∧
      (farKey s (hereKey s r.ctx r.key) = false → ∀ k, hereKey s r.ctx r.key = k →
        w.getLsbD 0 = (isFull s k || !keyHasState k) ∧ w.getLsbD 1 = isMarked s k ∧ w.getLsbD 2 = keyHasState k) ∧
      (farKey s (hereKey s r.ctx r.key) = true →
        w.getLsbD 0 = (v.getLsbD 0 || !v.getLsbD 2) ∧ w.getLsbD 1 = v.getLsbD 1 ∧ w.getLsbD 2 = v.getLsbD 2)

/-- R152, R157, R254, R273, R294, R405: a store at its home writes its bytes and no others, fires the watches of other threads on them, and leaves the
full/empty state of every word; a word or line that holds an error and is not covered whole keeps its bytes. -/
def Sys2Proof.Claims.StoresWriteTheirBytesOnly : Prop :=
  ∀ s req r, s.event = .writeAtHome req → getRequest s req = some r → r.kind = .store → mayPerform s r = true →
    ∀ k, FoundAt s r k → tagRoom s { r with key := k } = true → tagResult s { r with key := k } = none →
    ∃ t, exec .writeAtHome s = .next t ∧ StoreDone s t r ∧ t.empties = s.empties ∧
      (rangeMarked s k r.width = false ∨ coversUnit k r.width = true → Stored s t k r.width r.b.toNat ∧
        ∀ c m, m ∈ (getCore s c).mons → m.fired = 0 → m.uid ≠ r.uid → m.key < k + r.width → k < m.key + 8 → 0 < s.nextId →
          ∃ m2 ∈ (getCore t c).mons, m2 = { m with fired := m2.fired } ∧ 0 < m2.fired) ∧
      (rangeMarked s k r.width = true → coversUnit k r.width = false → t.mem = s.mem ∧ t.marks = s.marks)

/-- R159 to R162, R423, R431: what the full/empty accesses do at a word of the scratchpad or the urn on which no request waits: `ldf` on a
full word answers and leaves it full, `lde` leaves it empty, either waits on an empty one; bytes of a running collective's result that no
signal has announced are free; `stf` writes and fills, `ste` only an empty word, and none of a launch port that a kernel handover keeps
occupied. -/
def Sys2Proof.Claims.FullEmptyAccessesAtHome : Prop :=
  ∀ s req r k, s.event = .feAccessAtHome req → getRequest s req = some r → mayPerform s r = true → r.resp = none →
    r.arrived = 0 → FoundAt s r k → farKey s r.key = false → keyHasState k = true → k % 8 = 0 → isMarked s k = false →
    (∀ q ∈ s.flights, q.id ≠ r.id → isFeWaiter q k = false) → 0 < s.nextId → (fabricKey r.key = false ∨ r.kind = .ldf ∨ r.kind = .stf) →
    ((∀ q ∈ s.flights, q.id = r.id → q = r) ∧ r.rel = false ∧ (r.kind = .ldf ∨ r.kind = .lde) → isFull s k = true →
      ∃ t q v, exec .feAccessAtHome s = .next t ∧ getRequest t req = some q ∧ q.resp = some v ∧
        t.mem = s.mem ∧ t.threads = s.threads ∧ (isFull t k = true ↔ r.kind = .ldf) ∧
        ((∀ i, i < 8 → recvOpen s (k + i) = false) → v = word (memRead s.mem k 8)) ∧
        ∀ i, i < 8 → v.toNat / 2 ^ (8 * i) % 256 =
          if recvOpen s (k + i) then (Config.freeWord s.freeCtr).toNat / 2 ^ (8 * i) % 256 else (memByte s.mem (k + i)).toNat) ∧
    (r.rel = false ∧ (r.kind = .ldf ∨ r.kind = .lde) → isFull s k = false →
      ∃ t q, exec .feAccessAtHome s = .next t ∧ getRequest t req = some q ∧ q.resp = none ∧ q.arrived = s.nextId ∧
        t.mem = s.mem ∧ t.empties = s.empties ∧ t.threads = s.threads) ∧
    (r.kind = .stf →
      ∃ t, exec .feAccessAtHome s = .next t ∧ isFull t k = true ∧ Stored s t k 8 r.b.toNat ∧ StoreDone s t r) ∧
    (r.kind = .ste → isFull s k = false → portHeld s k = false →
      ∃ t q, exec .feAccessAtHome s = .next t ∧ isFull t k = true ∧ Stored s t k 8 r.b.toNat ∧
        getRequest t req = some q ∧ q.resp = some 1) ∧
    (r.kind = .ste → (isFull s k = true ∨ portHeld s k = true) →
      ∃ t q, exec .feAccessAtHome s = .next t ∧ t.empties = s.empties ∧ t.mem = s.mem ∧
        getRequest t req = some q ∧ q.resp = some 0)

/-- R150, as the model reads it (log 28): an `lde` that named its word through this device's own fabric window is taken where the window
carries a state bit: its thread goes on behind the instruction, d awaits the answer and L rises; where it carries none, the thread that
stands at it traps there with 0x06. R161: a `ste` of another device's word that has been taken is answered 1 or 0, or poisoned. -/
def Sys2Proof.Claims.FabricLoadsAreTakenOrRefused : Prop :=
  (∀ s req v bad r, s.event = .resultArrival req v bad → Awaited s req r → r.kind = .ste → r.resp = none → farKey s r.key = true →
    0 < r.arrived → r.tag = 0 → (bad = true ∨ v.getLsbD 0 = false ∨ (4 ≤ r.scope ∧ earlierDone s r = true)) →
    ∃ t, exec .resultArrival s = .next t ∧
      Answered s t r (if bad then poisonReg else fullReg (if v.getLsbD 0 then 1 else 0))) ∧
  ∀ s req r k th, s.event = .feAccessAtHome req → getRequest s req = some r → mayPerform s r = true → r.resp = none → r.arrived = 0 →
    FoundAt s r k → r.kind = .lde → r.rel = false → fabricKey r.key = true → farKey s r.key = false → (∀ q ∈ s.flights, q.id = r.id → q = r) →
    th = getThread s r.core r.slot → th.uid = r.uid → th.status = .ready → portOf th 0 = none → r.e = 0 → r.d ≠ 0 → 0 < s.nextId → r.core < 2048 → r.slot < 32 →
    (keyHasState k = false →
      exec .feAccessAtHome s = .next (takeTrap (dropRequest s req) r.core r.slot 0x06 r.va th.pc th.pc)) ∧
    (keyHasState k = true → ∃ t q, exec .feAccessAtHome s = .next t ∧ t.mem = s.mem ∧ getRequest t req = some q ∧ 0 < q.arrived ∧
      getThread t r.core r.slot = { setReg th r.d { Reg.empty with pend := true } with
        cntL := th.cntL + 1, pc := pcNext th.pc, status := .ready, touched := setIns th.touched (homeOf k) })

/-- R162: a word that becomes full serves the requests waiting on it in arrival order: one `stf` satisfies the earliest of the
waiting `lde` requests and leaves the word empty and every later one waiting. -/
def Sys2Proof.Claims.OneFillServesOneWaitingLde : Prop :=
  ∀ s k a b, keyHasState k = true → k % 8 = 0 → isMarked s k = false → isFeWaiter a k = true → isFeWaiter b k = true →
    a.kind = .lde → b.kind = .lde → a.id ≠ b.id → a.arrived < b.arrived →
    s.flights = [b, a] → (∀ i, i < 8 → recvOpen s (k + i) = false) →
    (fillWord s k).flights = [b, { a with resp := some (word (peek s (k / 8 * 8) 8)), poison := false }] ∧ isFull (fillWord s k) k = false ∧
      (fillWord s k).mem = s.mem

/-- R162: a home without room returns a waiting request, which the core sends again; nothing else changes. One of the fabric window, whose
thread has gone on, waits where it is whichever way it takes. -/
def Sys2Proof.Claims.BouncedRequestsAreSentAgain : Prop :=
  ∀ s req r, s.event = .feRequestBounce req → getRequest s req = some r → (r.kind = .ldf ∨ r.kind = .lde) → r.resp = none →
    0 < r.arrived →
    (fabricKey r.key = false → ∃ t, exec .feRequestBounce s = .next t ∧ t = { s with flights := t.flights } ∧
      getRequest t req = some { r with arrived := 0 }) ∧
    (fabricKey r.key = true → exec .feRequestBounce s = .next s)

/-- Floating-point atomics in the words of R167: width and new value from the old value and b; they never flush. -/
def Sys2Proof.Claims.floatAtomics : List (AmoOp × Nat × (Nat → Nat → Nat)) :=
  [(.fadd32, 4, fun x b => (fpAdd .f32 envBare 0 x (b % 2 ^ 32)).bits), (.fadd64, 8, fun x b => (fpAdd .f64 envBare 0 x b).bits),
   (.badd16, 2, fun x b => (fpAdd .bf16 envBare 0 x (b % 2 ^ 16)).bits),
   (.fmin, 8, fun x b => (fpMinMax .f64 envBare false x b).bits), (.fmax, 8, fun x b => (fpMinMax .f64 envBare true x b).bits)]

/-- R167, R170, R171, R423: a floating-point atomic at its home reads the old value in its width, zero-extended, and writes the new one in one
step. -/
def Sys2Proof.Claims.FloatAtomicsAtHome : Prop :=
  ∀ s req r k, s.event = .atomicAtHome req none → getRequest s req = some r → mayPerform s r = true → r.resp = none →
    FoundAt s r k → farKey s r.key = false → tagRoom s { r with key := k } = true → tagResult s { r with key := k } = none →
    ∀ p ∈ floatAtomics, r.width = p.2.1 → rangeMarked s k p.2.1 = false →
    (r.kind = .amo p.1 →
      ∃ t q x, Finds s k p.2.1 x ∧ exec .atomicAtHome s = .next t ∧ getRequest t req = some q ∧ q.resp = some (word x) ∧
        Stored s t k p.2.1 (p.2.2 x r.b.toNat) ∧ t.empties = s.empties ∧ t.threads = s.threads) ∧
    (r.kind = .red p.1 →
      ∃ t x, Finds s k p.2.1 x ∧ exec .atomicAtHome s = .next t ∧ StoreDone s t r ∧
        Stored s t k p.2.1 (p.2.2 x r.b.toNat) ∧ t.empties = s.empties)

/-- R154, R167, R168, R170, R171, R423: an atomic at its home reads the old value and writes the new one in one step, returns the old
value, and leaves the full/empty state; `cas` writes only where the old value is the expected one; `red` returns nothing and
lowers S. -/
def Sys2Proof.Claims.AtomicsAtHome : Prop :=
  ∀ s req r k, s.event = .atomicAtHome req none → getRequest s req = some r → mayPerform s r = true → r.resp = none →
    FoundAt s r k → farKey s r.key = false → tagRoom s { r with key := k } = true → tagResult s { r with key := k } = none →
    r.width = 8 → rangeMarked s k 8 = false →
    (∀ p ∈ wordOps, r.kind = .amo p.1 →
      ∃ t q x, Finds s k 8 x ∧ exec .atomicAtHome s = .next t ∧ getRequest t req = some q ∧ q.resp = some (word x) ∧
        Stored s t k 8 (p.2 (word x) r.b).toNat ∧ t.empties = s.empties ∧ t.threads = s.threads) ∧
    (r.kind = .cas →
      ∃ t q x, Finds s k 8 x ∧ exec .atomicAtHome s = .next t ∧ getRequest t req = some q ∧ q.resp = some (word x) ∧
        (word x = r.e → Stored s t k 8 r.b.toNat) ∧ (word x ≠ r.e → t.mem = s.mem) ∧ t.empties = s.empties ∧ t.threads = s.threads) ∧
    (∀ p ∈ wordOps, r.kind = .red p.1 →
      ∃ t x, Finds s k 8 x ∧ exec .atomicAtHome s = .next t ∧ StoreDone s t r ∧
        Stored s t k 8 (p.2 (word x) r.b).toNat ∧ t.empties = s.empties)

/-- R203: an arrival at a barrier word that does not complete it counts one and waits; one that does resets the count, steps
the generation and lets the thread go on. -/
def Sys2Proof.Claims.BarrierArrivals : Prop :=
  ∀ s req r k g n tgt, s.event = .barArrivalAtHome req → getRequest s req = some r → r.kind = .bar → r.arrived = 0 → r.uid ≠ 0 →
    FoundAt s r k → mayPerform s r = true → isMarked s k = false → k % 8 = 0 → 0 < s.nextId → g < 256 → tgt < 2 ^ 24 →
    n + 1 < 2 ^ 32 → memRead s.mem k 8 = g * 2 ^ 56 + tgt * 2 ^ 32 + n →
    (n + 1 < tgt →
      ∃ t q, exec .barArrivalAtHome s = .next t ∧ Stored s t k 8 (g * 2 ^ 56 + tgt * 2 ^ 32 + (n + 1)) ∧
        getRequest t req = some q ∧ 0 < q.arrived ∧ t.threads = s.threads ∧ t.empties = s.empties) ∧
    ((tgt = 0 ∨ tgt ≤ n + 1) → (getThread s r.core r.slot).uid = r.uid → (getThread s r.core r.slot).status = .ready →
      (getThread s r.core r.slot).pc = r.pc → (∀ q ∈ s.flights, q.kind = .bar → q = r) →
      ∃ t, exec .barArrivalAtHome s = .next t ∧ Stored s t k 8 ((g + 1) % 256 * 2 ^ 56 + tgt * 2 ^ 32) ∧
        getRequest t req = none ∧ t.empties = s.empties ∧
        getThread t r.core r.slot = { getThread s r.core r.slot with pc := pcNext r.pc, status := .ready })

/-- R203, R298: `bar` waits until L and S are zero and then sends its arrival, a release, to a home it has then touched; the thread stays
at it. That 0x03 comes before the translation is the model's choice (log 17). -/
def Sys2Proof.Claims.BarSendsItsArrival : Prop :=
  ∀ s a va th l s1, ReadyFor s [a] [va] th → atBarrier s (cur s) = false →
    isHeld s (cur s) 0b000011 = false →
    ((0 < (cur s).cntL ∨ 0 < (cur s).cntS) → exec (.bar a) s = .next (waits s .waitReg)) ∧
    ((cur s).cntL = 0 → (cur s).cntS = 0 → checkPending (cur s) = .ok () → va.toNat % 8 ≠ 0 →
      exec (.bar a) s = .next (trapped s 0x03 va)) ∧
    ((cur s).cntL = 0 → (cur s).cntS = 0 → checkPending (cur s) = .ok () → va.toNat % 8 = 0 →
      resolve (setCur s th) s.core s.slot (cur s).ctx va 8 true true = (.ok l, s1) →
      (l.win = .localSp ∨ l.win = .remoteSp ∨ l.win = .urn) → specTask s (cur s) = none → l.drop = false →
      ∃ t q, exec (.bar a) s = .next t ∧ t.flights = s.flights ++ [q] ∧ q.kind = .bar ∧ q.key = l.key ∧ q.rel = true ∧
        q.scope = l.win.defaultScope ∧ q.uid = (cur s).uid ∧ t.mem = s.mem ∧ OthersKept s t ∧
        cur t = { th with status := .ready, touched := setIns th.touched (homeOf l.key) })

/-- R295 to R297, R299, R300: a fence with an empty set only steps; any other holds the sets it names until the accesses before
it are performed, where its scope is below `.pkg` by marks on the earlier writes that later accesses of its scope observe (the model's
choice, logs 3 and 27); with cw among the predecessors it waits for the elements too that results still owe to output-bound names;
`wait` steps once each counter is at or below its field. -/
def Sys2Proof.Claims.FencesAndWaits : Prop :=
  (∀ s p q sc, Live s → (p = 0 ∨ q = 0) → exec (.fen p q sc) s = .next (stepped s (cur s))) ∧
  (∀ s p q sc, Live s → p ≠ 0 → q ≠ 0 → (p.getLsbD 1 = true → (cur s).indetOps = none) →
    ∃ t f, exec (.fen p q sc) s = .next t ∧ t = { s with threads := t.threads, flights := t.flights, nextId := t.nextId } ∧
      t.flights.map bare = s.flights.map bare ∧ OthersKept s t ∧ f ∈ (cur t).fences ∧
      f.sset = q ∧ f.pc = (cur s).pc ∧ (cur t).pc = pcNext (cur s).pc ∧ (cur t).regs = (cur s).regs ∧
      (∀ r ∈ s.flights, r.uid = (cur s).uid → r.resp = none → p.getLsbD 0 = true → ReqKind.reads r.kind = true → r.id ∈ f.before) ∧
      (∀ r ∈ s.flights, r.uid = (cur s).uid → r.resp = none → p.getLsbD 1 = true → ReqKind.writes r.kind = true →
        (4 ≤ scopeNum sc → r.id ∈ f.before) ∧
        (scopeNum sc < 4 → { r with shields := r.shields ++ [(scopeNum sc, s.nextId)] } ∈ t.flights)) ∧
      (∀ r ∈ s.flights, ∀ o ∈ (cur s).ports, r.uid = (cur s).uid → r.d = o.reg → r.d ≠ 0 → o.output = true →
        (∀ j x n, r.kind ≠ .streamOut j x n ∧ r.kind ≠ .streamEnd j x n) → p.getLsbD 3 = true → r.id ∈ f.before ∧ r.id ∈ f.appends)) ∧
  (∀ s l sx c m, Live s → ((cur s).cntL ≤ l.toNat ∧ (cur s).cntS ≤ sx.toNat ∧ (cur s).cntC ≤ c.toNat ∧ (cur s).cntM ≤ m.toNat) →
    exec (.wait l sx c m) s = .next (stepped s (cur s))) ∧
  (∀ s l sx c m, Live s → (cur s).indetOps = none →
    ¬((cur s).cntL ≤ l.toNat ∧ (cur s).cntS ≤ sx.toNat ∧ (cur s).cntC ≤ c.toNat ∧ (cur s).cntM ≤ m.toNat) →
    exec (.wait l sx c m) s = .next (waits s .waitReg))

namespace Sys2Proof.Claims

/-! ### Tile instructions (R209 to R240) -/

abbrev TileOp3 := TileNo → TileNo → TileNo → ShapeNo → TileNo → Instr
abbrev TileOp2 := TileNo → TileNo → ShapeNo → TileNo → Instr

/-- An element read as the integer its format says, and an integer put into an element: wrapped to the width (R219, R226). -/
def intElemOf (th : Thread) (f : Fmt) (t : TileNo) (p : Nat × Nat) : Int :=
  if f.isSigned then (BitVec.ofNat f.width (tileElem th t f p.1 p.2)).toInt else (tileElem th t f p.1 p.2 % 2 ^ f.width : Nat)
def wrapElem (f : Fmt) (v : Int) : Nat := (BitVec.ofInt f.width v).toNat

/-- An integer clamped to a format's range (R95, R108). -/
def clampElem (f : Fmt) (v : Int) : Int :=
  let lo : Int := if f.isSigned then -(2 ^ (f.width - 1) : Nat) else 0
  let hi : Int := if f.isSigned then (2 ^ (f.width - 1) : Nat) - 1 else (2 ^ f.width : Nat) - 1
  max lo (min hi v)

/-- Integer instructions on two sources (R226). -/
def tileIntTable : List (TileOp3 × (Fmt → Int → Int → Int)) :=
  [(.vaddInt, fun _ a b => a + b), (.vsubInt, fun _ a b => a - b), (.vmulInt, fun _ a b => a * b),
   (.vmulh, fun f a b => (a * b).fdiv (2 ^ f.width : Nat)), (.vqadd, fun f a b => clampElem f (a + b)),
   (.vqsub, fun f a b => clampElem f (a - b)), (.vminInt, fun _ a b => min a b), (.vmaxInt, fun _ a b => max a b),
   (.vavg, fun _ a b => (a + b + 1).fdiv 2)]

/-- Integer instructions on one source. -/
def tileIntTable1 : List (TileOp2 × (Int → Int)) := [(.vabsInt, fun a => (a.natAbs : Int)), (.vnegInt, fun a => -a)]

/-- The checks of a tile instruction pass: its format, its tile and scalar names, no outstanding tile load or poison in the
way (R212, R213, R216 to R218). -/
def TileReady (s : State) (sh : ShapeNo) (acc : Accepts) (srcs writes : List TileNo) (mask : TileNo) (regs : List RegNo) : Prop :=
  Live s ∧ tileChecks s sh acc true srcs writes mask regs = .ok ()

/-- The values of elements, each with its place. -/
def elemsOf (els : List (Nat × Nat)) (v : Nat × Nat → Nat) : List (Nat × Nat × Nat) := els.map (fun p => (p.1, p.2, v p))

/-- Floating-point instructions on two sources (R227, R237), as operations of the format under the rounding environment. -/
def tileFpTable : List ((TileNo → TileNo → TileNo → ShapeNo → TileNo → Rf → Instr) × (Fmt → Env → Word → Nat → Nat → FOut)) :=
  [(.vaddFp, fun f e w a b => roundWith f e w (sumVals e.rf [operand f e a, operand f e b])),
   (.vsubFp, fun f e w a b => roundWith f e w (sumVals e.rf [operand f e a, (operand f e b).neg])),
   (.vmulFp, fun f e w a b => roundWith f e w (mulVals (operand f e a) (operand f e b))),
   (.vdiv, fun f e w a b => roundWith f e w (divVals (operand f e a) (operand f e b))),
   (.vminFp, fun f e _ a b => fpMinMax f e false a b), (.vmaxFp, fun f e _ a b => fpMinMax f e true a b),
   (.vrcps, fpRcps), (.vrsqs, fpRsqs)]

/-- A tile instruction formed its elements in order and retired: flags join the status word, the draws taken are gone. -/
def TileFpRetires (i : Instr) (s : State) (td : TileNo) (g : Fmt) (els : List (Nat × Nat)) (f : Word → Nat → Nat → FOut) : Prop :=
  let r := formElems (cur s) els f
  (flagsTrap (curCfg s) r.2.1 = false → exec i s = .next (stepped s (orStatus (writeElems r.2.2 td g r.1) r.2.1))) ∧
  (flagsTrap (curCfg s) r.2.1 = true →
    exec i s = .next (takeTrap (setCur s (orStatus (cur s) r.2.1)) s.core s.slot 0x13 (word r.2.1) (cur s).pc (cur s).pc))

/-- Bit operations on containers (R228). -/
def tileBitTable : List (TileOp3 × (Fmt → Nat → Nat → Nat)) :=
  [(.vand, fun _ a b => a &&& b), (.vor, fun _ a b => a ||| b), (.vxor, fun _ a b => a ^^^ b),
   (.vandn, fun f a b => a &&& (~~~(BitVec.ofNat f.width b)).toNat)]

/-- Shifts and the carry-less product, on integer formats (R228). -/
def tileShiftTable : List (TileOp3 × (Fmt → Nat → Nat → Nat)) :=
  [(.vshl, fun f a b => (BitVec.ofNat f.width a <<< (b % f.width)).toNat),
   (.vshr, fun f a b => (BitVec.ofNat f.width a >>> (b % f.width)).toNat),
   (.vsar, fun f a b => ((BitVec.ofNat f.width a).sshiftRight (b % f.width)).toNat),
   (.vclmul, fun f a b => clmulNat f.width a b % 2 ^ f.width)]

/-- Comparisons: whether quiet NaNs pass, and the test (R229). -/
def tileCompareTable : List (TileOp3 × Bool × (Int → Bool)) :=
  [(.vceq, true, fun c => c == 0), (.vclt, false, fun c => decide (c < 0)), (.vcle, false, fun c => decide (c ≤ 0))]

/-- The special functions with the formats they accept (R237). -/
def tileSpecialTable : List ((TileNo → TileNo → ShapeNo → TileNo → Rf → Instr) × Accepts × (Fmt → Env → Nat → FOut)) :=
  [(.vexp2, .special, fpExp2), (.vlog2, .special, fpLog2), (.vrcp, .floats, fpRcp), (.vrsq, .floats, fpRsq)]

/-- Tile-scalar arithmetic (R240): on integers, and on floats. -/
def tileScalarTable : List ((TileNo → TileNo → RegNo → ShapeNo → Rf → Instr) × (Int → Int → Int) ×
    (Fmt → Env → Word → Nat → Nat → FOut)) :=
  [(.vadds, fun a k => a + k, fpAdd), (.vsubs, fun a k => a - k, fpSub), (.vmuls, fun a k => a * k, fpMul),
   (.vmins, fun a k => min a k, fun f e _ a k => fpMinMax f e false a k),
   (.vmaxs, fun a k => max a k, fun f e _ a k => fpMinMax f e true a k)]

/-- Reductions and the scan: the positions written, and how many of a row contribute to one (R231). -/
def tileReduceTable : List (TileOp2 × Bool × (Fmt → Env → List Nat → Nat × Nat)) :=
  [(.vscan, true, sumElems), (.vrsum, false, sumElems), (.vrmin, false, fun f e xs => extremeElems f e false xs),
   (.vrmax, false, fun f e xs => extremeElems f e true xs)]

end Sys2Proof.Claims

/-- R216, R226: the integer tile instructions write each live element of td, and only those. -/
def Sys2Proof.Claims.TileIntegerResults : Prop :=
  (∀ p ∈ tileIntTable, ∀ s td ta tb sh mask, TileReady s sh .ints [ta, tb] [td] mask [] →
    let f := shapeFmt (cur s) sh
    exec (p.1 td ta tb sh mask) s = .next (stepped s (writeElems (cur s) td f (elemsOf (liveElems (cur s) sh mask)
      (fun q => wrapElem f (p.2 f (intElemOf (cur s) f ta q) (intElemOf (cur s) f tb q))))))) ∧
  (∀ p ∈ tileIntTable1, ∀ s td ta sh mask, TileReady s sh .ints [ta] [td] mask [] →
    let f := shapeFmt (cur s) sh
    exec (p.1 td ta sh mask) s = .next (stepped s (writeElems (cur s) td f (elemsOf (liveElems (cur s) sh mask)
      (fun q => wrapElem f (p.2 (intElemOf (cur s) f ta q))))))) ∧
  (∀ s td ta tb sh mask, TileReady s sh .ints [ta, tb, td] [td] mask [] →
    let f := shapeFmt (cur s) sh
    exec (.vmacInt td ta tb sh mask) s = .next (stepped s (writeElems (cur s) td f (elemsOf (liveElems (cur s) sh mask)
      (fun q => wrapElem f (intElemOf (cur s) f td q + intElemOf (cur s) f ta q * intElemOf (cur s) f tb q)))))) ∧
  (∀ s td ta sh mask, TileReady s sh .ints [ta] [td] mask [] →
    let f := shapeFmt (cur s) sh
    exec (.vpop td ta sh mask) s = .next (stepped s (writeElems (cur s) td f (elemsOf (liveElems (cur s) sh mask)
      (fun q => ((List.range f.width).filter (tileElem (cur s) ta f q.1 q.2).testBit).length)))))

/-- R210, R211, R216: which elements are live, and what writing elements does: each listed element takes its value, and every
other element of the register and every byte of every other register keep theirs. -/
def Obligations.OnlyLiveElementsAreWritten : Prop :=
  (∀ th sh mask r c, (r, c) ∈ liveElems th sh mask ↔
    r < shapeRows th sh ∧ c < shapeLen th sh ∧ (mask = 0 ∨ maskBit th mask r c = true)) ∧
  (∀ th td f vs, (∀ v ∈ vs, v.1 < 8 ∧ v.2.1 < capOf f ∧ v.2.2 < 2 ^ f.width) → (vs.map (fun v => (v.1, v.2.1))).Nodup →
    (∀ v ∈ vs, tileElem (writeElems th td f vs) td f v.1 v.2.1 = v.2.2) ∧
    (∀ r c, r < 8 → c < capOf f → (r, c) ∉ vs.map (fun v => (v.1, v.2.1)) →
      tileElem (writeElems th td f vs) td f r c = tileElem th td f r c) ∧
    (∀ x i, x ≠ td → i < 1024 → tileByte (writeElems th td f vs) x i = tileByte th x i) ∧
    writeElems th td f vs = { th with tiles := (writeElems th td f vs).tiles })

/-- R107, R112, R219, R227, R236, R237: floating-point, conversion and special instructions form every element before they write any,
join the union of the flags, and write nothing where an enabled trap meets it. -/
def Obligations.TileFloatResults : Prop :=
  (∀ p ∈ tileFpTable, ∀ s td ta tb sh mask rf, TileReady s sh .floats [ta, tb] [td] mask [] →
    let f := shapeFmt (cur s) sh
    TileFpRetires (p.1 td ta tb sh mask rf) s td f (liveElems (cur s) sh mask)
      (fun w r c => p.2 f (curEnv s rf) w (tileElem (cur s) ta f r c) (tileElem (cur s) tb f r c))) ∧
  (∀ s td ta tb sh mask rf, TileReady s sh .floats [ta, tb, td] [td] mask [] →
    let f := shapeFmt (cur s) sh
    TileFpRetires (.vmacFp td ta tb sh mask rf) s td f (liveElems (cur s) sh mask)
      (fun w r c => fpFma f (curEnv s rf) w false (tileElem (cur s) ta f r c) (tileElem (cur s) tb f r c)
        (tileElem (cur s) td f r c))) ∧
  (∀ s td ta sh mask rf, TileReady s sh .floats [ta] [td] mask [] →
    let f := shapeFmt (cur s) sh
    TileFpRetires (.vsqrt td ta sh mask rf) s td f (liveElems (cur s) sh mask)
      (fun w r c => roundWith f (curEnv s rf) w (sqrtVal (operand f (curEnv s rf) (tileElem (cur s) ta f r c))))) ∧
  (∀ p ∈ tileSpecialTable, ∀ s td ta sh mask rf, TileReady s sh p.2.1 [ta] [td] mask [] → (rf = .rne ∨ rf = .fz ∨ rf = .nf) →
    let f := shapeFmt (cur s) sh
    TileFpRetires (p.1 td ta sh mask rf) s td f (liveElems (cur s) sh mask)
      (fun _ r c => p.2.2 f (curEnv s rf) (tileElem (cur s) ta f r c))) ∧
  (∀ s td ta shx sh mask rf, TileReady s sh .any [ta] [td] mask [] →
    let f := shapeFmt (cur s) sh
    let g := shapeFmt (cur s) shx
    TileFpRetires (.vcvt td ta shx sh mask rf) s td g
      ((liveElems (cur s) sh mask).filter (fun q => decide (q.2 < capOf g)))
      (fun w r c => convertFmt g f (curEnv s rf) w (tileElem (cur s) ta f r c)))

/-- R227, R228: sign, logic and shift instructions copy bits and raise nothing. -/
def Sys2Proof.Claims.TileBitResults : Prop :=
  (∀ s td ta sh mask, TileReady s sh .floats [ta] [td] mask [] →
    let f := shapeFmt (cur s) sh
    let live := liveElems (cur s) sh mask
    exec (.vabsFp td ta sh mask) s = .next (stepped s (writeElems (cur s) td f (elemsOf live
      (fun q => tileElem (cur s) ta f q.1 q.2 % 2 ^ (f.width - 1))))) ∧
    exec (.vnegFp td ta sh mask) s = .next (stepped s (writeElems (cur s) td f (elemsOf live
      (fun q => tileElem (cur s) ta f q.1 q.2 ^^^ 2 ^ (f.width - 1)))))) ∧
  (∀ p ∈ tileBitTable, ∀ s td ta tb sh mask, TileReady s sh .any [ta, tb] [td] mask [] →
    let f := shapeFmt (cur s) sh
    exec (p.1 td ta tb sh mask) s = .next (stepped s (writeElems (cur s) td f (elemsOf (liveElems (cur s) sh mask)
      (fun q => p.2 f (tileElem (cur s) ta f q.1 q.2) (tileElem (cur s) tb f q.1 q.2)))))) ∧
  (∀ s td ta sh mask, TileReady s sh .any [ta] [td] mask [] →
    let f := shapeFmt (cur s) sh
    exec (.vnot td ta sh mask) s = .next (stepped s (writeElems (cur s) td f (elemsOf (liveElems (cur s) sh mask)
      (fun q => (~~~(BitVec.ofNat f.width (tileElem (cur s) ta f q.1 q.2))).toNat))))) ∧
  (∀ p ∈ tileShiftTable, ∀ s td ta tb sh mask, TileReady s sh .ints [ta, tb] [td] mask [] →
    let f := shapeFmt (cur s) sh
    exec (p.1 td ta tb sh mask) s = .next (stepped s (writeElems (cur s) td f (elemsOf (liveElems (cur s) sh mask)
      (fun q => p.2 f (tileElem (cur s) ta f q.1 q.2) (tileElem (cur s) tb f q.1 q.2))))))

/-- R112, R211, R225, R229: comparisons and `vmsk` write mask bits: those of live elements, those of the whole grant; a comparison writes
nothing where an enabled trap meets its flags (0x13). -/
def Sys2Proof.Claims.TileMaskResults : Prop :=
  (∀ p ∈ tileCompareTable, ∀ s td ta tb sh mask, TileReady s sh .both [ta, tb] [td] mask [] →
    let f := shapeFmt (cur s) sh
    let rs := (liveElems (cur s) sh mask).map (fun q => (q, elemTest f (curEnv s .rne) p.2.1 p.2.2
      (tileElem (cur s) ta f q.1 q.2) (tileElem (cur s) tb f q.1 q.2)))
    let fl := rs.foldl (fun a x => a ||| x.2.2) 0
    (flagsTrap (curCfg s) fl = false → exec (p.1 td ta tb sh mask) s =
      .next (stepped s (orStatus (rs.foldl (fun t x => setMaskBit t td x.1.1 x.1.2 x.2.1) (cur s)) fl))) ∧
    (flagsTrap (curCfg s) fl = true → exec (p.1 td ta tb sh mask) s =
      .next (takeTrap (setCur s (orStatus (cur s) fl)) s.core s.slot 0x13 (word fl) (cur s).pc (cur s).pc))) ∧
  (∀ s td b sh w th, TileReady s sh .any [] [td] 0 [b] → tileSources s sh [b] = .ok ([w], th) →
    ∃ t, exec (.vmsk td b sh) s = .next t ∧ t = setCur s (cur t) ∧
      (∀ r c, shapeRows th sh ≤ 8 → shapeLen th sh ≤ 1024 → r < shapeRows th sh → c < shapeLen th sh →
        maskBit (cur t) td r c = decide ((w.extractLsb' 0 16).toNat ≤ c ∧ c < (w.extractLsb' 16 16).toNat ∧
          (w.extractLsb' 32 8).toNat ≤ r ∧ r < (w.extractLsb' 40 8).toNat))) ∧
  (∀ th td r c v r2 c2, r < 8 → c < 1024 → r2 < 8 → c2 < 1024 →
    maskBit (setMaskBit th td r c v) td r2 c2 = if r2 = r ∧ c2 = c then v else maskBit th td r2 c2)

/-- R107, R238, R239: `vclr` writes zero bits and clears td's poison bit; `vrnd` fills the live elements of each row from the slot's
generator: a row with live elements starts a fresh draw, its live elements take the draw's next bits, lowest first, in ascending column,
and a new draw follows where too few are left; neither raises a flag. -/
def Sys2Proof.Claims.ClearAndRandomFill : Prop :=
  (∀ s td sh mask, TileReady s sh .any [] [td] mask [] →
    ∃ t, exec (.vclr td sh mask) s = .next t ∧ t = setCur s (cur t) ∧
      (cur t).tiles = (writeElems (cur s) td (shapeFmt (cur s) sh) (elemsOf (liveElems (cur s) sh mask) (fun _ => 0))).tiles ∧
      (∀ i, i < 16 → (cur t).tilePoison.getLsbD i = ((cur s).tilePoison.getLsbD i && i != td.toNat)) ∧
      (cur t).fpStatus = (cur s).fpStatus ∧ (cur t).regs = (cur s).regs ∧ (cur t).pc = pcNext (cur s).pc) ∧
  (∀ s td sh mask, TileReady s sh .any [] [td] mask [] →
    ∃ t, exec (.vrnd td sh mask) s = .next t ∧ t = setCur s (cur t) ∧ (cur t).fpStatus = (cur s).fpStatus ∧
      (cur t).regs = (cur s).regs ∧ (cur t).pc = pcNext (cur s).pc ∧
      (liveElems (cur s) sh mask = [] → cur t = { cur s with pc := pcNext (cur s).pc, status := .ready }) ∧
      (∀ c, liveElems (cur s) sh mask = [(0, c)] → (cur t).genP = (stepGen (cur s)).genP ∧
        (cur t).tiles = (setTileElem (cur s) td (shapeFmt (cur s) sh) 0 c
          ((nextDraw (cur s)).toNat % 2 ^ (shapeFmt (cur s) sh).width)).tiles) ∧
      (let f := shapeFmt (cur s) sh
       let per := 64 / f.width
       let live := fun (r : Nat) => ((liveElems (cur s) sh mask).filter (fun q => q.1 == r)).map (·.2)
       let before := fun (r : Nat) => ((List.range r).map (fun q => ((live q).length + per - 1) / per)).sum
       let after := fun (n : Nat) => (List.range n).foldl (fun (th : Thread) _ => stepGen th) (cur s)
       shapeRows (cur s) sh ≤ 8 → shapeLen (cur s) sh ≤ capOf f →
        (cur t).genP = (after (before 8)).genP ∧
        (∀ r j c, (live r)[j]? = some c → tileElem (cur t) td f r c =
          (nextDraw (after (before r + j / per))).toNat / 2 ^ (f.width * (j % per)) % 2 ^ f.width) ∧
        (∀ r c, r < 8 → c < capOf f → (r, c) ∉ liveElems (cur s) sh mask →
          tileElem (cur t) td f r c = tileElem (cur s) td f r c)))

/-- R214, R215, R222 to R224: `vsh` grants at most 8 rows and 128 bytes a row and returns the grant; `vsp` records the shape
point; `vshq` reads a shape register back. -/
def Sys2Proof.Claims.ShapesAreGranted : Prop :=
  (∀ s d a sh fmt x th, Ready s [a] d [x] th →
    ∃ th2, exec (.vsh d a sh fmt) s = .next (wrote s th2 d (word ((shapeRows th2 sh) * 2 ^ 32 + shapeLen th2 sh))) ∧
      th2 = { th with shapes := th2.shapes } ∧ shapeFmt th2 sh = fmt ∧
      (shapeRows th2 sh, shapeLen th2 sh) = (if (x.extractLsb' 32 32).toNat = 0 ∨ (x.extractLsb' 0 32).toNat = 0 then (0, 0)
        else (min (x.extractLsb' 32 32).toNat 8, min (x.extractLsb' 0 32).toNat (capOf fmt))) ∧
      (shapeReg th2 sh).extractLsb' 0 64 = x ∧ (shapeReg th2 sh).extractLsb' 93 2 = 0b01#2 ∧
      (∀ k, k ≠ sh → shapeReg th2 k = shapeReg th k)) ∧
  (∀ s, Live s → exec .vsp s = .next (stepped s { cur s with point := some (cur s).pc })) ∧
  (∀ s d sh th, Ready s [] d [] th →
    ∃ w, exec (.vshq d sh) s = .next (wrote s th d w) ∧ w.extractLsb' 0 16 = (shapeReg th sh).extractLsb' 64 16 ∧
      w.extractLsb' 16 8 = (shapeReg th sh).extractLsb' 80 8 ∧ w.extractLsb' 24 5 = (shapeReg th sh).extractLsb' 88 5 ∧
      w.extractLsb' 29 2 = (shapeReg th sh).extractLsb' 93 2 ∧ w.getLsbD 31 = th.point.isSome ∧
      w.extractLsb' 32 8 = 8 ∧ w.extractLsb' 40 16 = 128 ∧ w.extractLsb' 56 8 = 0)

/-- R112, R240: tile-scalar instructions; arithmetic on floats writes nothing where an enabled trap meets its flags (0x13). -/
def Sys2Proof.Claims.TileScalarResults : Prop :=
  (∀ p ∈ tileScalarTable, ∀ s td ta b sh rf x th, TileReady s sh .both [ta] [td] 0 [b] →
    ((shapeFmt (cur s) sh).isInt = true → rf = .rne) → tileSources s sh [b] = .ok ([x], th) →
    let f := shapeFmt th sh
    let k := x.toNat % 2 ^ f.width
    let r := formElems th (liveElems th sh 0) (fun w r c =>
      if f.isInt then .exact (wrapElem f (p.2.1 (intElemOf th f ta (r, c)) (decodeInt f k))) 0
      else p.2.2 f (curEnv s rf) w (tileElem th ta f r c) k)
    (flagsTrap (curCfg s) r.2.1 = false →
      exec (p.1 td ta b sh rf) s = .next (stepped s (orStatus (writeElems r.2.2 td f r.1) r.2.1))) ∧
    (flagsTrap (curCfg s) r.2.1 = true →
      exec (p.1 td ta b sh rf) s =
        .next (takeTrap (setCur s (orStatus (cur s) r.2.1)) s.core s.slot 0x13 (word r.2.1) (cur s).pc (cur s).pc))) ∧
  (∀ s td b sh x th, TileReady s sh .any [] [td] 0 [b] → tileSources s sh [b] = .ok ([x], th) →
    let f := shapeFmt th sh
    exec (.vsplat td b sh) s =
      .next (stepped s (writeElems th td f (elemsOf (liveElems th sh 0) (fun _ => x.toNat % 2 ^ f.width)))) ∧
    exec (.vins td b sh) s =
      .next (stepped s (if zeroGrant th sh then th else setTileElem th td f 0 0 (x.toNat % 2 ^ f.width)))) ∧
  (∀ s ta d sh, TileReady s sh .any [ta] [] 0 [d] → checkDst (cur s) d = .ok () → dstReady s (cur s) d = .ok () →
    exec (.vext ta d sh) s = .next (wrote s (cur s) d
      (if zeroGrant (cur s) sh then 0
       else BitVec.ofInt 64 (intElemOf (cur s) (shapeFmt (cur s) sh) ta (0, 0)))))

/-- R230: movement copies element bits. -/
def Sys2Proof.Claims.TileMovement : Prop :=
  (∀ s td ta sh mask, TileReady s sh .any [ta] [td] mask [] →
    let f := shapeFmt (cur s) sh
    exec (.vmov td ta sh mask) s = .next (stepped s (writeElems (cur s) td f (elemsOf (liveElems (cur s) sh mask)
      (fun q => tileElem (cur s) ta f q.1 q.2)))) ∧
    exec (.vbcast td ta sh mask) s = .next (stepped s (writeElems (cur s) td f (elemsOf (liveElems (cur s) sh mask)
      (fun q => tileElem (cur s) ta f 0 q.2)))) ∧
    exec (.vtrn td ta sh mask) s = .next (stepped s (writeElems (cur s) td f (elemsOf
      ((gridOf (min (shapeLen (cur s) sh) 8) (shapeRows (cur s) sh)).filter (fun q => maskOk (cur s) mask q.1 q.2))
      (fun q => tileElem (cur s) ta f q.2 q.1))))) ∧
  (∀ s td ta tb sh mask, TileReady s sh .wide [ta, tb] [td] mask [] →
    let f := shapeFmt (cur s) sh
    exec (.vperm td ta tb sh mask) s = .next (stepped s (writeElems (cur s) td f (elemsOf (liveElems (cur s) sh mask)
      (fun q => if (tileByte (cur s) tb (128 * q.1 + q.2)).toNat < shapeLen (cur s) sh
        then tileElem (cur s) ta f q.1 (tileByte (cur s) tb (128 * q.1 + q.2)).toNat else 0))))) ∧
  (∀ s td ta tb sh mask, TileReady s sh .any [ta, tb] [td] mask [] →
    let f := shapeFmt (cur s) sh
    exec (.vrot td ta tb sh mask) s = .next (stepped s (writeElems (cur s) td f (elemsOf (liveElems (cur s) sh mask)
      (fun q => tileElem (cur s) ta f q.1
        ((q.2 + (tileByte (cur s) tb (128 * q.1)).toNat) % shapeLen (cur s) sh)))))) ∧
  (∀ s td ta tb sh, TileReady s sh .any [ta, tb] [td] 0 [] →
    let f := shapeFmt (cur s) sh
    let sel := fun r n => (List.range n).filter (fun c => maskBit (cur s) tb r c)
    exec (.vcpr td ta tb sh) s = .next (stepped s (writeElems (cur s) td f (elemsOf (liveElems (cur s) sh 0)
      (fun q => ((sel q.1 (shapeLen (cur s) sh))[q.2]?.map (tileElem (cur s) ta f q.1)).getD 0)))) ∧
    exec (.vexd td ta tb sh) s = .next (stepped s (writeElems (cur s) td f (elemsOf (liveElems (cur s) sh 0)
      (fun q => if maskBit (cur s) tb q.1 q.2 then tileElem (cur s) ta f q.1 (sel q.1 q.2).length else 0)))))

/-- R112, R231: the scan writes each live element with the sum of the contributing elements up to it; the reductions write element
(r, 0) of every granted row; either writes nothing where an enabled trap meets its flags (0x13). That a sum with
+inf, -inf and a quiet NaN sets invalid is the model's choice (log 120). -/
def Sys2Proof.Claims.ScanAndReductions : Prop :=
  ∀ p ∈ tileReduceTable, ∀ s td ta sh mask, TileReady s sh .both [ta] [td] mask [] →
    let f := shapeFmt (cur s) sh
    let els := if p.2.1 then liveElems (cur s) sh mask
      else if zeroGrant (cur s) sh then [] else (List.range (shapeRows (cur s) sh)).map (fun r => (r, 0))
    let v := fun (q : Nat × Nat) => p.2.2 f (curEnv s .rne)
      (((List.range (if p.2.1 then q.2 + 1 else shapeLen (cur s) sh)).filter (maskOk (cur s) mask q.1)).map
        (tileElem (cur s) ta f q.1))
    let fl := (els.map v).foldl (fun a x => a ||| x.2) 0
    (flagsTrap (curCfg s) fl = false →
      exec (p.1 td ta sh mask) s =
        .next (stepped s (orStatus (writeElems (cur s) td f (elemsOf els (fun q => (v q).1))) fl))) ∧
    (flagsTrap (curCfg s) fl = true →
      exec (p.1 td ta sh mask) s =
        .next (takeTrap (setCur s (orStatus (cur s) fl)) s.core s.slot 0x13 (word fl) (cur s).pc (cur s).pc))

namespace Sys2Proof.Claims

/-! ### Families and the lives of threads (R184 to R206) -/

/-- The handle names this family in the thread's table, and no failure (R188). -/
def NamesFamily (th : Thread) (h : Word) (fam : Nat) : Prop :=
  failCode h = none ∧ (th.famTable.find? (fun e => e.handle == h)).map (·.fam) = some fam

/-- The handle is the failure of code c: bit 63 and the code, c from 1 to 8 (R188). -/
def NamesFailure (h : Word) (c : Nat) : Prop := 1 ≤ c ∧ c ≤ 8 ∧ h = BitVec.ofNat 64 (2 ^ 63 + c)

/-- A handle operand a and a destination d are ready, and no fence holds the instruction. -/
def HandleReady (s : State) (d a : RegNo) (h : Word) (th : Thread) : Prop :=
  Ready s [a] d [h] th ∧ isHeld s (cur s) 0 = false

/-- A family has ended: it has an outcome, no thread of it is left, and what its killed members had issued is performed (R187, R200). -/
def HasEnded (s : State) (fam : Nat) (f : Family) : Prop :=
  getFam s fam = some f ∧ f.outcome ≠ .running ∧ memberUids s fam = [] ∧ uidsOwe s f.killed = false

/-- A thread may end: slot 0 to 30, its counters zero, every family it created ended, no task of its own uncommitted, nothing
pending (R201). -/
def MayEnd (s : State) : Prop :=
  Live s ∧ s.slot ≠ 31 ∧ (cur s).cntL = 0 ∧ (cur s).cntS = 0 ∧ (cur s).cntC = 0 ∧ (cur s).cntM = 0 ∧
  (∀ p ∈ s.families, p.2.creator ≠ (cur s).uid ∨ famEnded s p.1 = true) ∧ (∀ x ∈ s.tasks, x.root ≠ (cur s).uid) ∧
  tenqOwed s = false ∧
  checkPending (cur s) = .ok ()

/-- What `qry` returns to any thread, by selector (R204). -/
def qryAnyTable (s : State) (th : Thread) : List (Nat × Word) :=
  [(0x00, word s.slot), (0x01, word (logicalCore s th.ctx s.core)),
   (0x06, word (th.ctx % 512)), (0x07, th.fpStatus.setWidth 64), (0x08, th.fpStatus.setWidth 64), (0x09, th.hdr.flags.setWidth 64),
   (0x0B, word (coresOf s th.ctx s.core (threadPlace s s.core th)).length),
   (0x0C, word (th.cntL % 16 + th.cntS % 16 * 16 + th.cntC % 32 * 256 + th.cntM % 16 * 8192)),
   (0x0D, word ((List.range 29).filter (fun t => (getThread s s.core t).status == .free)).length),
   (0x0E, if th.hdr.stack = 0 then 0 else word (0xF000000000000 + th.stackBase))]

/-- What it returns to a member of a family: level code and index of the family's place in 0x05. -/
def qryTable (s : State) (th : Thread) (f : Family) : List (Nat × Word) :=
  qryAnyTable s th ++
  [(0x02, word th.member), (0x03, BitVec.ofInt 64 (f.start + th.member * (if f.step = 0 then 1 else f.step))), (0x04, word f.count),
   (0x05, word (f.lvl + 1 + 16 * f.index)), (0x0A, word th.frames.length)]

end Sys2Proof.Claims

/-- R184, R185, R188, R196: `crt` reads the descriptor and the header, returns the failure handle of the first check that
fails, and otherwise records a running family (or a completed one of no members) under an opaque handle (log 12). -/
def Sys2Proof.Claims.CrtRecordsAFamily : Prop :=
  ∀ s d a va th x s1 h s2, Ready s [a] d [va] th → (cur s).kind ≠ .rowHandler → (cur s).kind ≠ .edgeHandler →
    isHeld s (cur s) 1 = false → va.toNat % 64 = 0 → specTask s (cur s) = none → (cur s).cntL < 15 →
    descRead (setCur s th) va 64 0x06 = .ok (x, s1) →
    descRead s1 (wordAt x 48) 64 0x06 = .ok (h, s2) →
    (crtCode s2 (cur s2) x h ≠ 0 →
      exec (.crt d a) s = .next (retire (writeReg s2 d (BitVec.ofNat 64 (2 ^ 63 + crtCode s2 (cur s2) x h))))) ∧
    (crtCode s2 (cur s2) x h = 0 → ∃ m w f, exec (.crt d a) s = .next (retire (writeReg m d w)) ∧
      m = { s2 with threads := m.threads, families := m.families, nextId := s2.nextId + 1, freeCtr := s2.freeCtr + 1 } ∧
      w.getLsbD 63 = false ∧ getFam m s2.nextId = some f ∧ f.ctx = (cur s2).ctx ∧ f.creator = (cur s2).uid ∧
      f.start = intAt x 0 ∧ f.limit = intAt x 8 ∧ f.step = intAt x 16 ∧ f.claimed = 0 ∧ f.chunks = [] ∧
      f.count = familyCount (intAt x 0) (intAt x 8) (intAt x 16) ∧
      f.outcome = (if f.count = 0 then .completed else .running) ∧
      (((cur s2).famTable.length < 8) → (cur m).famTable = (cur s2).famTable ++ [⟨w, s2.nextId, false, 0⟩]))

/-- R184, R185: the member count is the number of indices from start, by step, before limit; a step of 0 is 1. -/
def Sys2Proof.Claims.MemberCountsAreTheIndicesBeforeTheLimit : Prop :=
  ∀ (start limit step : Int) (k : Nat), let st := if step = 0 then 1 else step
    k < familyCount start limit step ↔ if 0 < st then start + k * st < limit else limit < start + k * st

/-- R173, R188, R192, R199, R254: `sync` waits while stores are owed; then it raises a guard touch (0x07), or else a lost operation that
is pending (0x14, 0x15); then it waits for the family, returns its outcome and marks the entry synced. -/
def Obligations.SyncReturnsTheOutcome : Prop :=
  (∀ s d a h th, HandleReady s d a h th →
    (0 < (cur s).cntS → exec (.sync d a) s = .next (waits s .waitFamily)) ∧
    ((cur s).cntS = 0 → (cur s).guard0.getLsbD 47 = true → exec (.sync d a) s = .next (trapped s 0x07 0)) ∧
    (∀ p, (cur s).cntS = 0 → (cur s).guard0.getLsbD 47 = false → (cur s).indetOps = some p →
      exec (.sync d a) s = .next (takeTrap (setCur s (popLost (cur s))) s.core s.slot p.cause p.detail (cur s).pc (cur s).pc))) ∧
  ∀ s d a h th, HandleReady s d a h th → (cur s).cntS = 0 → checkPending (cur s) = .ok () →
    (∀ c, NamesFailure h c → exec (.sync d a) s = .next (wrote s th d (BitVec.ofNat 64 c))) ∧
    (∀ fam f x, NamesFamily (cur s) h fam → HasEnded s fam f →
      ((f.outcome = .completed ∧ (f.hdr.s = 0 ∨ f.count = 0) ∧ x = fullReg 0) ∨
       (f.outcome = .completed ∧ 0 < f.hdr.s ∧ 0 < f.count ∧
         (∀ n, n < f.hdr.s → (mapFind f.shareds ((f.count - 1) * 64 + n)).isSome = true) ∧
         ∃ y, mapFind f.shareds ((f.count - 1) * 64) = some y ∧ x = { y with full := true, pend := false }) ∨
       (∃ k v, f.outcome = .broke k v ∧ x = fullReg v) ∨ (∃ c, f.outcome = .failed c ∧ x = fullReg (BitVec.ofNat 64 c))) →
      exec (.sync d a) s = .next (wroteReg { s with nextId := s.nextId + 1 }
        { th with
          famTable := th.famTable.map (fun e => if e.fam = fam then { e with synced := true, stamp := s.nextId } else e)
          wantFold := 0 } d x)) ∧
    (∀ fam f, NamesFamily (cur s) h fam → getFam s fam = some f → f.outcome = .running → f.placed = true →
      exec (.sync d a) s = .next (waits s .waitFamily)) ∧
    (failCode h = none → (cur s).famTable.find? (fun e => e.handle == h) = none →
      exec (.sync d a) s = .next (trapped s 0x06 0))

/-- R197: `fput` and `fput.s` send their value to the home of a running family; a failed or ended one takes nothing. -/
def Sys2Proof.Claims.FputSendsToTheHome : Prop :=
  ∀ s a b h v th, ReadyFor s [a, b] [h, v] th → isHeld s (cur s) 0 = false →
    (∀ n c, NamesFailure h c → exec (.fput n a b) s = .next (stepped s th) ∧ exec (.fputS n a b) s = .next (stepped s th)) ∧
    (∀ (n : BitVec 6) fam f, NamesFamily (cur s) h fam → getFam s fam = some f →
      (∀ (dep : Bool), (if dep then f.hdr.s else f.hdr.g) ≤ n.toNat →
        exec (if dep then .fputS n a b else .fput n a b) s = .next (trapped s 0x02 0)) ∧
      (∀ (dep : Bool), n.toNat < (if dep then f.hdr.s else f.hdr.g) → HasEnded s fam f →
        exec (if dep then .fputS n a b else .fput n a b) s = .next (stepped s th)) ∧
      (∀ (dep : Bool), n.toNat < (if dep then f.hdr.s else f.hdr.g) → f.outcome = .running → th.cntS < 15 →
        ∃ t q, exec (if dep then .fputS n a b else .fput n a b) s = .next t ∧
          t = { s with threads := t.threads, flights := s.flights ++ [q], nextId := s.nextId + 1 } ∧ OthersKept s t ∧
          cur t = { th with cntS := th.cntS + 1, pc := pcNext th.pc, status := .ready } ∧
          q.kind = .famPut fam n.toNat dep ∧ q.b = v ∧ q.uid = th.uid))

/-- R198: `fget` returns a recorded global, `fget.s` a shared of the last member once the family has completed, `fget.brk`
how it ended; of a failure handle they return 0, 0 and 2^64 - 2. -/
def Sys2Proof.Claims.FgetReadsTheFamily : Prop :=
  ∀ s d a h th, HandleReady s d a h th →
    (∀ n c, NamesFailure h c → exec (.fget d a n) s = .next (wrote s th d 0) ∧
      exec (.fgetS d a n) s = .next (wrote s th d 0) ∧ exec (.fgetBrk d a) s = .next (wrote s th d (BitVec.ofNat 64 (2 ^ 64 - 2)))) ∧
    (∀ (n : BitVec 6) fam f v, NamesFamily (cur s) h fam → getFam s fam = some f → n.toNat < f.hdr.g →
      mapFind f.globals n.toNat = some v → exec (.fget d a n) s = .next (wrote s th d v)) ∧
    (∀ (n : BitVec 6) fam f, NamesFamily (cur s) h fam → getFam s fam = some f → n.toNat < f.hdr.g →
      mapFind f.globals n.toNat = none → exec (.fget d a n) s = .next (waits s .waitFamily)) ∧
    (∀ (n : BitVec 6) fam f x, NamesFamily (cur s) h fam → HasEnded s fam f → n.toNat < f.hdr.s → f.outcome = .completed →
      0 < f.count → (∀ m, m < f.hdr.s → (mapFind f.shareds ((f.count - 1) * 64 + m)).isSome = true) →
      mapFind f.shareds ((f.count - 1) * 64 + n.toNat) = some x →
      exec (.fgetS d a n) s = .next (wroteReg s { th with wantFold := 0 } d { x with full := true, pend := false })) ∧
    (∀ fam f v, NamesFamily (cur s) h fam → HasEnded s fam f →
      ((∃ k w, f.outcome = .broke k w ∧ v = BitVec.ofNat 64 k) ∨ (f.outcome = .completed ∧ v = BitVec.allOnes 64) ∨
        (∃ c, f.outcome = .failed c ∧ v = BitVec.ofNat 64 (2 ^ 64 - 2))) →
      exec (.fgetBrk d a) s = .next (wrote s { th with wantFold := 0 } d v))

/-- R126, R181, R187, R200, R201, R254, R304, R315, R353, R361: how a thread ends. `exit` frees the slot, counts the member, and the last
one completes the family, once no result is owed to a shared of its own; in a task it acts as `texit`, after the 0x07 of a touch not yet
reported; `brk` sends its value to the home and frees the slot, and raises 0x06 in slots 29 and 30 and in handlers,
before any naming check by the model's choice (log 91). -/
def Sys2Proof.Claims.ThreadsEnd : Prop :=
  (∀ s f, MayEnd s → (cur s).kind = .member → (cur s).frames = [] → sharedOwed (cur s) = false → getFam s (cur s).fam = some f →
    ∃ t f2, exec .exit s = .next t ∧ getThread t s.core s.slot = Thread.free ∧ OthersKept s t ∧
      getFam t (cur s).fam = some f2 ∧ f2.ended = f.ended + 1 ∧ f2.count = f.count ∧
      f2.outcome = (if f.ended + 1 = f.count ∧ f.outcome = .running ∧ breakSent s (cur s).fam = false then .completed
        else f.outcome)) ∧
  (∀ s, MayEnd s → sharedOwed (cur s) = true → exec .exit s = .next (waits s .waitReg)) ∧
  (∀ s, Live s → s.slot ≠ 31 → (cur s).cntL = 0 → (cur s).cntS = 0 → (cur s).cntC = 0 → (cur s).cntM = 0 → (cur s).kind = .task →
    bits (cur s).guard0 47 47 = 1 → exec .exit s = .next (trapped s 0x07 0)) ∧
  (∀ s, MayEnd s → (cur s).kind = .rowHandler → (cur s).item < 128 →
    ∃ t, exec .exit s = .next t ∧ getThread t s.core s.slot = Thread.free ∧ OthersKept s t ∧
      (getCore t s.core).rowPend.getLsbD (cur s).item = false) ∧
  (∀ s, MayEnd s → (cur s).kind = .kernel → exec .exit s = .next (freeThread s s.core s.slot)) ∧
  (∀ s, MayEnd s → (cur s).kind = .task → exec .exit s = exec .texit s) ∧
  (∀ s a, Live s → (s.slot = 29 ∨ s.slot = 30 ∨ (cur s).kind = .rowHandler ∨ (cur s).kind = .edgeHandler) →
    exec (.brk a) s = .next (trapped s 0x06 0)) ∧
  (∀ s a v th, MayEnd s → s.slot ≠ 29 → s.slot ≠ 30 → (cur s).kind = .member → (cur s).frames = [] → ReadyFor s [a] [v] th →
    ∃ t q, exec (.brk a) s = .next t ∧ getThread t s.core s.slot = Thread.free ∧ OthersKept s t ∧
      t.flights = s.flights ++ [q] ∧ q.kind = .brk (cur s).fam (cur s).member ∧ q.b = v)

/-- R202, R204: `yield` lets the other ready threads of its core go first; `qry` returns its selector's value, 0x08 clearing the
status word it returns, and a selector above 0x0E is illegal. A thread that is no member has zero in 0x02 to 0x04 and 0x0A, a handler in
0x05 too; for a task and a kernel thread that is the model's choice (log 13). -/
def Sys2Proof.Claims.YieldAndQry : Prop :=
  (∀ s, Live s → isHeld s (cur s) 0 = false → ∃ t, exec .yield s = .next t ∧ t = { s with threads := t.threads } ∧ OthersKept s t ∧
    cur t = { cur s with pc := pcNext (cur s).pc, status := .ready, yielded := true, waited := 0, yieldFor := (cur t).yieldFor } ∧
    (∀ k, k < 32 → k ≠ s.slot → (getThread s s.core k).status = .ready → (getThread s s.core k).uid ∈ (cur t).yieldFor)) ∧
  (∀ s d th f, Ready s [] d [] th → isHeld s (cur s) 0 = false → th.kind = .member → getFam s th.fam = some f → ∀ p ∈ qryTable s th f,
    exec (.qry d (BitVec.ofNat 6 p.1)) s = .next (wrote s (if p.1 = 0x08 then { th with fpStatus := 0 } else th) d p.2)) ∧
  (∀ s d th, Ready s [] d [] th → isHeld s (cur s) 0 = false → ∀ p ∈ qryAnyTable s th,
    exec (.qry d (BitVec.ofNat 6 p.1)) s = .next (wrote s (if p.1 = 0x08 then { th with fpStatus := 0 } else th) d p.2)) ∧
  (∀ s d th n, Ready s [] d [] th → isHeld s (cur s) 0 = false → th.kind ≠ .member → n ∈ [0x02#6, 0x03#6, 0x04#6, 0x0A#6] →
    exec (.qry d n) s = .next (wrote s th d 0)) ∧
  (∀ s d th, Ready s [] d [] th → isHeld s (cur s) 0 = false → (th.kind = .rowHandler ∨ th.kind = .edgeHandler ∨ th.kind = .trapHandler) →
    exec (.qry d 0x05) s = .next (wrote s th d 0)) ∧
  (∀ s d (n : BitVec 6) th, Ready s [] d [] th → isHeld s (cur s) 0 = false → n.toNat ≤ 0x0E → ∃ th2 v, exec (.qry d n) s = .next (wrote s th2 d v)) ∧
  (∀ s d (n : BitVec 6), Live s → 0x0E < n.toNat → exec (.qry d n) s = .next (trapped s 0x01 0))

/-- R189 to R192, R205: a claim hands out a returned chunk, else the next members (that order is the model's choice, log 64), the larger
of block and the even share, at most what is left; a member starts in the lowest free slot at the header's entry, its index full; a fold spills the creator and starts
member 0 in its slot. -/
def Obligations.MembersComeToRun : Prop :=
  (∀ s c fam f, s.event = .chunkClaim c fam → getFam s fam = some f → mayClaim s fam f c = true → claimTurn s fam f c = true →
    ∃ t f2 k, exec .chunkClaim s = .next t ∧ getFam t fam = some f2 ∧ f2.chunks = f.chunks ++ [k] ∧ k.core = c ∧
      k.started = 0 ∧ k.ended = [] ∧
      (∀ p r, f.back = p :: r → (k.first, k.size) = p ∧ f2.back = r ∧ f2.claimed = f.claimed) ∧
      (∀ n, f.back = [] → n = (coresOf s f.ctx f.home ⟨f.place, f.index, f.scope, f.lvl⟩).length → 0 < n →
        k.first = f.claimed ∧ f2.claimed = f.claimed + k.size ∧
        k.size = min (f.count - f.claimed) (max 1 (max f.block ((f.count - f.claimed + 2 * n - 1) / (2 * n)))))) ∧
  (∀ s c fam stack f k i, s.event = .memberStart c fam stack → getFam s fam = some f → f.folded = false →
    openChunk s f c = some k → freeSlot s c = some i → firstClaim s c k = true → hasRoom s c f.hdr fam stack = true →
    (getCore s c).killed = false →
    ∃ t th, exec .memberStart s = .next t ∧ getThread t c i = th ∧ th.status = .ready ∧ th.kind = .member ∧ th.fam = fam ∧
      th.member = k.first + k.started ∧ th.hdr = f.hdr ∧ th.pc = f.hdr.entry ∧ th.ctx = f.ctx ∧ th.uid = s.nextId ∧
      th.tiles = [] ∧ th.eng = [] ∧ th.fpStatus = 0 ∧ th.famTable = [] ∧
      (f.globals = [] → f.deps = [] → f.arrived = [] → f.ext.head? = some 0 → 0 < f.hdr.l → windowSize f.hdr ≤ 64 →
        getReg th (BitVec.ofNat 6 (1 + f.hdr.g + 2 * f.hdr.s)) = fullReg (BitVec.ofInt 64 (f.start +
          ((k.first + k.started : Nat) : Int) * (if f.step = 0 then 1 else f.step))))) ∧
  (∀ s c i stack th f, s.event = .fold c i stack → getThread s c i = th → getFam s th.wantFold = some f → th.wantFold ≠ 0 →
    th.status = .waitFamily → mayFold th f = true → quiet th = true → th.frames = [] →
    (∀ x, foldResources s c th f.hdr = .found x → x.stack = false → stackFits (getCore s c) f.hdr.stack stack = true →
      stacksFit (withStack (getCore s c) f.hdr.stack stack) ((placeHolders s c 0).map (·.hdr.stack)) = true →
    ∃ t fr f2 th2, exec .fold s = .next t ∧
      mapFind t.spilled fr = some { th with
        status := .folding, wantFold := 0, foldRegs := x.regs, foldTiles := x.tiles, poolTiles := x.pool, poolStack := 0
        foldPool := x.takes } ∧
      getFam t th.wantFold = some f2 ∧ f2.folded = true ∧ getThread t c i = th2 ∧ th2.status = .ready ∧ th2.kind = .member ∧
      th2.fam = th.wantFold ∧ th2.member = 0 ∧ th2.pc = f.hdr.entry ∧ th2.frames = [fr]))

/-- R181, R197, R200, R278: values reach the members they are for and no other thread; the first break ends the family and a
later one is discarded; the thread counter wraps at 2^20 and the epoch seed moves on. -/
def Obligations.ValuesReachMembers : Prop :=
  (∀ s id r fam k n f, s.event = .sharedDelivery id → getRequest s id = some r → r.kind = .shared fam k n →
    messageFirst s r = true → sharedSealed s fam k = false → getFam s fam = some f → runsAgain f k = false →
    ∃ t, exec .sharedDelivery s = .next t ∧ ∀ c i, getThread t c i =
      if (getThread s c i).kind = .member ∧ (getThread s c i).fam = fam ∧ (getThread s c i).status ≠ .free ∧
          (getThread s c i).member = k + 1
      then { getThread s c i with
        regs := mapSet Reg.empty (getThread s c i).regs (1 + f.hdr.g + f.hdr.s + n) (respReg r r.b) }
      else getThread s c i) ∧
  (∀ s id c0 r fam n dep cores f, s.event = .globalDelivery id c0 → getRequest s id = some r →
    r.kind = .famGive fam n dep cores → c0 ∈ cores → messageFirst s r = true → getFam s fam = some f →
    ∃ t, exec .globalDelivery s = .next t ∧ ∀ c i, getThread t c i =
      if (getThread s c i).kind = .member ∧ (getThread s c i).fam = fam ∧ (getThread s c i).status ≠ .free ∧
          chunkCore f (getThread s c i).member = some c0 ∧ (dep = true → (getThread s c i).member = 0) ∧
          (getThread s c i).uid < id
      then { getThread s c i with
        regs := mapSet Reg.empty (getThread s c i).regs (if dep then 1 + f.hdr.g + f.hdr.s + n else 1 + n) (fullReg r.b) }
      else getThread s c i) ∧
  (∀ s id r fam member f, s.event = .breakAtHome id → getRequest s id = some r → r.kind = .brk fam member →
    getFam s fam = some f →
    ∃ t, exec .breakAtHome s = .next t ∧
      (f.outcome = .running → ∃ f2, getFam t fam = some f2 ∧ f2.outcome = .broke member r.b) ∧
      (f.outcome ≠ .running → t = { s with flights := t.flights } ∧ t.flights = s.flights.filter (fun q => !(q.id == id)))) ∧
  (∀ s ctx x, s.event = .epochAdvance ctx → getCtx s ctx = some x → 2 ^ 20 ≤ x.threads →
    ∃ t, exec .epochAdvance s = .next t ∧ t = { s with contexts := t.contexts } ∧
      getCtx t ctx = some { x with threads := 0, epochP := (epochNext (seedOf x.epochP x.epochQ)).1
                                   epochQ := (epochNext (seedOf x.epochP x.epochQ)).2 })

namespace Sys2Proof.Claims

/-! ### Tasks, keyed sends and watches (R273 to R275, R343 to R358) -/

/-- The `ksend` instructions with their tables (R357). -/
def ksendTable : List ((RegNo → RegNo → Instr) × Nat) := [(.ksendB0, 0), (.ksendB1, 1), (.ksendB2, 2), (.ksendB3, 3)]

/-- The `rxa` instructions with their tables (R355). -/
def rxaTable : List ((RegNo → Instr) × Nat) := [(.rxaB0, 0), (.rxaB1, 1), (.rxaB2, 2), (.rxaB3, 3)]

/-- The instruction sent one request counted in S and retired; s2 is the state that keeps its translations. -/
def SentCounted (i : Instr) (s s2 : State) (kind : ReqKind → Prop) (b e : Word) : Prop :=
  ∃ t q, exec i s = .next t ∧ t = { s2 with threads := t.threads, flights := s2.flights ++ [q], nextId := s2.nextId + 1 } ∧
    OthersKept s2 t ∧ cur t = { cur s2 with
      cntS := (cur s2).cntS + 1, pc := pcNext (cur s2).pc, status := .ready, touched := (cur t).touched } ∧
    q.id = s2.nextId ∧ kind q.kind ∧ q.b = b ∧ q.e = e ∧ q.uid = (cur s2).uid ∧ q.resp = none

/-- The step of a bin (R357): counting adds the number of sends; the others combine the word with the value. -/
def binSteps : List (Nat × (Word → Nat → Word → Word)) :=
  [(0, fun x n _ => x + BitVec.ofNat 64 n), (1, fun x _ v => x + v), (2, fun x _ v => if x.toInt < v.toInt then x else v),
   (3, fun x _ v => if x.toInt < v.toInt then v else x), (4, fun x _ v => x ||| v), (5, fun x n _ => x + BitVec.ofNat 64 n)]

/-- The step of a bin of type `.f64` (R357): add, `fmin` or `fmax` without flushing. -/
def floatBinSteps : List (Nat × (Nat → Nat → Nat)) :=
  [(1, fun x v => (fpAdd .f64 envBare 0 x v).bits), (2, fun x v => (fpMinMax .f64 envBare false x v).bits),
   (3, fun x v => (fpMinMax .f64 envBare true x v).bits)]

/-- The windows a watch may be armed on (R273). -/
def watchWin (w : Win) : Bool := w == .localSp || w == .urn

end Sys2Proof.Claims

/-- R343, R352, R353, R361: `tenq` sends a task with its timestamp, `texit` ends a task's thread and leaves it uncommitted, `tirr`
passes once nothing is speculative; each raises 0x06 where it may not stand: `tenq` and `tirr` in an edge run's handler, `tenq` from slots
29 to 31 and `texit` outside a task. That this comes before any naming check is the model's choice (log 91). -/
def Sys2Proof.Claims.TaskInstructions : Prop :=
  (∀ s a b va stamp th d s1 h s2, ReadyFor s [a, b] [va, stamp] th → s.slot < 29 → (cur s).kind ≠ .edgeHandler →
    isHeld s (cur s) 0 = false → va.toNat % 64 = 0 → descRead (setCur s th) va 64 0x04 = .ok (d, s1) →
    descRead s1 (word (fieldAt d 0 8 % 2 ^ 52 / 64 * 64)) 64 0x04 = .ok (h, s2) → recordOk d = true → headerOk h = true →
    fieldAt h 4 1 = 0 → fieldAt h 5 1 = 0 → th.cntS < 15 →
    SentCounted (.tenq a b) s s2 (fun k => ∃ x, k = .tenq x ∧ x.t = stamp.toNat ∧ x.record = leBytes 64 d ∧
      x.hdr = headerOf (fieldAt d 0 8 / 64 * 64) h ∧ x.ctx = (cur s2).ctx ∧ x.core = none ∧ x.exited = false ∧
      ((cur s2).kind ≠ .task → x.root = (cur s2).uid ∧ x.parent = 0)) 0 0) ∧
  (∀ s a b, Live s → (29 ≤ s.slot ∨ (cur s).kind = .edgeHandler) → exec (.tenq a b) s = .next (trapped s 0x06 0)) ∧
  (∀ s, Live s → (cur s).kind = .task → (cur s).cntL = 0 → (cur s).cntS = 0 → (cur s).cntC = 0 → (cur s).cntM = 0 →
    (cur s).indetOps = none →
    ∃ t, exec .texit s = .next t ∧ getThread t s.core s.slot = Thread.free ∧ OthersKept s t ∧
      t.tasks = s.tasks.map (fun x => if x.id = (cur s).work then { x with exited := true } else x)) ∧
  (∀ s, Live s → (cur s).kind ≠ .task → exec .texit s = .next (trapped s 0x06 0)) ∧
  (∀ s, Live s → (cur s).kind = .edgeHandler → exec .tirr s = .next (trapped s 0x06 0)) ∧
  (∀ s, Live s → isHeld s (cur s) 0 = false → (cur s).kind ≠ .edgeHandler → (cur s).kind ≠ .task →
    (∀ x ∈ s.tasks, x.root ≠ (cur s).uid) → tenqOwed s = false → exec .tirr s = .next (stepped s (cur s))) ∧
  (∀ s, Live s → isHeld s (cur s) 0 = false → (cur s).kind = .task → specTask s (cur s) = none → exec .tirr s = .next (stepped s (cur s))) ∧
  (∀ s x, Live s → isHeld s (cur s) 0 = false → (cur s).kind = .task → specTask s (cur s) = some x → exec .tirr s = .next (waits s .waitFamily))

/-- R344, R345, R348, R350, R353, R354: a task is accepted with a timestamp no less than its parent's and every committed one; the least
reachable one starts with words 0 to 4 of its record in its locals `l0` to `l4`, as far as it has them; an abort returns it with its key and removes its descendants;
becoming non-speculative performs its buffer; a commit, once what its thread has issued is over, raises the greatest committed
timestamp. -/
def Sys2Proof.Claims.TasksRunInKeyOrder : Prop :=
  (∀ s req r x c, s.event = .taskAccept req → getRequest s req = some r → r.kind = .tenq x → getCtx s r.ctx = some c →
    ∃ t y, exec .taskAccept s = .next t ∧ t.tasks = s.tasks ++ [y] ∧ y.id = s.nextId ∧ y.q = c.taskSeq ∧
      y.t = max c.taskMax (match getTask s x.parent with | some p => max x.t p.t | none => x.t) ∧ y.hdr = x.hdr ∧
      getCtx t r.ctx = some { c with taskSeq := c.taskSeq + 1 } ∧ t.flights = s.flights.filter (fun q => !(q.id == req))) ∧
  (∀ s c id stack x i, s.event = .taskStart c id stack → getTask s id = some x → freeSlot s c = some i →
    reachable s c x = true → (getCore s c).killed = false → hasRoom s c x.hdr 0 stack = true →
    (s.tasks.filter (fun y => y.core.map (·.1) == some c)).length < 16 →
    (∀ y ∈ s.tasks, reachable s c y = true → y.id = id ∨ keyLess x y = true) →
    ∃ t th, exec .taskStart s = .next t ∧ getThread t c i = th ∧ th.status = .ready ∧ th.kind = .task ∧ th.work = id ∧
      th.hdr = x.hdr ∧ th.pc = x.hdr.entry ∧ getTask t id = some { x with core := some (c, i), uid := th.uid, spec := true } ∧
      (windowSize x.hdr ≤ 64 → ∀ j, j < 5 → j < x.hdr.l → getReg th (BitVec.ofNat 6 (1 + x.hdr.g + 2 * x.hdr.s + j)) =
        fullReg (word (leValue ((x.record.drop (16 + 8 * j)).take 8))))) ∧
  (∀ s id x, s.event = .taskAbort id → getTask s id = some x → x.spec = true → x.abort = true →
    ∃ t, exec .taskAbort s = .next t ∧ getTask t id = some { x with core := none, spec := false, exited := false
                                                                    abort := false, reads := 0, writes := 0, buf := [] } ∧
      t.mem = s.mem ∧ (∀ y ∈ t.tasks, y.id ≠ id → y.parent ≠ id) ∧
      (∀ y ∈ t.tasks, y.id ≠ id → ¬ Relation.TransGen (fun a b => ∃ z ∈ s.tasks, z.id = b ∧ z.parent = a) id y.id)) ∧
  (∀ s id x, s.event = .taskNonspeculative id → getTask s id = some x → x.spec = true → x.abort = false →
    (∀ y ∈ s.tasks, y.ctx = x.ctx → y.id ≠ id → keyLess x y = true) → s.marks = [] → s.dev.moved = [] →
    (∀ p ∈ x.buf, homeFaults s x.ctx p.1 = false) →
    ∃ t, exec .taskNonspeculative s = .next t ∧ getTask t id = some { x with spec := false, buf := [] } ∧
      (∀ a, memByte t.mem a = (mapFind x.buf a).getD (memByte s.mem a))) ∧
  (∀ s id x c, s.event = .taskCommit id → getTask s id = some x → x.exited = true → x.spec = false →
    (∀ y ∈ s.tasks, y.ctx = x.ctx → y.id ≠ id → keyLess x y = true) → taskOwes s x = false →
    getCtx s x.ctx = some c →
    ∃ t, exec .taskCommit s = .next t ∧ t.tasks = s.tasks.filter (fun y => !(y.id == id)) ∧
      getCtx t x.ctx = some { c with taskMax := max c.taskMax x.t })

/-- R155, R355 to R357: `ksend` sends a key and a value over the thread's place, `rxa` a table to every core of it; the unit of the
target performs one indivisible step on the bin, whose type is an integer's or a float's, and each core takes the table. -/
def Obligations.KeyedSendsAccumulate : Prop :=
  (∀ p ∈ ksendTable, ∀ s a b k v th, ReadyFor s [a, b] [k, v] th → isHeld s (cur s) 3 = false → specTask s (cur s) = none →
    th.cntS < 15 →
    SentCounted (p.1 a b) s (setCur s th) (fun q => q = .ksend p.2 1 (threadPlace s s.core (cur s)).level
      (threadPlace s s.core (cur s)).index) v k) ∧
  (∀ p ∈ rxaTable, ∀ s a va th d s1, ReadyFor s [a] [va] th → isHeld s (cur s) 0 = false → va.toNat % 8 = 0 →
    specTask s (cur s) = none → descWords (setCur s th) va 0x06 4 = .ok (d, s1) →
    (binTableOf (cur s).ctx d = none → exec (p.1 a) s = .next (trapped s 0x06 va)) ∧
    (∀ b, binTableOf (cur s).ctx d = some b → inAllocation (getCore s s.core) (cur s).ctx b.base (8 * b.nbins + 8) = true →
      th.cntS < 15 → SentCounted (p.1 a) s s1
        (fun q => q = .rxa p.2 b ((coresOf s1 (cur s).ctx s.core (threadPlace s1 s.core (cur s))).map (·.2))) 0 0)) ∧
  (∀ s req r table times level index c q b x, s.event = .ksendBinStep req none → getRequest s req = some r →
    r.kind = .ksend table times level index → sendTarget s r level index = some (c, q) → (getCore s c).sealed = false →
    coreTable s c r.ctx table = some b → mayPerform s r = true → b.typ = 0 → 0 < b.nbins → s.marks = [] →
    x = memRead s.mem (spKey c + b.base + 8 * (if b.op = 0 then b.nbins else q % b.nbins)) 8 → ∀ p ∈ binSteps, p.1 = b.op →
    ∃ t, exec .ksendBinStep s = .next t ∧ t.flights = s.flights.filter (fun y => !(y.id == req)) ∧
      memRead t.mem (spKey c + b.base + 8 * (if b.op = 0 then b.nbins else q % b.nbins)) 8 = (p.2 (word x) times r.b).toNat ∧
      (∀ a, (a < spKey c + b.base + 8 * (if b.op = 0 then b.nbins else q % b.nbins) ∨
          spKey c + b.base + 8 * (if b.op = 0 then b.nbins else q % b.nbins) + 8 ≤ a) → memByte t.mem a = memByte s.mem a)) ∧
  (∀ s req r table times level index c q b x, s.event = .ksendBinStep req none → getRequest s req = some r →
    r.kind = .ksend table times level index → sendTarget s r level index = some (c, q) → (getCore s c).sealed = false →
    coreTable s c r.ctx table = some b → mayPerform s r = true → b.typ = 1 → 0 < b.nbins → s.marks = [] →
    x = memRead s.mem (spKey c + b.base + 8 * (q % b.nbins)) 8 → ∀ p ∈ floatBinSteps, p.1 = b.op →
    ∃ t, exec .ksendBinStep s = .next t ∧ t.flights = s.flights.filter (fun y => !(y.id == req)) ∧
      memRead t.mem (spKey c + b.base + 8 * (q % b.nbins)) 8 = (BitVec.ofNat 64 (p.2 x r.b.toNat)).toNat ∧
      (∀ a, (a < spKey c + b.base + 8 * (q % b.nbins) ∨ spKey c + b.base + 8 * (q % b.nbins) + 8 ≤ a) →
        memByte t.mem a = memByte s.mem a)) ∧
  (∀ s req c r table b cores, s.event = .rxaConfigTake req c → getRequest s req = some r → r.kind = .rxa table b cores →
    c ∈ cores → (getCore s c).killed = false →
    ∃ t, exec .rxaConfigTake s = .next t ∧ mapFind (getCore t c).bins table = some b ∧
      (∀ k, k ≠ c → getCore t k = getCore s k) ∧
      (cores.filter (fun k => !(k == c)) = [] → t.flights = s.flights.filter (fun y => !(y.id == req))) ∧
      (cores.filter (fun k => !(k == c)) ≠ [] → t.flights = s.flights.map (fun y => if y.id = r.id
        then { r with kind := .rxa table b (cores.filter (fun k => !(k == c))) } else y)))

/-- R273 to R275: `wta` arms a word and returns 0, 1 where the table of 64 is full; a write by another thread fires the entry;
`wtw` returns the earliest fired one, or waits while none has; `wtd` disarms. -/
def Obligations.WatchesFire : Prop :=
  (∀ s d a va th l s1, Ready s [a] d [va] th → isHeld s (cur s) 0 = false → specTask s (cur s) = none →
    checkAddr (setCur s th) va 8 8 true false watchWin = .ok (l, s1) → l.drop = false →
    ((∀ m ∈ (getCore s1 s1.core).mons, m.uid = (cur s1).uid → m.key ≠ l.key) → (getCore s1 s1.core).mons.length < 64 →
      exec (.wta d a) s = .next (retire (writeReg (putCore s1 s1.core { getCore s1 s1.core with
        mons := (getCore s1 s1.core).mons ++ [⟨l.key, va, s1.slot, (cur s1).uid, 0⟩] }) d 0))) ∧
    ((∃ m ∈ (getCore s1 s1.core).mons, m.uid = (cur s1).uid ∧ m.key = l.key) →
      exec (.wta d a) s = .next (retire (writeReg s1 d 0))) ∧
    ((∀ m ∈ (getCore s1 s1.core).mons, m.uid = (cur s1).uid → m.key ≠ l.key) → 64 ≤ (getCore s1 s1.core).mons.length →
      exec (.wta d a) s = .next (retire (writeReg s1 d 1)))) ∧
  (∀ s d th, Ready s [] d [] th → isHeld s (cur s) 0 = false → specTask s (cur s) = none →
    (∀ m ∈ (getCore s s.core).mons, m.uid = (cur s).uid → 0 < m.fired →
      (∀ y ∈ (getCore s s.core).mons, y.uid = (cur s).uid → 0 < y.fired → y = m ∨ m.fired < y.fired) →
      exec (.wtw d) s = .next (wrote (putCore s s.core { getCore s s.core with
        mons := (getCore s s.core).mons.filter (fun x => !(x.uid == (cur s).uid && x.key == m.key)) })
        th d m.va)) ∧
    ((∀ m ∈ (getCore s s.core).mons, m.uid ≠ (cur s).uid) → exec (.wtw d) s = .next (wrote s th d 0)) ∧
    ((∃ m ∈ (getCore s s.core).mons, m.uid = (cur s).uid) → (∀ m ∈ (getCore s s.core).mons, m.uid = (cur s).uid → m.fired = 0) →
      exec (.wtw d) s = .next (setCur s { cur s with status := .waitHome }))) ∧
  (∀ s a va th, ReadyFor s [a] [va] th → isHeld s (cur s) 0 = false → specTask s (cur s) = none →
    ∃ t, exec (.wtd a) s = .next t ∧ cur t = { th with pc := pcNext th.pc, status := .ready } ∧ OthersKept s t ∧
      t = { s with threads := t.threads, cores := t.cores } ∧
      (∀ m, m ∈ (getCore t s.core).mons → m ∈ (getCore s s.core).mons ∧ (m.uid = (cur s).uid → m.va ≠ va)) ∧
      (∀ m ∈ (getCore s s.core).mons, m.uid ≠ (cur s).uid → m ∈ (getCore t s.core).mons)) ∧
  (∀ s k n v uid c m, s.marks = [] → m ∈ (getCore s c).mons → m.fired = 0 → m.uid ≠ uid → m.key < k + n → k < m.key + 8 →
    0 < s.nextId → ∃ m2 ∈ (getCore (storeAt s k n v uid) c).mons, m2 = { m with fired := m2.fired } ∧ 0 < m2.fired)

namespace Sys2Proof.Claims

/-! ### Tile memory, the copy engine, streams and overlays (R232 to R235, R255 to R279) -/

/-- The bits of an engine register that `ewr` changes (R260). -/
def engMask (e : Nat) : Word :=
  match e with
  | 4 => 0x0000FFFFFFFF3F3F | 5 => 0xFFFFFFFFFF007FFF | 9 => 0xFFFFFFFF00001FFF | 10 => 0x0000FFFFFFFFFFFF | 16 => 0xFF
  | 20 => 0 | 21 => 0 | 27 => 0 | 24 => 0x0007FFFFFFFFFFFF | _ => 0xFFFFFFFFFFFFFFFF

/-- Engine registers e0 to e11 and e16 to e27 (R260). -/
def engExists (e : Nat) : Bool := decide (e ≤ 11 ∨ (16 ≤ e ∧ e ≤ 27))

/-- A tile access may issue: its checks pass, b and b + 1 are read, the grant is not zero, nothing holds it, every part resolves
and none is dropped. -/
def TileAccess (s : State) (sh : ShapeNo) (acc : Accepts) (srcs writes : List TileNo) (b : RegNo) (wr : Bool) (th : Thread)
    (x y : Word) (ps : List Part) (ls : List (Part × Loc)) (s1 : State) : Prop :=
  b ≠ 63 ∧ Live s ∧ tileChecks s sh acc true srcs writes 0 [b, b + 1] = .ok () ∧
  readFrom s [b, b + 1] = .ok ([x, y], th) ∧ zeroGrant (cur s) sh = false ∧
  isHeld s (cur s) (if wr then 2 else 1) = false ∧ th.cntM < 15 ∧ (wr = true → specTask s (cur s) = none) ∧
  checkParts (setCur s th) wr ps = .ok (ls, s1) ∧ ∀ p ∈ ls, p.2.drop = false

/-- The access left: one more in M, one flight; of the tasks, what they have read and written may change where a task stands behind it. -/
def TileSent (i : Instr) (s s1 : State) (kind : ReqKind) : Prop :=
  ∃ t q, exec i s = .next t ∧
    t = { s1 with threads := t.threads, tasks := t.tasks, flights := s1.flights ++ [q], nextId := s1.nextId + 1 } ∧
    (taskBehind s1 (cur s1) = none → t.tasks = s1.tasks) ∧ OthersKept s1 t ∧ cur t = { cur s1 with
      cntM := (cur s1).cntM + 1, pc := pcNext (cur s1).pc, status := .ready, touched := (cur t).touched } ∧
    q.kind = kind ∧ q.uid = (cur s1).uid ∧ q.resp = none

/-- What `cpy` and `chn` accept as a destination record (R262, R266). -/
def copyDst (chain : Bool) (d : ShapeRec) : Bool := scaleOk d && !(chain && d.scale == 5 && d.format.isInt)

/-- Both commands pass their checks: the records read at issue, y's for `chn` where e25 is not zero, and the state after. -/
def CopyReady (s : State) (chain : Bool) (a b : RegNo) (x y : Word) (th : Thread) (src dst : ShapeRec) (yr : Option ShapeRec)
    (s3 : State) : Prop :=
  ReadyFor s [a, b] [x, y] th ∧ isHeld s (cur s) 12 = false ∧ specTask s (cur s) = none ∧
  (∃ s1 s2, readRecord s x 0 (if chain then 1 else 0) false scaleOk = .ok (src, s1) ∧
    readRecord s1 y 1 (if chain then 1 else 0) true (copyDst chain) = .ok (dst, s2) ∧
    ((chain = false ∨ mapGet 0 th.eng 25 = 0) → yr = none ∧ s3 = s2) ∧
    (chain = true → mapGet 0 th.eng 25 ≠ 0 → ∃ r, readRecord s2 (mapGet 0 th.eng 25) 2 1 false (fun d => d.scale == 0) =
      .ok (r, s3) ∧ yr = some r ∧ recCount r = recCount dst)) ∧
  recCount src = recCount dst ∧
  (chain = true → ∀ k : CopyCmd, k.src = src → k.dst = dst → k.y = yr →
    opsInvalid (mapGet 0 th.eng 24) (!(chainType k).isInt) yr.isSome = false) ∧
  copyRegsBad th = false ∧ copyWindowBad s3 dst.base = false

end Sys2Proof.Claims

/-- R232, R233, R234: tile loads and stores send every part once all of them resolve; rows stand stride bytes apart, elements
ascend, element (r, c) lies at tile byte 128·r + n·c; a zero grant accesses nothing; a misaligned address traps with 0x03. -/
def Obligations.TileAccessesIssue : Prop :=
  (∀ s td b sh x y th ps ls s1, TileAccess s sh .any [] [td] b false th x y ps ls s1 →
    shapeParts th sh false x y = (ps, none) →
    TileSent (.vld td b sh) s s1 (.tileLoad td (ls.map (fun p => (p.2.key, p.1.n, p.1.off, p.1.how))))) ∧
  (∀ s td ta b sh x y th ps ls s1, TileAccess s sh .gather [ta] [td] b false th x y ps ls s1 →
    gatherParts th ta sh x y = (ps, none) →
    TileSent (.vldg td ta b sh) s s1 (.tileLoad td (ls.map (fun p => (p.2.key, p.1.n, p.1.off, p.1.how))))) ∧
  (∀ s td b sh x y th ps ls s1, TileAccess s sh .any [td] [] b true th x y ps ls s1 →
    shapeParts th sh true x y = (ps, none) →
    TileSent (.vst td b sh) s s1 (.tileStore (ls.map (fun p =>
      (p.2.key, (if p.1.how = 1 then 0 else p.1.n), getPart th td p.1.n p.1.off p.1.how, joinsNext p.1.how))))) ∧
  (∀ s td ta b sh x y th ps ls s1, TileAccess s sh .gather [td, ta] [] b true th x y ps ls s1 →
    gatherParts th ta sh x y = (ps, none) →
    TileSent (.vstg td ta b sh) s s1 (.tileStore (ls.map (fun p =>
      (p.2.key, (if p.1.how = 1 then 0 else p.1.n), getPart th td p.1.n p.1.off p.1.how, joinsNext p.1.how))))) ∧
  (∀ s td b sh x y th, b ≠ 63 → TileReady s sh .any [] [td] 0 [b, b + 1] → tileSources s sh [b, b + 1] = .ok ([x, y], th) →
    zeroGrant (cur s) sh = true → exec (.vld td b sh) s = .next (stepped s th)) ∧
  (∀ th sh store base stride, zeroGrant th sh = false → (shapeFmt th sh).isNibble = false → (shapeFmt th sh).isSix = false →
    (shapeParts th sh store base stride).1.map (fun p => (p.va, p.n, p.off, p.how)) =
      (gridOf (shapeRows th sh) (shapeLen th sh)).map (fun q =>
        (base + word q.1 * stride + word ((shapeFmt th sh).width / 8 * q.2), (shapeFmt th sh).width / 8,
          128 * q.1 + (shapeFmt th sh).width / 8 * q.2, 0))) ∧
  (∀ s td b sh x y th ps a, b ≠ 63 → TileReady s sh .any [] [td] 0 [b, b + 1] →
    readFrom s [b, b + 1] = .ok ([x, y], th) → zeroGrant (cur s) sh = false → isHeld s (cur s) 1 = false →
    th.cntM < 15 → shapeParts th sh false x y = (ps, some a) → exec (.vld td b sh) s = .next (trapped s 0x03 a))

/-- R260, R261, R277, R279: `ewr` changes the writable bits of an engine register, `erd` reads one, and a number without a
register traps; `rnd` returns p + q and steps the generator. -/
def Obligations.EngineRegistersAndDraws : Prop :=
  (∀ s (e : BitVec 6) a v th, ReadyFor s [a] [v] th → engExists e.toNat = true →
    ∃ t, exec (.ewr e a) s = .next t ∧ t = setCur s (cur t) ∧
      cur t = { th with eng := (cur t).eng, pc := pcNext th.pc, status := .ready } ∧
      mapGet 0 (cur t).eng e.toNat = (mapGet 0 th.eng e.toNat &&& ~~~engMask e.toNat) ||| (v &&& engMask e.toNat) ∧
      (∀ k, k ≠ e.toNat → mapGet 0 (cur t).eng k = mapGet 0 th.eng k)) ∧
  (∀ s d (e : BitVec 6) th, Ready s [] d [] th → engExists e.toNat = true →
    exec (.erd d e) s = .next (wrote s th d (mapGet 0 (cur s).eng e.toNat))) ∧
  (∀ s d (e : BitVec 6) a, Live s → e.toNat < 32 → engExists e.toNat = false →
    exec (.ewr e a) s = .next (trapped s 0x02 0) ∧ exec (.erd d e) s = .next (trapped s 0x02 0)) ∧
  (∀ s d (e : BitVec 6) a, Live s → 32 ≤ e.toNat →
    exec (.ewr e a) s = .next (trapped s 0x01 0) ∧ exec (.erd d e) s = .next (trapped s 0x01 0)) ∧
  (∀ s d th, Ready s [] d [] th → let u := th.genP ^^^ (th.genP <<< 23)
    exec (.rnd d) s = .next (wrote s { th with genP := th.genQ, genQ := u ^^^ th.genQ ^^^ (u >>> 18) ^^^ (th.genQ >>> 5) } d
      (th.genP + th.genQ)))

/-- R255, R262, R266: `cpy` and `chn` queue their command with the records and engine registers they read, counted in C; with PREEMPTY
the destination's words are emptied before that, and the instruction waits while they cannot be; one of no elements only resets
PROGRESS. -/
def Sys2Proof.Claims.CopiesIssue : Prop :=
  ∀ s (chain : Bool) a b x y th src dst yr s3, CopyReady s chain a b x y th src dst yr s3 →
    (recCount dst ≠ 0 → th.cntC < 31 → (mapGet 0 th.eng 16).getLsbD 6 = false →
      ∃ t k, exec (if chain then .chn a b else .cpy a b) s = .next t ∧
        t = { s3 with threads := t.threads, cores := t.cores, nextId := s3.nextId + 1 } ∧
        (getCore t s.core).copies = (getCore s3 s.core).copies ++ [k] ∧ k.id = s3.nextId ∧ k.chain = chain ∧ k.src = src ∧
        k.dst = dst ∧ k.y = yr ∧ k.regs = th.eng ∧ k.start = (mapGet 0 th.eng 22).toNat ∧ k.done = [] ∧
        k.slot = s.slot ∧ k.uid = th.uid ∧ k.pc = th.pc ∧
        cur t = { cur s3 with ports := th.ports, cntC := (cur s3).cntC + 1, pc := pcNext (cur s3).pc, status := .ready }) ∧
    (recCount dst ≠ 0 → th.cntC < 31 → (mapGet 0 th.eng 16).getLsbD 6 = true → ∀ r,
      runEng (takePorts s3 th) (emptyWords ⟨s.core, s.slot, th.uid, th.ctx, th.pc, if chain then 2 else 1, s3.nextId, s.core⟩ dst) = r →
      (∀ e, r = .error e → exec (if chain then .chn a b else .cpy a b) s = .next (waits s .waitHome)) ∧
      (∀ s4, r = .ok s4 → ∃ t k, exec (if chain then .chn a b else .cpy a b) s = .next t ∧
        t = { s4 with threads := t.threads, cores := t.cores, nextId := s4.nextId + 1 } ∧
        (getCore t s.core).copies = (getCore s4 s.core).copies ++ [k] ∧ k.id = s4.nextId ∧ k.src = src ∧ k.dst = dst ∧
        cur t = { cur s4 with cntC := (cur s4).cntC + 1, pc := pcNext (cur s4).pc, status := .ready })) ∧
    (recCount dst = 0 → exec (if chain then .chn a b else .cpy a b) s =
      .next (stepped s3 { cur s3 with ports := th.ports, eng := mapSet 0 (cur s3).eng 22 0 }))

/-- R262, R265: a unit of a command is performed where all its accesses succeed; the command completes with PROGRESS 0 and C
lower by one; a failed access stops it, drops the slot's later commands, each with the C of the thread that issued it, reports and leaves
a trap for the thread. -/
def Sys2Proof.Claims.CopiesRun : Prop :=
  (∀ s c i e k k2 s1, s.event = .copyElementWrite c i e → firstCopy s c i = some k → copyDue k e = true →
    copyStep c k e s = .ok (k2, s1) →
    exec .copyElementWrite s = .next (setCopy s1 c k2) ∧
      k2 = { k with done := (unitElems k e).foldl setIns k.done, bad := k2.bad, sigs := k2.sigs }) ∧
  (∀ s c i k th, s.event = .copyComplete c i → firstCopy s c i = some k → copyLowest k = none → getThread s c i = th →
    th.uid = k.uid → th.status ≠ .free →
    ∃ t, exec .copyComplete s = .next t ∧ t = { s with threads := t.threads, cores := t.cores } ∧
      (getCore t c).copies = (getCore s c).copies.filter (fun x => !(x.id == k.id)) ∧
      getThread t c i = { th with eng := mapSet 0 th.eng 22 0, cntC := th.cntC - 1 }) ∧
  (∀ s c i e k cause va th, s.event = .engineFaultStop c i e → firstCopy s c i = some k → copyDue k e = true →
    copyStep c k e s = .error (cause, va) → cause ≠ 0 → failedWrites s c k e = s → getThread s c i = th → th.uid = k.uid →
    th.status ≠ .free → th.pending = none →
    ∀ later, later = (getCore s c).copies.filter (fun x => x.slot == i && x.id != k.id) →
    ∃ t th2, exec .engineFaultStop s = .next t ∧ getThread t c i = th2 ∧ th2.pending = some ⟨cause, va, k.pc, fenceOn th k.id⟩ ∧
      mapGet 0 th2.eng 20 = va ∧ mapGet 0 th2.eng 22 = word ((copyLowest k).getD 0) ∧
      (mapGet 0 th2.eng 21).extractLsb' 0 8 = BitVec.ofNat 8 cause ∧
      th2.cntC = th.cntC - (1 + (later.filter (fun x => x.uid == k.uid)).length) ∧
      (∀ fr y, mapFind s.spilled fr = some y → y.uid ≠ k.uid → mapFind t.spilled fr =
        some { y with cntC := y.cntC - (later.filter (fun x => x.uid == y.uid)).length }) ∧
      (getCore t c).copies = (getCore s c).copies.filter (fun x => x.slot != i) ∧ t.mem = s.mem)

/-- R268 to R272: `sbind` binds a local to a stream, `sunb` unbinds it with value zero, and a fetched element waits at its port in
order. That C, which has fallen when an output port stopped, does not fall again at its `sunb` is the model's choice (log 32). -/
def Obligations.StreamsBindAndDeliver : Prop :=
  (∀ s d a v th rec s1, Live s → a.toNat < windowSize (cur s).hdr → isLocal (cur s).hdr d.toNat = true →
    portOf (cur s) d = none → (cur s).ports.length < 4 → readFrom s [a] = .ok ([v], th) → dstReady s (cur s) d = .ok () →
    isHeld s (cur s) (if v.getLsbD 0 then 8 else 4) = false → specTask s (cur s) = none → v.extractLsb' 2 4 = 0 →
    (v.getLsbD 0 = true → (cur s).cntC < 31) →
    readRecord s (word (v.toNat / 64 * 64)) (if v.getLsbD 0 then 1 else 0) 2 (v.getLsbD 0) (fun q => q.scale == 0) =
      .ok (rec, s1) →
    exec (.sbind d a) s = .next (stepped { s1 with nextId := s1.nextId + 1 } { cur s1 with
      ports := th.ports ++ [⟨s1.nextId, d, word (v.toNat / 64 * 64), v.getLsbD 0, v.getLsbD 1, (cur s).pc, rec, 0, false, []⟩]
      cntC := (cur s1).cntC + (if v.getLsbD 0 then 1 else 0) })) ∧
  (∀ s d p, Live s → d.toNat < windowSize (cur s).hdr → portOf (cur s) d = some p → isHeld s (cur s) 0 = false →
    specTask s (cur s) = none → dstReady s (cur s) d = .ok () → (p.output = false ∨ p.stopped = true) →
    exec (.sunb d) s = .next (stepped s (setReg { cur s with ports := (cur s).ports.filter (fun q => !(q.reg == d)) } d
      (fullReg 0)))) ∧
  (∀ s d p, Live s → d.toNat < windowSize (cur s).hdr → portOf (cur s) d = some p → isHeld s (cur s) 0 = false →
    specTask s (cur s) = none → dstReady s (cur s) d = .ok () → p.output = true → p.stopped = false →
    ∃ t q, exec (.sunb d) s = .next t ∧
      t = { s with threads := t.threads, flights := s.flights ++ [q], nextId := s.nextId + 1 } ∧
      (cur t).ports = (cur s).ports.filter (fun q => !(q.reg == d)) ∧ q.kind = .streamEnd p.id p.shape p.pos ∧ q.uid = (cur s).uid) ∧
  (∀ s d, Live s → d.toNat < windowSize (cur s).hdr → portOf (cur s) d = none → isHeld s (cur s) 0 = false →
    specTask s (cur s) = none → exec (.sunb d) s = .next (trapped s 0x02 0)) ∧
  (∀ s c k i th p e s1 th1, s.event = .streamElementArrival c k i → getThread s c k = th → th.ports[i]? = some p →
    p.output = false → p.fetched.length < 16 → p.pos + p.fetched.length < recCount p.shape →
    (∀ x ∈ p.fetched, x.cause = 0) → fetchElem ⟨c, k, th.uid, th.ctx, p.pc, 2, p.id, c⟩ p s = some (e, s1) → getThread s1 c k = th1 →
    th1.uid = th.uid → th1.status ≠ .free →
    ∃ t, exec .streamElementArrival s = .next t ∧ getThread t c k = { th1 with
      ports := th1.ports.map (fun q => if q.reg = p.reg then { q with fetched := q.fetched ++ [e] } else q) })

/-- R89, R276: `ovl` answers at once where it cannot load and else starts a load; a load whose hash matches makes the slot valid
with the overlay's bytes and gives its issuer status 0, another makes it invalid, quarantines the overlay's image and gives status 1; C of
the issuer falls, be it spilled beneath a fold. -/
def Obligations.OverlaysLoad : Prop :=
  (∀ s d a b x y th, Ready s [a, b] d [x, y] th → isHeld s (cur s) 4 = false → specTask s (cur s) = none →
    let im := fun (n : Nat) => if n = 0 then (getCore s s.core).im0 else (getCore s s.core).im1
    ((2 ^ 16 ≤ x.toNat ∨ 1 < y.toNat) → exec (.ovl d a b) s = .next (wrote s th d 4)) ∧
    (x.toNat < 2 ^ 16 → y.toNat ≤ 1 →
      ((im y.toNat).state = .loading → exec (.ovl d a b) s = .next (wrote s th d 5)) ∧
      ((im y.toNat).state ≠ .loading →
        ((im (1 - y.toNat)).state = .valid → (im (1 - y.toNat)).overlay = x.toNat →
          exec (.ovl d a b) s = .next (wrote s th d 6)) ∧
        (((im (1 - y.toNat)).state ≠ .valid ∨ (im (1 - y.toNat)).overlay ≠ x.toNat) →
          (caddyFind s th.ctx x.toNat = none → exec (.ovl d a b) s = .next (wrote s th d 2)) ∧
          (∀ o, caddyFind s th.ctx x.toNat = some o → o.bad = true → exec (.ovl d a b) s = .next (wrote s th d 3)) ∧
          (∀ o, caddyFind s th.ctx x.toNat = some o → o.bad = false → th.cntC < 31 →
            ∃ t, exec (.ovl d a b) s = .next t ∧ t = { s with threads := t.threads, cores := t.cores, nextId := s.nextId + 1 } ∧
              cur t = { (setReg th d { Reg.empty with pend := true }) with
                cntC := th.cntC + 1, pc := pcNext th.pc, status := .ready } ∧
              (imemSlot (getCore t s.core) y.toNat).state = .loading ∧
              (imemSlot (getCore t s.core) y.toNat).overlay = x.toNat ∧
              (imemSlot (getCore t s.core) y.toNat).loadReg = some d))))) ∧
  (∀ s c b o, s.event = .overlayLoadComplete c b → (imemSlot (getCore s c) b).state = .loading →
    (imemSlot (getCore s c) b).drop = false →
    caddyFind s (imemSlot (getCore s c) b).ctx (imemSlot (getCore s c) b).overlay = some o →
    ∃ t, exec .overlayLoadComplete s = .next t ∧
      (∀ im d th, im = imemSlot (getCore s c) b → im.loadReg = some d → th = getThread s c im.loadSlot →
        (th.uid = im.loadBy → th.status ≠ .free → portOf th d = none → isShared th.hdr d.toNat = false →
          getThread t c im.loadSlot = { setReg th d (fullReg (if sha256 o.bytes = o.hash then 0 else 1)) with cntC := th.cntC - 1 }) ∧
        (∀ fr x, th.uid ≠ im.loadBy → mapFind s.spilled fr = some x → x.uid = im.loadBy →
          mapFind t.spilled fr = some { x with cntC := x.cntC - 1 })) ∧
      (sha256 o.bytes = o.hash → (imemSlot (getCore t c) b).state = .valid ∧
        (imemSlot (getCore t c) b).overlay = (imemSlot (getCore s c) b).overlay ∧
        (∀ i, (h : i < o.bytes.length) → memByte (imemSlot (getCore t c) b).bytes i = o.bytes[i])) ∧
      (sha256 o.bytes ≠ o.hash → (imemSlot (getCore t c) b).state = .invalid ∧
        ∃ o2, caddyFind t (imemSlot (getCore s c) b).ctx (imemSlot (getCore s c) b).overlay = some o2 ∧ o2.bad = true))

namespace Sys2Proof.Claims

/-! ### The matrix unit (R302 to R341) -/

/-- Commands of two operands and a product format. -/
def matrixTable : List ((RegNo → RegNo → ProductFmt → Instr) × MatOp) :=
  [(.mma, .mma), (.mmasS24, .s24), (.mmasS48, .s48), (.mbs, .mbs), (.mss, .mss)]

/-- A thread may issue a matrix instruction: not in slots 29 and 30, nothing holds it, M below 15. -/
def MatrixReady (s : State) (srcs : List RegNo) (vs : List Word) (th : Thread) : Prop :=
  ReadyFor s srcs vs th ∧ s.slot ≠ 29 ∧ s.slot ≠ 30 ∧ isHeld s (cur s) 48 = false ∧ specTask s (cur s) = none ∧ (cur s).cntM < 15

/-- The issuer's thread after an accepted command: FAULTED and REASON cleared, M one higher, at the next address. -/
def acceptedThread (th : Thread) : Thread :=
  { th with
    eng := mapSet 0 th.eng 10 (mapGet 0 th.eng 10 &&& BitVec.ofNat 64 (2 ^ 48 - 1)), cntM := th.cntM + 1, pc := pcNext th.pc
    status := .ready, gangMask := 0 }

/-- The instruction put its command into the queue of its own core, whose uncommitted rows are empty now; s2 is the state after
the checks of R309 and R327, th the thread once its sources are read. -/
def Enqueued (i : Instr) (s s2 : State) (th : Thread) (op : MatOp) (x y : Word) (k2 : MatCmd) : Prop :=
  ∃ t k, exec i s = .next t ∧ t = { s2 with threads := t.threads, cores := t.cores, nextId := s2.nextId + 1 } ∧
    cur t = acceptedThread { cur s2 with ports := th.ports } ∧ OthersKept s2 t ∧ k ∈ (getCore t s2.core).mq ++ (getCore t s2.core).drains ∧
    k.id = s2.nextId ∧ k.op = op ∧ k.a = x ∧ k.b = y ∧ k.regs = k2.regs ∧ k.uid = k2.uid ∧ k.pc = k2.pc ∧
    (k2.hasRows = true → ∀ i, k2.row ≤ i → i < k2.rows → (getCore t s2.core).rowEmpty.getLsbD (k2.acc * 32 + i) = true)

end Sys2Proof.Claims

/-- R302 to R311, R317, R323, R324, R327, R332, R338, R339: a matrix command that passes its checks enters the queue of its core. In
slots 29 and 30 it raises 0x06, before any naming check by the model's choice (log 91). -/
def Sys2Proof.Claims.MatrixCommandsAreQueued : Prop :=
  (∀ p ∈ matrixTable, ∀ s a b (fmt : ProductFmt) x y th k1 s1 k2 s2, MatrixReady s [a, b] [x, y] th →
    matChecks s (newCmd s th p.2 fmt.code.toNat x y) = .ok (k1, s1) → sparseChecks s1 k1 = .ok (k2, s2) →
    (getCore s2 s2.core).mq.length + (getCore s2 s2.core).drains.length < 8 →
    Enqueued (p.1 a b fmt) s s2 th p.2 x y k2) ∧
  (∀ s a b (fmt : DrainFmt) x y th k1 s1, MatrixReady s [a, b] [x, y] th →
    matChecks s (newCmd s th .mdrn fmt.code.toNat x y) = .ok (k1, s1) →
    (getCore s1 s1.core).mq.length + (getCore s1 s1.core).drains.length < 8 → Enqueued (.mdrn a b fmt) s s1 th .mdrn x y k1) ∧
  (∀ s a x th, MatrixReady s [a] [x] th → (getCore s s.core).mq.length + (getCore s s.core).drains.length < 8 →
    Enqueued (.mclr a) s s th .mclr x 0 (newCmd s th .mclr 0 x 0)) ∧
  (∀ s a b, Live s → a.toNat < windowSize (cur s).hdr → b.toNat < windowSize (cur s).hdr →
    exec (.dpf a b) s = .next (stepped s (cur s))) ∧
  (∀ p ∈ matrixTable, ∀ s a b fmt, Live s → (s.slot = 29 ∨ s.slot = 30) → exec (p.1 a b fmt) s = .next (trapped s 0x06 0))

/-- R318 to R322: `mmag` sends one command to every member of its mask, who arrive among all members of the gang a stop resumes, `mrc` one to the core it names, with d empty, and
`macc` asks for accumulator rows. -/
def Sys2Proof.Claims.MatrixCommandsTravel : Prop :=
  (∀ s a b (fmt : ProductFmt) x y th k1 s1 cores, MatrixReady s [a, b] [x, y] th →
    matChecks s (newCmd s th .mmag fmt.code.toNat x y) = .ok (k1, s1) → gangCores s1 k1 x.toNat = some cores →
    x ≠ 0 → x.toNat < 16 → y.toNat % 8 = 0 → k1.a = x → k1.b = y →
    (∀ p ∈ cores, (gangWord s1 k1 p.2).isSome = true ∧ (getCore s1 p.2).killed = false) →
    ∃ t g ms, exec (.mmag a b fmt) s = .next t ∧ cur t = acceptedThread { cur s1 with ports := th.ports } ∧ OthersKept s1 t ∧
      t.gangs = s1.gangs ++ [g] ∧ g.left = (List.range 4).filter (fun p => x.getLsbD p) ∧ g.cause = 0 ∧
      t.mesh = s1.mesh ++ ms ∧ ms.map (fun m => (m.2.p, m.1)) = cores ∧
      (∀ m ∈ ms, m.2.gang = g.id ∧ m.2.op = .mmag ∧ m.2.regs = k1.regs ∧ m.2.mask = x.toNat ∧ m.2.whole = g.whole) ∧
      (g.whole = if (cur s).gangMask ≠ 0 ∧ x = ((mapGet 0 (cur s).eng 10).extractLsb' 48 4).setWidth 64
        then (cur s).gangMask else x.toNat)) ∧
  (∀ s d a b (fmt : ProductFmt) x y th k1 s1 c, Ready s [a, b] d [x, y] th → s.slot ≠ 29 → s.slot ≠ 30 →
    isHeld s (cur s) 48 = false → specTask s (cur s) = none → (cur s).cntM < 15 →
    physCore s th.ctx (x.extractLsb' 0 10).toNat = some c →
    matChecks s (newCmd s th .mrc fmt.code.toNat x y) = .ok (k1, s1) →
    ∃ t k, exec (.mrc d a b fmt) s = .next t ∧ t.mesh = s1.mesh ++ [(c, k)] ∧ k.op = .mrc ∧ k.d = d ∧ k.id = s1.nextId ∧
      k.regs = k1.regs ∧ (cur t).cntM = (cur s1).cntM + 1 ∧ (d ≠ 0 → getReg (cur t) d = { Reg.empty with pend := true }) ∧
      OthersKept s1 t) ∧
  (∀ s (n : BitVec 6) a b (fmt : DrainFmt) x y th, MatrixReady s [a, b] [x, y] th → n.toNat < 16 →
    checkTiles (cur s) [n.setWidth 4] = .ok () → tileBusy s th (n.setWidth 4) = false → isHeld s (cur s) 0 = false →
    th.cntM < 15 →
    ∃ t q, exec (.macc n a b fmt) s = .next t ∧
      t = { s with threads := t.threads, flights := s.flights ++ [q], nextId := s.nextId + 1 } ∧ OthersKept s t ∧
      cur t = { th with cntM := th.cntM + 1, pc := pcNext th.pc, status := .ready } ∧
      q.kind = .macc (n.setWidth 4) fmt (x.extractLsb' 0 2).toNat (x.extractLsb' 8 5).toNat (y.extractLsb' 0 3).toNat (y.getLsbD 8)) ∧
  (∀ s (n : BitVec 6) a b fmt, Live s → 16 ≤ n.toNat → exec (.macc n a b fmt) s = .next (trapped s 0x01 0))

/-- R303, R310 to R312, R315: a command that travelled enters the queue, or waits while its issuer or its target's launch is pre-empted (R387, log 116); a computed row is committed whole, set full, and
nothing else of the accumulator changes; a committed row is drained, with the draws of its issuer's generator where it rounds by them (free
ones where the issuer is gone, log 115), or its handler starts with the row in tile register 0. -/
def Sys2Proof.Claims.MatrixRowsAdvance : Prop :=
  (∀ s id c k, s.event = .matrixCommandAccept id → s.mesh.find? (fun m => m.2.id == id) = some (c, k) →
    s.mesh.find? (fun m => m.1 == c) = some (c, k) → meshHeld s (c, k) = false → (getCore s c).sealed = false →
    (k.op ≠ .mrc ∨ admitted (getCore s c) k = true) → badKind (getCore s c) k = false →
    (getCore s c).mq.length + (getCore s c).drains.length < 8 → k.rows ≤ 32 →
    ∃ t k2, exec .matrixCommandAccept s = .next t ∧ t.mesh = s.mesh.filter (fun m => m.2.id != id) ∧
      k2 ∈ (getCore t c).mq ++ (getCore t c).drains ∧ k2.id = id ∧ k2.regs = k.regs ∧ t.threads = s.threads ∧
      (k.hasRows = true → ∀ i, k.row ≤ i → i < k.rows → (getCore t c).rowEmpty.getLsbD (k.acc * 32 + i) = true)) ∧
  (∀ s id c k, s.event = .matrixCommandAccept id → s.mesh.find? (fun m => m.2.id == id) = some (c, k) →
    (∀ m ∈ s.mesh, m.2.id = id → m = (c, k)) → meshHeld s (c, k) = true → exec .matrixCommandAccept s = .next s) ∧
  (∀ s c k rest k1 s1, s.event = .matrixRowCommit c → (getCore s c).mq = k :: rest → k.hasRows = true →
    dirStep c k s = some (.ok (k1, s1)) → exec .matrixRowCommit s = .next (putCore s1 c (setCmd (getCore s1 c) k1))) ∧
  (∀ s c k rest vs fl s1, s.event = .matrixRowCommit c → (getCore s c).mq = k :: rest → k.hasRows = true →
    dirStep c k s = none → rowCompute c k s = .ok ((vs, fl), s1) →
    (getCore s1 c).rowPend.getLsbD (k.acc * 32 + k.row) = false → vs.length ≤ 32 → k.row < 32 →
    ∃ t, exec .matrixRowCommit s = .next t ∧ t = { s1 with cores := t.cores } ∧
      (∀ j, (h : j < vs.length) → accElem (getCore t c) k.acc k.row j = vs[j]) ∧
      (getCore t c).rowEmpty.getLsbD (k.acc * 32 + k.row) = false ∧
      mapGet AccKind.clear (getCore t c).accKind k.acc = (if k.intPath then .integer else .float) ∧
      (∀ r j, r < 32 → j < 32 → r ≠ k.row → accElem (getCore t c) k.acc r j = accElem (getCore s1 c) k.acc r j) ∧
      (∀ r, r < 32 → r ≠ k.row → (getCore t c).rowEmpty.getLsbD (k.acc * 32 + r) =
        (getCore s1 c).rowEmpty.getLsbD (k.acc * 32 + r))) ∧
  (∀ s c id k fl th0 s0 th1 s1, s.event = .matrixRowDrain c id → activeCmd (getCore s c) id = some k →
    drainDue (getCore s c) k = true → drawsDue s k = true → drawThread s k = (th0, s0) → drainWrite c k k.drn th0 s0 = .ok ((fl, th1), s1) →
    activeCmd (getCore s1 c) id = some k →
    ∃ t k2, exec .matrixRowDrain s = .next t ∧ t.mem = s1.mem ∧ activeCmd (getCore t c) id = some k2 ∧
      k2 = { k with drn := k.drn + 1, row := k2.row, flags := k.flags ||| BitVec.ofNat 5 fl }) ∧
  (∀ s c id k i, s.event = .rowHandlerStart c id → activeCmd (getCore s c) id = some k → rowSlot s c = some i →
    k.op.computes = true → k.drain = 2 → k.drn < k.row → 0 < k.cols → k.drn < 32 → k.header.g = 0 → k.header.s = 0 → 4 ≤ k.header.l →
    k.header.l ≤ 63 →
    ∃ t th, exec .rowHandlerStart s = .next t ∧ (i = 29 ∨ i = 30) ∧ getThread t c i = th ∧ th.kind = .rowHandler ∧
      th.status = .ready ∧ th.pc = k.header.entry ∧ th.work = k.id ∧ th.ctx = k.ctx ∧
      getReg th 1 = fullReg (word (k.q * k.rows + k.drn)) ∧
      getReg th 2 = fullReg (k.eng 8 + word (k.q * k.rows + k.drn) * k.dstride) ∧ getReg th 3 = fullReg (word k.acc) ∧
      getReg th 4 = fullReg (word k.slot) ∧
      (∀ j, j < 32 → tileElem th 0 .i32 0 j = ((drainRow (getCore s c) k k.drn).1.getD j 0).toNat) ∧
      (getCore t c).rowPend.getLsbD (k.acc * 32 + k.drn) = true)

namespace Sys2Proof.Claims

/-- Where element t of the computed row of A lies, and of row j of B, for a dense command without swizzle (R306). -/
def denseA (k : MatCmd) (t : Nat) : Word := k.eng 0 + k.offA + (word t * word (elemBytes k.fmtA) + word k.row * k.eng 1)
def denseB (k : MatCmd) (j t : Nat) : Word := k.eng 2 + k.offB + (word t * word (elemBytes k.fmtB) + word j * k.eng 3)

/-- The operands of a dense row, unscaled and in whole bytes, read as xa t and xb j t. -/
def DenseRow (s : State) (c : Nat) (k : MatCmd) (xa : Nat → Nat) (xb : Nat → Nat → Nat) : Prop :=
  (k.op = .mma ∨ k.op = .mmag ∨ k.op = .mrc) ∧ bits (k.eng 5) 9 8 = 0 ∧ bits (k.eng 5) 11 10 = 0 ∧ k.ascaled = false ∧
  k.bscaled = false ∧ fmtPacked k.fmtA = false ∧ fmtPacked k.fmtB = false ∧ k.row < k.rows ∧
  (∀ t, t < k.depth → engRead (matAgent c k) (denseA k t) (elemBytes k.fmtA) s = .ok ((xa t, false), s)) ∧
  (∀ j t, j < k.cols → t < k.depth → engRead (matAgent c k) (denseB k j t) (elemBytes k.fmtB) s = .ok ((xb j t, false), s))

/-- Element j of the row before its products (R310). -/
def rowStart (s : State) (c : Nat) (k : MatCmd) (j : Nat) : BitVec 32 := if k.zero then 0 else accElem (getCore s c) k.acc k.row j

/-- The products of a group that count: both operands nonzero after flush_in (R117). -/
def liveProducts (k : MatCmd) (xa xb : Nat → Nat) (g : Nat) : List (Val × Nat) :=
  let a := fun t => elemVal k.fmtA (flushIn k.fmtA k.env (xa t))
  let b := fun t => elemVal k.fmtB (flushIn k.fmtB k.env (xb t))
  ((List.range k.depth).filter (fun t => t / 32 == g && !(a t).isZero && !(b t).isZero)).map (fun t => mulVals (a t) (b t))

/-- An element and its flags after its first g groups on the FP32 path: the exact sum of a group is rounded, then added and rounded;
a group without a live product changes nothing (R116, R117). -/
def afterGroups (k : MatCmd) (xa xb : Nat → Nat) (c0 : BitVec 32) : Nat → BitVec 32 × Nat
  | 0 => (c0, 0)
  | g + 1 =>
    let p := afterGroups k xa xb c0 g
    let ps := liveProducts k xa xb g
    if ps = [] then p
    else
      let e := roundWith .f32 k.env 0 (sumVals .rne (ps.map (·.1)))
      let o := roundWith .f32 k.env 0 (sumVals .rne [decodeFloat .f32 p.1.toNat, decodeFloat .f32 e.bits])
      (BitVec.ofNat 32 o.bits, p.2 ||| (e.flags ||| o.flags ||| (ps.map (·.2)).foldl (· ||| ·) 0))

end Sys2Proof.Claims

/-- R116, R117, R306: the elements a dense row of unscaled operands is given. On the integer path each is its old value plus the sum of its
products, modulo 2^32; on the FP32 path the groups of 32 products are rounded and added in ascending order. That
+inf and -inf set invalid beside a quiet NaN too is the model's choice (log 120). -/
def Sys2Proof.Claims.MatrixRowSums : Prop :=
  (∀ s c k xa xb, DenseRow s c k xa xb → k.intPath = true →
    ∃ vs, rowCompute c k s = .ok ((vs, 0), s) ∧ vs.length = k.cols ∧
      ∀ j, (h : j < vs.length) → vs[j] = rowStart s c k j +
        BitVec.ofInt 32 ((List.range k.depth).map (fun t => decodeInt k.fmtA (xa t) * decodeInt k.fmtB (xb j t))).sum) ∧
  (∀ s c k xa xb, DenseRow s c k xa xb → k.intPath = false →
    let after := fun j => afterGroups k xa (xb j) (rowStart s c k j) ((k.depth + 31) / 32)
    rowCompute c k s = .ok (((List.range k.cols).map (fun j => (after j).1),
      ((List.range k.cols).map (fun j => (after j).2)).foldl (· ||| ·) 0), s))

/-- R310, R313, R319, R323: the end of a matrix command. M falls and the flags join the issuer's; `mclr` goes tile
by tile, leaving each element +0 and each row full, and waits at a tile with a handler-pending row; a stop reports FADDR and FAULTED and leaves its trap; an `mrc` that is not admitted answers 1, and raises 0x0E where CAPTRAP was set at its issue (R444). While the issuer is pre-empted none of
it happens (log 116). -/
def Sys2Proof.Claims.MatrixCommandsEnd : Prop :=
  (∀ s c id k th, s.event = .matrixCommandComplete c id → activeCmd (getCore s c) id = some k → issuerAway s k = false → k.op ≠ .mclr → k.op ≠ .mrc →
    k.hasRows = false → (k.rows = 0 ∨ k.cols = 0 ∨ k.rows ≤ k.drn) →
    (∀ p ∈ liveThreads s, p.2.2.uid ∉ k.hands) → uidsOwe s k.hands = false → k.gang = 0 → k.ended = false → k.p < 4 →
    getThread s k.core k.slot = th → th.uid = k.uid → th.status ≠ .free →
    ∃ t th2, exec .matrixCommandComplete s = .next t ∧ getThread t k.core k.slot = th2 ∧ th2.cntM = th.cntM - 1 ∧
      th2.fpStatus = th.fpStatus ||| k.flags ∧ rowField (mapGet 0 th2.eng 10) k.p = 0 ∧ drnField (mapGet 0 th2.eng 10) k.p = 0 ∧
      th2.regs = th.regs ∧ th2.pending = th.pending ∧ t.mem = s.mem ∧
      (∀ m ∈ (getCore t c).mq ++ (getCore t c).drains, m.id ≠ id)) ∧
  (∀ s c id k n, s.event = .matrixCommandComplete c id → activeCmd (getCore s c) id = some k → issuerAway s k = false → k.op = .mclr → k.gang = 0 →
    k.ended = false → n < 4 → k.row ≤ n → k.a.getLsbD n = true → (∀ i, k.row ≤ i → i < n → k.a.getLsbD i = false) →
    (tilePending (getCore s c) n = true → exec .matrixCommandComplete s = .next s) ∧
    (tilePending (getCore s c) n = false →
    ∃ t, exec .matrixCommandComplete s = .next t ∧
      (∀ i r j, i < 4 → r < 32 → j < 32 → accElem (getCore t c) i r j = if i = n then 0 else accElem (getCore s c) i r j) ∧
      (∀ i r, i < 4 → r < 32 → (getCore t c).rowEmpty.getLsbD (i * 32 + r) =
        (i != n && (getCore s c).rowEmpty.getLsbD (i * 32 + r))) ∧
      ((∃ i, n < i ∧ i < 4 ∧ k.a.getLsbD i = true) → activeCmd (getCore t c) id = some { k with row := n + 1 }) ∧
      ((∀ i, n < i → i < 4 → k.a.getLsbD i = false) → ∀ m ∈ (getCore t c).mq ++ (getCore t c).drains, m.id ≠ id))) ∧
  (∀ s c id k, activeCmd (getCore s c) id = some k → issuerAway s k = true →
    (s.event = .matrixCommandComplete c id → exec .matrixCommandComplete s = .next s) ∧
    (s.event = .matrixCommandStop c id → exec .matrixCommandStop s = .next s)) ∧
  (∀ s c id k th cause va, s.event = .matrixCommandStop c id → activeCmd (getCore s c) id = some k → issuerAway s k = false →
    matFault s c k = some (cause, va) → cause ≠ 0x0F → k.id < s.nextId → k.gang = 0 → k.op ≠ .mrc → k.p < 4 → s.gangs = [] →
    (∀ p ∈ s.cores, ∀ m ∈ p.2.mq, m.uid = k.uid → m.ended = false) → (∀ m ∈ s.mesh, m.2.uid = k.uid → m.2.ended = false) →
    getThread s k.core k.slot = th → th.uid = k.uid → th.status ≠ .free → th.pending = none →
    ∃ t th2, exec .matrixCommandStop s = .next t ∧ getThread t k.core k.slot = th2 ∧
      th2.pending = some ⟨cause, va, k.pc, fenceOn th k.id⟩ ∧ th2.fpStatus = th.fpStatus ||| k.flags ∧
      mapGet 0 th2.eng 20 = va ∧ (mapGet 0 th2.eng 10).getLsbD (48 + k.p) = true ∧ th2.cntM < max 1 th.cntM ∧ t.mem = s.mem ∧
      (∀ m ∈ (getCore t c).mq ++ (getCore t c).drains, m.id ≠ id)) ∧
  (∀ s id c k th, s.event = .matrixCommandAccept id → s.mesh.find? (fun m => m.2.id == id) = some (c, k) →
    s.mesh.find? (fun m => m.1 == c) = some (c, k) → meshHeld s (c, k) = false → (getCore s c).sealed = false → k.op = .mrc → k.gang = 0 →
    k.ended = false → admitted (getCore s c) k = false → getThread s k.core k.slot = th → th.uid = k.uid → th.status ≠ .free → k.d ≠ 0 →
    portOf th k.d = none → isShared th.hdr k.d.toNat = false →
    ∃ t, exec .matrixCommandAccept s = .next t ∧ getReg (getThread t k.core k.slot) k.d = fullReg 1 ∧
      (getThread t k.core k.slot).cntM = th.cntM - 1 ∧
      (k.cfg.getLsbD 8 = true → th.pending = none →
        (getThread t k.core k.slot).pending = some ⟨0x0E, 0, k.pc, fenceOn th k.id⟩))

namespace Sys2Proof.Claims

/-! ### Edge runs and collectives (R359 to R369, R421 to R423) -/

/-- A thread may issue `edge` or `coll`, with va its operand. -/
def EngineReady (s : State) (a : RegNo) (va : Word) (th : Thread) : Prop :=
  ReadyFor s [a] [va] th ∧ isHeld s (cur s) 12 = false ∧ specTask s (cur s) = none ∧ va.toNat % 64 = 0

/-- The thread of a run's or a collective's issuer still stands in its slot. -/
def IssuerStands (s : State) (core slot uid : Nat) (th : Thread) : Prop :=
  getThread s core slot = th ∧ th.uid = uid ∧ th.status ≠ .free

/-- The combines the hardware does (R359). -/
def copTable : List (Nat × (Word → Word → Word)) :=
  [(1, fun a m => a + m), (2, fun a m => if a.toInt < m.toInt then a else m), (3, fun a m => if a.toInt < m.toInt then m else a),
   (4, fun a m => a ||| m), (5, fun a m => if a.toNat < m.toNat then a else m)]

/-- A sum, a least and a greatest element of an integer format of w bits (R422). -/
def collIntOps (sg : Bool) (w : Nat) : List (Nat × (Nat → Nat → Nat)) :=
  let less := fun x y => if sg then decide (toSigned w x < toSigned w y) else decide (x < y)
  [(1, fun x y => (x + y) % 2 ^ w), (2, fun x y => if less x y then x else y), (3, fun x y => if less x y then y else x)]

end Sys2Proof.Claims

/-- R359 to R362: `edge` accepts a descriptor that passes its checks as a run and counts it in C; in a handler of a run it raises
0x06, before any naming check by the model's choice (log 91). -/
def Sys2Proof.Claims.EdgeRunsAreAccepted : Prop :=
  (∀ s a va th d s1 hs s2 hc s3 ha s4, EngineReady s a va th → (cur s).kind ≠ .edgeHandler →
    edgeRead s va = .ok (d, s1) → edgeFieldsBad (edgeDescOf va d) d = none →
    edgeHeader s1 va (wordAt d 96) 12 6 = .ok (hs, s2) →
    (if (edgeDescOf va d).hcomb then edgeHeader s2 va (wordAt d 104) 13 4 = .ok (hc, s3)
      else wordAt d 104 = 0 ∧ hc = Header.zero ∧ s3 = s2) →
    edgeHeader s3 va (wordAt d 112) 14 5 = .ok (ha, s4) →
    (let p := corePlace s4 s4.core th.ctx (threadPlace s4 s4.core th)
     edgeTailBad (edgeDescOf va d) d (workFits s4 th.ctx (coresOf s4 th.ctx s4.core p) (edgeDescOf va d)) = none) →
    th.cntC < 31 →
    ∃ t r, exec (.edge a) s = .next t ∧
      t = { s4 with threads := t.threads, runs := s4.runs ++ [r], nextId := s4.nextId + 1 } ∧ OthersKept s4 t ∧
      cur t = { cur s4 with ports := th.ports, cntC := (cur s4).cntC + 1, pc := pcNext (cur s4).pc, status := .ready } ∧ r.id = s4.nextId ∧
      r.uid = th.uid ∧ r.started = false ∧ r.push = (edgeDescOf va d).out ∧ r.curA = true ∧ r.rounds = 0 ∧
      r.desc = { edgeDescOf va d with scatter := hs, combine := hc, apply := ha }) ∧
  (∀ s a, Live s → (cur s).kind = .edgeHandler → exec (.edge a) s = .next (trapped s 0x06 0))

/-- R361 to R368: a run of an empty frontier ends at once with its report in e27; a handler starts with its item's words in its
locals; the first message of a round becomes acc and later ones are combined; applies are owed to the vertices that received; a
round that empties the frontier ends the run; a failure stops it, and one behind a round that is stored leaves that round counted and
stored. -/
def Sys2Proof.Claims.EdgeRunsGoOn : Prop :=
  (∀ s id r mf mu s1 th, s.event = .edgeRunStart id → getRun s id = some r → r.started = false →
    (∀ x ∈ s.runs, x.id < id → runsMeet s x r = false) → workClear s r = true →
    measure { r with started := true } (curFront r) (setRun s { r with started := true }) = .ok ((0, mf, mu), s1) →
    IssuerStands s1 r.core r.slot r.uid th →
    ∃ t, exec .edgeRunStart s = .next t ∧ t.runs = s1.runs.filter (fun x => !(x.id == id)) ∧
      mapGet 0 (getThread t r.core r.slot).eng 27 = word (r.rounds % 2 ^ 32 + (if r.push then 0 else 2 ^ 32) +
        (if r.curA then 0 else 2 ^ 33) + 2 ^ 34) ∧ (getThread t r.core r.slot).cntC = th.cntC - 1) ∧
  (∀ s id item stack r w v h ls s1 c q i, s.event = .edgeHandlerStart id item stack → getRun s id = some r →
    r.work.find? (fun w => w.id == item) = some w → r.started = true → r.fail = none → itemNeedsThread s r w = true →
    itemStart r w.item s = .ok ((v, h, ls), s1) → routeVertex s1 r v = some (c, q) → freeSlot s1 c = some i →
    (getCore s1 c).killed = false → hasRoom s1 c h 0 stack = true → h.g = 0 → h.s = 0 → h.l ≤ 63 →
    ∃ t th, exec .edgeHandlerStart s = .next t ∧ getThread t c i = th ∧ th.kind = .edgeHandler ∧ th.status = .ready ∧
      th.work = id ∧ th.item = item ∧ th.pc = h.entry ∧ th.ctx = r.ctx ∧
      (∀ j x, j < h.l → ls[j]? = some x → getReg th (BitVec.ofNat 6 (1 + j)) = fullReg x)) ∧
  (∀ s id item r w d m, s.event = .edgeCombine id item → getRun s id = some r →
    r.work.find? (fun w => w.id == item) = some w → w.item = .combine d m → r.started = true → r.fail = none → w.uid = 0 →
    workBad s r d = false →
    (received s r d = false → exec .edgeCombine s = .next (itemDone (setRecv (setAcc s r d m) r d) id w)) ∧
    (received s r d = true → r.desc.hcomb = false → ∀ p ∈ copTable, p.1 = r.desc.cop →
      exec .edgeCombine s = .next (itemDone (setAcc s r d (p.2 (accOf s r d) m)) id w))) ∧
  (∀ s id r, s.event = .edgeApplyPhase id → getRun s id = some r → r.started = true → r.stage = 0 → r.applyPhase = false → r.fail = none →
    r.work = [] → (∀ v, v < r.desc.n → workBad s r v = false) →
    ∃ t r2, exec .edgeApplyPhase s = .next t ∧ getRun t id = some r2 ∧ r2.applyPhase = true ∧
      r2.work.map (·.item) = ((List.range r.desc.n).filter (received s r)).map EdgeItem.apply ∧ t.mem = s.mem) ∧
  (∀ s id r s1 cause va, s.event = .edgeRoundEnd id → getRun s id = some r → r.started = true → r.stage = 0 → r.applyPhase = true →
    r.fail = none → r.work = [] → storeApplied r s = .ok ((), s1) → s1.runs = s.runs →
    measure { r with rounds := r.rounds + 1, curA := !r.curA, applyPhase := false, applied := [], stage := 1 } (nextFront r) s1 =
      .error (cause, va) → cause ≠ 0 →
    ∃ t r2, exec .edgeRoundEnd s = .next t ∧ getRun t id = some r2 ∧ r2.rounds = r.rounds + 1 ∧ r2.curA = !r.curA ∧
      r2.fail = some (cause, va) ∧ t.mem = s1.mem) ∧
  (∀ s id r s1 s2 th, s.event = .edgeRoundEnd id → getRun s id = some r → r.started = true → r.stage = 0 → r.applyPhase = true →
    r.fail = none → r.work = [] → r.desc.log = 0 → storeApplied r s = .ok ((), s1) →
    (∃ mf mu, measure { r with rounds := r.rounds + 1, curA := !r.curA, applyPhase := false, applied := [], stage := 1 } (nextFront r) s1 =
      .ok ((0, mf, mu), s2)) → IssuerStands s2 r.core r.slot r.uid th →
    ∃ t, exec .edgeRoundEnd s = .next t ∧ t.runs = s2.runs.filter (fun x => !(x.id == id)) ∧
      (getThread t r.core r.slot).cntC = th.cntC - 1 ∧
      mapGet 0 (getThread t r.core r.slot).eng 27 = word ((r.rounds + 1) % 2 ^ 32 + (if r.push then 0 else 2 ^ 32) +
        (if r.curA then 2 ^ 33 else 0) + 2 ^ 34)) ∧
  (∀ s id r cause va th, s.event = .edgeRunStop id → getRun s id = some r → r.fail = some (cause, va) → va ≠ 0 →
    (∀ p ∈ liveThreads s, p.2.2.kind = .edgeHandler → p.2.2.work ≠ id) → uidsOwe s (r.work.map (·.uid)) = false → IssuerStands s r.core r.slot r.uid th →
    th.pending = none →
    ∃ t th2, exec .edgeRunStop s = .next t ∧ getThread t r.core r.slot = th2 ∧ th2.pending = some ⟨cause, va, r.pc, fenceOn th r.id⟩ ∧
      mapGet 0 th2.eng 20 = va ∧ (∀ x ∈ t.runs, x.id ≠ id) ∧
      th2.cntC = th.cntC - (1 + (s.runs.filter (fun x => x.uid == r.uid && decide (id < x.id) && !x.started)).length) ∧
      (mapGet 0 th2.eng 27).extractLsb' 34 2 = 3)

/-- R421 to R423: `coll` starts a collective counted in C; its end writes the status word, full, and lowers C; a signal word takes
the number of elements it stands for; integer elements are combined as R422 says. -/
def Obligations.CollectivesRun : Prop :=
  (∀ s a va th d s1, EngineReady s a va th → descRead (setCur s th) va 64 0x04 = .ok (d, s1) →
    collFmtOk (fieldAt d 1 1) = true →
    (wordAt d 16).toNat % elemBytes (collFmt (collOf s1 th d)) = 0 → (wordAt d 24).toNat % elemBytes (collFmt (collOf s1 th d)) = 0 →
    collFieldsOk s1 (collOf s1 th d) d = true → th.cntC < 31 →
    ∃ t k, exec (.coll a) s = .next t ∧
      t = { s1 with threads := t.threads, colls := s1.colls ++ [k], nextId := s1.nextId + 1 } ∧ OthersKept s1 t ∧
      cur t = { cur s1 with cntC := (cur s1).cntC + 1, pc := pcNext (cur s1).pc, status := .ready } ∧ k.id = s1.nextId ∧
      k.op = fieldAt d 0 1 ∧ k.count = fieldAt d 8 8 ∧ k.send = wordAt d 16 ∧ k.recv = wordAt d 24 ∧ k.status = wordAt d 48 ∧
      k.done = []) ∧
  (∀ s id j others k s1, s.event = .collSignal id j others → s.colls.find? (fun k => k.id == id) = some k → k.signals ≠ 0 →
    j * k.tile < k.count → j ∉ k.done → collGiven s k (collTile k j) others = true →
    (do collPerform s k (collTile k j) others
        writeSignal (collAgent k) (k.signals + word (8 * j)) (collTile k j).length : Eng Unit) s = .ok ((), s1) →
    ∃ t, exec .collSignal s = .next t ∧ t = { s1 with colls := t.colls } ∧ t.mem = s1.mem ∧
      t.colls = s1.colls.map (fun x => if x.id = id then { x with done := j :: x.done } else x)) ∧
  (∀ s id others k s1 th, s.event = .collComplete id 0 others → s.colls.find? (fun k => k.id == id) = some k →
    (k.signals = 0 ∨ collRest k = []) → collGiven s k (collRest k) others = true →
    collPerform s k (collRest k) others s = .ok ((), s1) → IssuerStands s1 k.core k.slot k.uid th →
    ∃ t, exec .collComplete s = .next t ∧
      ((∀ va, engFind (collAgent k) k.status 8 false true s1 ≠ .error (0, va)) →
        t.colls = s1.colls.filter (fun x => !(x.id == id)) ∧ (getThread t k.core k.slot).cntC = th.cntC - 1) ∧
      (∀ x l s2, engFind (collAgent k) k.status 8 false true s1 = .ok (x, s2) → x.lost = false → l = x.loc → l.win = .urn →
        l.drop = false → s2.marks = [] → (∀ q ∈ s1.flights, isFeWaiter q l.key = false) → s2.flights = s1.flights → l.key % 8 = 0 →
        memRead t.mem l.key 8 = 0 ∧ isFull t l.key = true)) ∧
  (∀ f ∈ [(Fmt.i32, true), (.i64, true), (.z32, false), (.z64, false)], ∀ p ∈ collIntOps f.2 f.1.width, ∀ x y : Word,
    collPair f.1 p.1 x y = word (p.2 (x.toNat % 2 ^ f.1.width) (y.toNat % 2 ^ f.1.width)))

namespace Sys2Proof.Claims
open Sys2Proof.Machine

/-! ### Traps and the system registers -/

/-- A thread as its trap leaves it (R383, R254). -/
def heldAs (th : Thread) (cause : Nat) : Thread :=
  { th with
    status := .trapped
    guard0 := if cause = 0x07 then 0 else th.guard0, guard1 := if cause = 0x07 then 0 else th.guard1 }

/-- The handler in slot 31 may return: its delivery holds a thread, and its own writes to the trap record have been
performed. -/
def MayReturn (s : State) (d : Delivery) (th : Thread) : Prop :=
  Live s ∧ s.slot = 31 ∧ (getCore s s.core).current = some d ∧ d.slot < 31 ∧ getThread s s.core d.slot = th ∧ th.uid = d.uid ∧
    th.status = .trapped ∧ specTask s th = none ∧ th.uid ≠ (cur s).uid ∧ writesOwed s (trapRecordKey s s.core d.slot) 64 = false

/-- The oldest delivery of a core can be handed to slot 31 (R383). -/
def MayDeliver (s : State) (c : Nat) (d : Delivery) (q : List Delivery) (th : Thread) : Prop :=
  s.event = .trapDelivery c ∧ (getCore s c).queue = d :: q ∧ (getCore s c).current = none ∧ (getCore s c).killed = false ∧
    (getThread s c 31).status = .free ∧ getThread s c d.slot = th ∧ d.slot < 31

/-- The allocated numbers of the system registers (R394, R435). -/
def allocated (n : BitVec 12) : Prop :=
  n.toNat ≤ 0x006 ∨ (0x010 ≤ n.toNat ∧ n.toNat ≤ 0x021) ∨ (0x030 ≤ n.toNat ∧ n.toNat ≤ 0x037) ∨
    (0x100 ≤ n.toNat ∧ n.toNat ≤ 0x141) ∨ (0x180 ≤ n.toNat ∧ n.toNat ≤ 0x19F) ∨ (0x1A0 ≤ n.toNat ∧ n.toNat ≤ 0x1A3)

/-- What `sysr` returns of the device's own registers (R436 to R439, R398). -/
def deviceRegisters (s : State) (th : Thread) : List (BitVec 12 × Word) :=
  [(0x000, BitVec.ofNat 64 (s.dev.stage % 256 + s.dev.reason % 256 * 2 ^ 8 + s.dev.last % 256 * 2 ^ 16 + s.dev.kslot % 4 * 2 ^ 24 +
      s.dev.starts % 16 * 2 ^ 26 + s.dev.htbase % 2 ^ 13 * 2 ^ 32)),
   (0x002, BitVec.ofNat 64 (s.dev.mhz % 4096 + s.dev.limit % 4096 * 2 ^ 12)), (0x003, s.dev.timebase),
   (0x004, BitVec.ofNat 64 s.dev.errwin), (0x005, th.errSel), (0x030, th.ctxSel.setWidth 64)]

/-- What `sysr` returns of the selected context (R442). -/
def contextRegisters (x : Context) : List (BitVec 12 × Word) :=
  [(0x031, x.cfg), (0x032, x.troot), (0x033, x.seedP), (0x034, x.seedQ), (0x035, x.coreTbl), (0x036, x.routeTbl), (0x037, x.expTbl)]

/-- The sites of each kind that a selector may name (R439). -/
def siteCounts : List Nat := [4352, 1024, 4352, 64, 16, 18, 0, 0]

/-- What ERRCNT returns: the counters of the site that a selector names, and 0 where there is none (R439, R440). -/
def errorCounters (s : State) (sel : Word) : Word :=
  let c := mapGet SiteCount.zero s.dev.sites (sel.toNat % 2 ^ 16)
  if sel.toNat % 2 ^ 13 < siteCounts.getD (sel.toNat / 2 ^ 13 % 8) 0 then
    BitVec.ofNat 64 (c.win % 8 + (if c.lasting then 8 else 0) + min c.total 65535 * 2 ^ 16)
  else 0

/-- What CORES returns: nine bits of each die, the number of its cores that are in service (R437). -/
def coresInService (s : State) : Word :=
  BitVec.ofNat 64 (s.dev.enabled.getD 0 0 % 512 + s.dev.enabled.getD 1 0 % 512 * 2 ^ 16 + s.dev.enabled.getD 2 0 % 512 * 2 ^ 32 +
    s.dev.enabled.getD 3 0 % 512 * 2 ^ 48)

/-- The read-only numbers, every LINK among them (R394, R435, R438). -/
def readOnlyNumbers : List (BitVec 12) :=
  [0x000, 0x001, 0x002, 0x003, 0x006, 0x140, 0x141, 0x1A0, 0x1A1, 0x1A2, 0x1A3] ++ (List.range 18).map (fun i => BitVec.ofNat 12 (0x010 + i))

/-- The instructions of the device kernel's mode alone (R381). -/
def kernelOnly : List (RegNo → RegNo → Instr) :=
  [fun a b => .tlbi a b, fun _ _ => .halt, fun a _ => .ctxs a, fun d a => .ctxr d a, fun a _ => .seal a, fun a b => .capw a b,
   fun d a => .capr d a, fun _ _ => .idle]

/-- A kernel thread's instruction with a destination, or without. -/
def KernelReady (s : State) (srcs : List RegNo) (d : RegNo) (vs : List Word) (th : Thread) : Prop :=
  Ready s srcs d vs th ∧ isKernel s = true ∧ specTask s (cur s) = none
def KernelReadyFor (s : State) (srcs : List RegNo) (vs : List Word) (th : Thread) : Prop :=
  ReadyFor s srcs vs th ∧ isKernel s = true ∧ specTask s (cur s) = none

/-- A slot of instruction memory before and after an `ovli` of overlay num of a context (R399). -/
def OverlayDropped (ctx num : Nat) (im im2 : ImemSlot) : Prop :=
  (im.overlay = num → im.ctx = ctx → im.state ≠ .loading → im2.state = .empty) ∧
    (im.overlay = num → im.ctx = ctx → im.state = .loading → im2 = { im with drop := true }) ∧
    (¬(im.overlay = num ∧ im.ctx = ctx) → im2 = im)

end Sys2Proof.Claims

/-- R382, R383, R354, R385: a trap holds the thread with its registers, writes its record, and queues its delivery, changing
nothing else; a speculative task only notes it; one raised in slot 31 loses the context. Words 1 to 3 of the record are zero but where a
0x14 names the atomic behind an indeterminate register (R173): that its address and PC stand in words 1 and 2 is the model's choice
(log 23). -/
def Sys2Proof.Claims.TrapsHoldTheThread : Prop :=
  (∀ w1 w2 s c t cause detail recPc l2 th, getThread s c t = th → specTask s th = none → t < 31 → cause < 256 →
    ∃ u k, takeTrapOf w1 w2 s c t cause detail recPc l2 = u ∧ k = trapRecordKey s c t ∧
      u = { s with threads := u.threads, cores := u.cores, mem := u.mem } ∧
      getThread u c t = heldAs th cause ∧ (∀ c2 t2, c2 * 32 + t2 ≠ c * 32 + t → getThread u c2 t2 = getThread s c2 t2) ∧
      getCore u c = { getCore s c with
        queue := (getCore s c).queue ++ [⟨t, th.uid, cause, l2, trapDetail cause detail, th.guard0, th.guard1⟩] } ∧
      (∀ c2, c2 ≠ c → getCore u c2 = getCore s c2) ∧
      memRead u.mem k 8 % 64 = 5 ∧ memRead u.mem (k + 8) 8 = recordKey s th % 2 ^ 64 ∧ memRead u.mem (k + 16) 8 = recPc.toNat ∧
      memRead u.mem (k + 24) 8 = w1 % 2 ^ 64 ∧ memRead u.mem (k + 32) 8 = w2 % 2 ^ 64 ∧ memRead u.mem (k + 40) 8 = 0 ∧
      memRead u.mem (k + 48) 8 % 256 = cause ∧ memRead u.mem (k + 48) 8 / 256 % 32 = th.fpStatus.toNat ∧
      (∀ a, (a < k ∨ k + 64 ≤ a) → memByte u.mem a = memByte s.mem a)) ∧
  (∀ s c t cause detail recPc l2, takeTrap s c t cause detail recPc l2 = takeTrapOf 0 0 s c t cause detail recPc l2) ∧
  (∀ w1 w2 s c t cause detail recPc l2 th x, getThread s c t = th → specTask s th = some x →
    takeTrapOf w1 w2 s c t cause detail recPc l2 =
      putThread s c t { th with status := .waitFamily, pending := some ⟨cause, detail, recPc, none⟩ }) ∧
  (∀ w1 w2 s c cause detail recPc l2, specTask s (getThread s c 31) = none →
    takeTrapOf w1 w2 s c 31 cause detail recPc l2 = loseContext s (getThread s c 31).ctx cause 0)

/-- R393, R382: `trap n` raises 0x1C with detail n, the record naming the instruction after it and l2 its own. R56: a word that
is no instruction raises 0x01. R89, R187: a fetch that no slot serves raises 0x0C with its address, one in an invalid slot 0x0D,
and where the object is quarantined the member's family fails with 0x05. -/
def Sys2Proof.Claims.TrapInstructionAndBadFetches : Prop :=
  (∀ s n, Live s → specTask s (cur s) = none →
    exec (.trap n) s = .next (takeTrap s s.core s.slot 0x1C (n.setWidth 64) (pcNext (cur s).pc) (cur s).pc)) ∧
  (∀ s w e, s.event = .illegalInstruction w → Live s → fetchAt (getCore s s.core) (cur s).pc = .word w →
    decodeWord w = .error e → exec .illegalInstruction s = .next (trapped s 0x01 0)) ∧
  (∀ s, s.event = .overlayMiss → Live s → fetchAt (getCore s s.core) (cur s).pc = .miss →
    exec .overlayMiss s = .next (trapped s 0x0C (pcWord (cur s).pc))) ∧
  (∀ s, s.event = .overlayMiss → Live s → fetchAt (getCore s s.core) (cur s).pc = .invalid →
    ((cur s).kind ≠ .member ∨ quarantined s (cur s).ctx ((cur s).pc.toNat / 2 ^ 16) = false) →
    exec .overlayMiss s = .next (trapped s 0x0D 0)) ∧
  (∀ s, s.event = .overlayMiss → Live s → fetchAt (getCore s s.core) (cur s).pc = .invalid → (cur s).kind = .member →
    quarantined s (cur s).ctx ((cur s).pc.toNat / 2 ^ 16) = true →
    exec .overlayMiss s = .next (endFamily s (cur s).fam (.failed 5)))

/-- R383, R385, R386: a delivery starts the handler in slot 31 with the record's address, cause, PC, detail, core and slot; while
its overlay is in no slot it is loaded; a launch without handler ends the thread and tells the owner; the delivery of a thread that
was killed is discarded. The model's choices: a record stands at the save base and 64 times its slot (log 6), and the handler starts at
the low 32 bits of the handler field (log 94). -/
def Sys2Proof.Claims.HandlersStart : Prop :=
  (∀ s c d q th, MayDeliver s c d q th → th.uid = d.uid → th.status = .trapped → (getCore s c).handler ≠ 0 →
    (∃ im, (im = (getCore s c).im0 ∨ im = (getCore s c).im1) ∧ im.state = .valid ∧
      im.overlay = (getCore s c).handler / 2 ^ 16 % 2 ^ 16) →
    ∃ t h, exec .trapDelivery s = .next t ∧ getThread t c 31 = h ∧ h.status = .ready ∧ h.kind = .trapHandler ∧ h.ctx = th.ctx ∧
      h.pc = BitVec.ofNat 32 (getCore s c).handler ∧
      getReg h 1 = fullReg (BitVec.ofNat 64 (0xF * 2 ^ 48 + (getCore s c).saveBase + 64 * d.slot)) ∧
      getReg h 2 = fullReg (BitVec.ofNat 64 d.cause) ∧ getReg h 3 = fullReg (d.pc.setWidth 64) ∧ getReg h 4 = fullReg d.detail ∧
      getReg h 5 = fullReg (BitVec.ofNat 64 (logicalCore s th.ctx c)) ∧ getReg h 6 = fullReg (BitVec.ofNat 64 d.slot) ∧
      (∀ n : RegNo, 7 ≤ n.toNat → getReg h n = Reg.empty) ∧ windowSize h.hdr = 17 ∧ h.hdr.tiles = 0 ∧
      getCore t c = { getCore s c with queue := q, current := some d } ∧
      (∀ c2 t2, c2 * 32 + t2 ≠ c * 32 + 31 → getThread t c2 t2 = getThread s c2 t2) ∧ t.mem = s.mem) ∧
  (∀ s c d q th num o, MayDeliver s c d q th → th.uid = d.uid → th.status = .trapped → (getCore s c).handler ≠ 0 →
    num = (getCore s c).handler / 2 ^ 16 % 2 ^ 16 → imemMatches (getCore s c).im0 num = false →
    imemMatches (getCore s c).im1 num = false → caddyFind s th.ctx num = some o → o.bad = false →
    ∃ t, exec .trapDelivery s = .next t ∧ t = { s with cores := t.cores, nextId := t.nextId } ∧ (getCore t c).queue = (getCore s c).queue ∧
      ((getCore s c).im0.fetched ≤ (getCore s c).im1.fetched → (getCore s c).im0.state ≠ .loading →
        (getCore t c).im0.state = .loading ∧ (getCore t c).im0.overlay = num ∧ (getCore t c).im1 = (getCore s c).im1) ∧
      ((getCore s c).im1.fetched < (getCore s c).im0.fetched → (getCore s c).im1.state ≠ .loading →
        (getCore t c).im1.state = .loading ∧ (getCore t c).im1.overlay = num ∧ (getCore t c).im0 = (getCore s c).im0)) ∧
  (∀ s c d q th, MayDeliver s c d q th → th.uid = d.uid → th.status = .trapped → (getCore s c).handler = 0 →
    exec .trapDelivery s = .next (postEvent (endTrapped (putCore s c { getCore s c with queue := q }) c d.slot d.cause)
      ⟨0x82, th.ctx, 0, 0, [d.cause, d.pc.toNat, logicalCore s th.ctx c]⟩)) ∧
  (∀ s c d q th, MayDeliver s c d q th → (th.uid ≠ d.uid ∨ th.status ≠ .trapped) →
    exec .trapDelivery s = .next (putCore s c { getCore s c with queue := q }))

/-- R384: `eret`, and `exit` in slot 31, resume the held thread with the record's PC and floating-point status where the record's
state is 0x01, hold it again with 0x03 for a malformed PC, and else end it, failing its family with 0x06; the delivery ends.
Outside slot 31 `eret` raises 0x06. -/
def Sys2Proof.Claims.HandlersReturn : Prop :=
  (∀ s d th k, MayReturn s d th → k = trapRecordKey s s.core d.slot → peek s k 8 % 64 = 1 →
    peek s (k + 16) 8 < 2 ^ 32 → peek s (k + 16) 8 % 4 = 0 →
    ∃ t, exec .eret s = .next t ∧ t.mem = s.mem ∧ getThread t s.core 31 = Thread.free ∧ (getCore t s.core).current = none ∧
      getThread t s.core d.slot = { th with
        pc := BitVec.ofNat 32 (peek s (k + 16) 8), fpStatus := BitVec.ofNat 5 (peek s (k + 48) 8 / 2 ^ 8), status := .ready } ∧
      (∀ c2 t2, c2 * 32 + t2 ≠ s.core * 32 + 31 → c2 * 32 + t2 ≠ s.core * 32 + d.slot → getThread t c2 t2 = getThread s c2 t2)) ∧
  (∀ s d th k, MayReturn s d th → k = trapRecordKey s s.core d.slot → peek s k 8 % 64 = 1 → peek s (k + 16) 8 < 2 ^ 64 →
    (2 ^ 32 ≤ peek s (k + 16) 8 ∨ peek s (k + 16) 8 % 4 ≠ 0) →
    ∃ t, exec .eret s = .next t ∧ getThread t s.core 31 = Thread.free ∧ (getCore t s.core).current = none ∧
      getThread t s.core d.slot = heldAs th 0x03 ∧
      (∃ x ∈ (getCore t s.core).queue, x.uid = th.uid ∧ x.cause = 0x03 ∧ x.detail = BitVec.ofNat 64 (peek s (k + 16) 8))) ∧
  (∀ s d th k f, MayReturn s d th → k = trapRecordKey s s.core d.slot → peek s k 8 % 64 ≠ 1 → th.kind = .member →
    getFam s th.fam = some f → f.outcome = .running →
    ∃ t f2, exec .eret s = .next t ∧ (getCore t s.core).current = none ∧ getThread t s.core 31 = Thread.free ∧
      getFam t th.fam = some f2 ∧ f2.outcome = .failed 6) ∧
  (∀ s, Live s → s.slot = 31 → exec .exit s = exec .eret s) ∧
  (∀ s, Live s → s.slot ≠ 31 → exec .eret s = .next (trapped s 0x06 0))

/-- R394, R435 to R443: `sysr` returns the register, in kernel mode any allocated one (0 for a context that is not live, R442), in a
handler those of the held thread (0 outside a delivery); a number that is not allocated raises 0x01, and a mode that may not read it
0x06. -/
def Obligations.SystemRegistersRead : Prop :=
  (∀ s d th, KernelReady s [] d [] th → ∀ p ∈ deviceRegisters s (cur s), exec (.sysr d p.1) s = .next (wrote s th d p.2)) ∧
  (∀ s d th, KernelReady s [] d [] th →
    exec (.sysr d 0x001) s = .next (wrote s th d (coresInService s)) ∧
    exec (.sysr d 0x006) s = .next (wrote s th d (errorCounters s (cur s).errSel))) ∧
  (∀ s d th p l, KernelReady s [] d [] th → p < 18 → l = mapGet Link.init s.dev.links p →
    exec (.sysr d (BitVec.ofNat 12 (0x010 + p))) s = .next (wrote s th d (BitVec.ofNat 64 (l.rung % 8 + (if l.up then 8 else 0) +
      min l.margin 255 * 2 ^ 4 + l.low % 256 * 2 ^ 12 + min l.retrains 65535 * 2 ^ 20)))) ∧
  (∀ s d th x, KernelReady s [] d [] th → getCtx s (cur s).ctxSel.toNat = some x → ∀ p ∈ contextRegisters x,
    exec (.sysr d p.1) s = .next (wrote s th d p.2)) ∧
  (∀ s d th (n : BitVec 12), KernelReady s [] d [] th → getCtx s (cur s).ctxSel.toNat = none → 0x031 ≤ n.toNat → n.toNat ≤ 0x037 →
    exec (.sysr d n) s = .next (wrote s th d 0)) ∧
  (∀ s d th dl h, Ready s [] d [] th → specTask s (cur s) = none → (s.slot = 31 ∨ isKernel s = true) →
    heldThread s s.core = some (dl, h) →
    (∀ w : RegNo, exec (.sysr d (0x100 + w.setWidth 12)) s = .next (wrote s th d (getReg h w).val)) ∧
    (∃ v, exec (.sysr d 0x140) s = .next (wrote s th d v) ∧ ∀ w : RegNo, v.getLsbD w.toNat = (getReg h w).full) ∧
    (∃ v, exec (.sysr d 0x141) s = .next (wrote s th d v) ∧ ∀ w : RegNo, v.getLsbD w.toNat = (getReg h w).poison) ∧
    (∀ e : BitVec 5, exec (.sysr d (0x180 + e.setWidth 12)) s = .next (wrote s th d (mapGet 0 h.eng e.toNat))) ∧
    exec (.sysr d 0x1A0) s = .next (wrote s th d (if dl.cause = 0x07 then dl.guard0 else h.guard0)) ∧
    exec (.sysr d 0x1A1) s = .next (wrote s th d (if dl.cause = 0x07 then dl.guard1 else h.guard1)) ∧
    exec (.sysr d 0x1A2) s = .next (wrote s th d 0) ∧ exec (.sysr d 0x1A3) s = .next (wrote s th d 0)) ∧
  (∀ s d th (n : BitVec 12), Ready s [] d [] th → specTask s (cur s) = none → (s.slot = 31 ∨ isKernel s = true) →
    heldThread s s.core = none → 0x100 ≤ n.toNat → allocated n → exec (.sysr d n) s = .next (wrote s th d 0)) ∧
  (∀ s d a n, Live s → ¬allocated n →
    exec (.sysr d n) s = .next (trapped s 0x01 0) ∧ exec (.sysw a n) s = .next (trapped s 0x01 0)) ∧
  (∀ s d a (n : BitVec 12), Live s → allocated n → isKernel s = false → (s.slot ≠ 31 ∨ n.toNat < 0x100) →
    exec (.sysr d n) s = .next (trapped s 0x06 0) ∧ exec (.sysw a n) s = .next (trapped s 0x06 0))

/-- R394, R435 to R444: what `sysw` writes: ERRWIN with its counts, the selectors, the registers of the selected context, the table
bases only while no launch of it runs, the held thread's window and engine registers; a read-only register ignores it. The model's
choice: ERRWIN ignores every value above 3,600, also one whose low twelve bits are in range (log 49). -/
def Sys2Proof.Claims.SystemRegistersWritten : Prop :=
  (∀ s a v th, KernelReadyFor s [a] [v] th → v.toNat / 4096 = 0 → 1 ≤ v.toNat → v.toNat ≤ 3600 →
    exec (.sysw a 0x004) s = .next { stepped s th with dev := { s.dev with
      errwin := v.toNat, sites := s.dev.sites.map (fun p => (p.1, { p.2 with win := 0 })) } }) ∧
  (∀ s a v th, KernelReadyFor s [a] [v] th → (v.toNat = 0 ∨ 3600 < v.toNat) →
    exec (.sysw a 0x004) s = .next (stepped s th)) ∧
  (∀ s a v th, KernelReadyFor s [a] [v] th →
    exec (.sysw a 0x005) s = .next (stepped s { th with errSel := v &&& 0xFFFF }) ∧
    exec (.sysw a 0x030) s = .next (stepped s { th with ctxSel := v.setWidth 9 }) ∧
    ∀ n ∈ readOnlyNumbers, exec (.sysw a n) s = .next (stepped s th)) ∧
  (∀ s a v th x, KernelReadyFor s [a] [v] th → th.ctxSel = (cur s).ctxSel → getCtx s (cur s).ctxSel.toNat = some x →
    (∃ t, exec (.sysw a 0x032) s = .next t ∧ t = { stepped s th with contexts := t.contexts } ∧
      getCtx t (cur s).ctxSel.toNat = some { x with troot := v &&& 0x0000FFFFFFFF0000 }) ∧
    (∃ t, exec (.sysw a 0x033) s = .next t ∧ t = { stepped s th with contexts := t.contexts } ∧
      getCtx t (cur s).ctxSel.toNat = some { x with seedP := v, epochP := v, epochQ := x.seedQ, threads := 0 }) ∧
    (∃ t, exec (.sysw a 0x034) s = .next t ∧ t = { stepped s th with contexts := t.contexts } ∧
      getCtx t (cur s).ctxSel.toNat = some { x with seedQ := v, epochP := x.seedP, epochQ := v, threads := 0 }) ∧
    (∀ w, w = v &&& 0x0000FFFFFFFFFFC0 → (∀ l ∈ s.launches, l.ctx = (cur s).ctxSel.toNat → l.state ≠ .running) →
      (∃ t, exec (.sysw a 0x035) s = .next t ∧ getCtx t (cur s).ctxSel.toNat = some { x with coreTbl := w }) ∧
      (∃ t, exec (.sysw a 0x036) s = .next t ∧ getCtx t (cur s).ctxSel.toNat = some { x with routeTbl := w }) ∧
      (∃ t, exec (.sysw a 0x037) s = .next t ∧ getCtx t (cur s).ctxSel.toNat = some { x with expTbl := w })) ∧
    ((∃ l ∈ s.launches, l.ctx = (cur s).ctxSel.toNat ∧ l.state = .running) → ∀ n ∈ ([0x035, 0x036, 0x037] : List (BitVec 12)),
      exec (.sysw a n) s = .next (stepped s th)) ∧
    (x.pendCfg = none → th.cfgWait = false → ∃ t, exec (.sysw a 0x031) s = .next t ∧ (cur t).pc = th.pc ∧
      (cur t).cfgWait = true ∧ getCtx t (cur s).ctxSel.toNat = some { x with
        pendCfg := some ((x.cfg &&& ~~~(0x1FF : Word)) ||| (v &&& 0x1FF)) }) ∧
    (x.pendCfg = none → th.cfgWait = true → exec (.sysw a 0x031) s = .next (stepped s { th with cfgWait := false })) ∧
    (x.pendCfg ≠ none → exec (.sysw a 0x031) s = .next (waits s .waitHome))) ∧
  (∀ s a v th dl h, ReadyFor s [a] [v] th → specTask s (cur s) = none → s.slot = 31 → heldThread s s.core = some (dl, h) →
    dl.slot < 31 →
    (∀ w : RegNo, 0 < w.toNat → w.toNat < windowSize h.hdr → isShared h.hdr w.toNat = false →
      ∃ t, exec (.sysw a (0x100 + w.setWidth 12)) s = .next t ∧ cur t = { th with pc := pcNext th.pc, status := .ready } ∧
        getThread t s.core dl.slot = setReg h w { fullReg v with pend := (getReg h w).pend }) ∧
    (∀ w : RegNo, (w = 0 ∨ windowSize h.hdr ≤ w.toNat) → exec (.sysw a (0x100 + w.setWidth 12)) s = .next (stepped s th)) ∧
    (∀ e : BitVec 5, engReserved e.toNat = false →
      ∃ t, exec (.sysw a (0x180 + e.setWidth 12)) s = .next t ∧ cur t = { th with pc := pcNext th.pc, status := .ready } ∧
        getThread t s.core dl.slot = writeEng h e.toNat v) ∧
    (∀ e : BitVec 5, engReserved e.toNat = true → exec (.sysw a (0x180 + e.setWidth 12)) s = .next (stepped s th)))

/-- R438, R278, R394, R444: the same writes as steps of their own run the `sysw` that is about to make them; a CTXCFG value is taken
by one core after another, and completes when none is left. -/
def Sys2Proof.Claims.WritesAsStepsOfTheirOwn : Prop :=
  (∀ s v c t a, s.event = .errwinWrite v → kernelSlots.find? (fun p => (aboutToWrite s p.1 p.2 0x004 v).isSome) = some (c, t) →
    t ≠ 31 → aboutToWrite s c t 0x004 v = some a → plainSource (getThread s c t) a = true →
    specTask s (getThread s c t) = none → v.toNat / 4096 = 0 → 1 ≤ v.toNat → v.toNat ≤ 3600 →
    ∃ u, exec .errwinWrite s = .next u ∧ u.dev.errwin = v.toNat ∧ (∀ p ∈ u.dev.sites, p.2.win = 0) ∧
      (getThread u c t).pc = pcNext (getThread s c t).pc) ∧
  (∀ s ctx half v c t a x, s.event = .seedWrite ctx half v → (getThread s c t).ctxSel.toNat = ctx →
    (kernelSlots.filter (fun p => (getThread s p.1 p.2).ctxSel.toNat == ctx)).find?
      (fun p => (aboutToWrite s p.1 p.2 (0x033 + half.toNat) v).isSome) = some (c, t) →
    t ≠ 31 → aboutToWrite s c t (0x033 + half.toNat) v = some a → plainSource (getThread s c t) a = true →
    specTask s (getThread s c t) = none → getCtx s ctx = some x →
    ∃ u y, exec .seedWrite s = .next u ∧ getCtx u ctx = some y ∧ y.threads = 0 ∧ (if half = 0 then y.seedP else y.seedQ) = v ∧
      y.epochP = y.seedP ∧ y.epochQ = y.seedQ) ∧
  (∀ s c w v a, s.event = .heldWindowWrite c w v → aboutToWrite s c 31 (0x100 + w.toNat) v = some a →
    plainSource (getThread s c 31) a = true → specTask s (getThread s c 31) = none →
    ∃ u, exec .heldWindowWrite s = .next u ∧
      ∀ dl h, heldThread s c = some (dl, h) → dl.slot < 31 → 0 < w.toNat → w.toNat < windowSize h.hdr →
        isShared h.hdr w.toNat = false → getThread u c dl.slot = setReg h w { fullReg v with pend := (getReg h w).pend }) ∧
  (∀ s c e v a, s.event = .heldEngineWrite c e v → aboutToWrite s c 31 (0x180 + e.toNat) v = some a →
    plainSource (getThread s c 31) a = true → specTask s (getThread s c 31) = none →
    ∃ u, exec .heldEngineWrite s = .next u ∧
      ∀ dl h, heldThread s c = some (dl, h) → dl.slot < 31 → engReserved e.toNat = false →
        getThread u c dl.slot = writeEng h e.toNat v) ∧
  (∀ s ctx c x v, s.event = .ctxcfgWrite ctx (some c) → getCtx s ctx = some x → x.pendCfg = some v → c ∈ cfgOwed s ctx v →
    ∃ u, exec .ctxcfgWrite s = .next u ∧ coreCfg u c ctx = v ∧ (∀ k, k ≠ c → getCore u k = getCore s k) ∧
      u = { s with cores := u.cores }) ∧
  (∀ s ctx x v, s.event = .ctxcfgWrite ctx none → getCtx s ctx = some x → x.pendCfg = some v → cfgOwed s ctx v = [] →
    ∃ u, exec .ctxcfgWrite s = .next u ∧ getCtx u ctx = some { x with cfg := v, pendCfg := none } ∧
      ∀ k, coreCfg u k ctx = v)

/-- R381, R395, R397, R398: the kernel's instructions raise 0x06 elsewhere; in kernel mode `tlbi` drops the covered translations of
every core and puts a written TROOT into force for what it covers (R444), `halt` stops the core, `seal` seals or unseals, `capw` and `capr` write and read a capability, `idle` waits for an
event; a core number of 1,088 or more raises 0x06. The model's choices: `tlbi` completes at once (log 31), and `idle` takes no entry from the
event queue (log 61). -/
def Sys2Proof.Claims.KernelInstructions : Prop :=
  (∀ i ∈ kernelOnly, ∀ s a b, Live s → isKernel s = false → exec (i a b) s = .next (trapped s 0x06 0)) ∧
  (∀ s a b x y th, KernelReadyFor s [a, b] [x, y] th →
    ∃ t, exec (.tlbi a b) s = .next t ∧ t = { stepped s th with cores := t.cores, contexts := t.contexts } ∧
      (∀ n x2, getCtx s n = some x2 → ∃ y2, getCtx t n = some y2 ∧ y2 = { x2 with rootNow := y2.rootNow, rootAt := y2.rootAt } ∧
        ((2 ≤ y.toNat / 2 ^ 9 % 4 ∨ (y.toNat / 2 ^ 9 % 4 = 1 ∧ n = y.toNat % 512)) → y2.rootNow = x2.troot ∧ y2.rootAt = []) ∧
        (y.toNat / 2 ^ 9 % 4 = 0 → n = y.toNat % 512 → ¬(x2.rootNow = x2.troot ∧ x2.rootAt = []) →
          y2.rootNow = x2.rootNow ∧ y2.rootAt = (x.toNat, x2.troot) :: x2.rootAt) ∧
        (((y.toNat / 2 ^ 9 % 4 = 0 ∧ x2.rootNow = x2.troot ∧ x2.rootAt = []) ∨ (y.toNat / 2 ^ 9 % 4 ≤ 1 ∧ n ≠ y.toNat % 512)) →
          y2 = x2)) ∧
      ∀ c, getCore t c = { getCore s c with tlb := (getCore s c).tlb.filter (fun e => !(
        if y.toNat / 2 ^ 9 % 4 = 0 then decide (e.ctx = y.toNat % 512 ∧ e.page = x.toNat / e.size)
        else if y.toNat / 2 ^ 9 % 4 = 1 then decide (e.ctx = y.toNat % 512) else true)) }) ∧
  (∀ s, Live s → isKernel s = true →
    exec .halt s = .next (putCore (stepped s (cur s)) s.core { getCore s s.core with halted := true })) ∧
  (∀ s c e, (getCore s c).halted = true → takeTurn s (.issue c e) = .next s) ∧
  (∀ s a v th, KernelReadyFor s [a] [v] th →
    (v.toNat % 2 ^ 11 < 1088 →
      exec (.seal a) s = .next (putCore (stepped s th) (v.toNat % 2 ^ 11) { getCore s (v.toNat % 2 ^ 11) with
        sealed := !v.getLsbD 63 || (getCore s (v.toNat % 2 ^ 11)).killed })) ∧
    (1088 ≤ v.toNat % 2 ^ 11 → exec (.seal a) s = .next (trapped s 0x06 0))) ∧
  (∀ s a b x y th c k, KernelReadyFor s [a, b] [x, y] th → k = x.toNat % 16 → c = x.toNat / 16 % 2 ^ 11 →
    (c < 1088 → ∃ t, exec (.capw a b) s = .next t ∧ t = { stepped s th with cores := t.cores } ∧
      mapGet 0 (getCore t c).caps k = y &&& 0x80000007FFFFFFFF ∧
      (∀ j, j ≠ k → mapGet 0 (getCore t c).caps j = mapGet 0 (getCore s c).caps j) ∧
      (∀ c2, c2 ≠ c → getCore t c2 = getCore s c2)) ∧
    (1088 ≤ c → exec (.capw a b) s = .next (trapped s 0x06 0))) ∧
  (∀ s d a x th, KernelReady s [a] d [x] th →
    (x.toNat / 16 % 2 ^ 11 < 1088 →
      exec (.capr d a) s = .next (wrote s th d (mapGet 0 (getCore s (x.toNat / 16 % 2 ^ 11)).caps (x.toNat % 16)))) ∧
    (1088 ≤ x.toNat / 16 % 2 ^ 11 → exec (.capr d a) s = .next (trapped s 0x06 0))) ∧
  (∀ s, Live s → isKernel s = true →
    ((getCore s s.core).events = [] → exec .idle s = .next (waits s .waitHome)) ∧
    ((getCore s s.core).events ≠ [] → exec .idle s = .next (stepped s (cur s))))

/-- R396: `ctxs` marks its context's running launches and waits until none runs; `ctxr` gives 0 where none is stopped, else the
status of the restoration. -/
def Sys2Proof.Claims.ContextsStopAndGoOn : Prop :=
  (∀ s a v th, KernelReadyFor s [a] [v] th →
    ((∀ l ∈ s.launches, l.ctx = v.toNat % 512 → l.state ≠ .running) → exec (.ctxs a) s = .next (stepped s th)) ∧
    ((∃ l ∈ s.launches, l.ctx = v.toNat % 512 ∧ l.state = .running ∧ l.preempt = false) →
      ∃ t, exec (.ctxs a) s = .next t ∧ t = { s with threads := t.threads, launches := t.launches } ∧
        (cur t).pc = (cur s).pc ∧ t.launches = s.launches.map (fun l =>
          if l.ctx = v.toNat % 512 ∧ l.state = .running then { l with preempt := true } else l)) ∧
    ((∃ l ∈ s.launches, l.ctx = v.toNat % 512 ∧ l.state = .running) →
      (∀ l ∈ s.launches, l.ctx = v.toNat % 512 → l.state = .running → l.preempt = true) →
      exec (.ctxs a) s = .next (waits s .waitFamily))) ∧
  (∀ s d a v th, KernelReady s [a] d [v] th →
    ((∀ l ∈ s.launches, l.ctx = v.toNat % 512 → l.state ≠ .preempted) → exec (.ctxr d a) s = .next (wrote s th d 0)) ∧
    (∀ l s1 bad, s.launches.filter (fun l => l.ctx == v.toNat % 512 && l.state == .preempted) = [l] →
      getLaunch s l.id = some l → restoreLaunch (setCur s th) l = .resumed s1 bad →
      exec (.ctxr d a) s = .next (retire (writeReg s1 d (if bad then 2 else 0)))) ∧
    (∀ l s1, s.launches.filter (fun l => l.ctx == v.toNat % 512 && l.state == .preempted) = [l] →
      getLaunch s l.id = some l → restoreLaunch (setCur s th) l = .damaged s1 →
      exec (.ctxr d a) s = .next (retire (writeReg s1 d 1))) ∧
    (∀ l, s.launches.filter (fun l => l.ctx == v.toNat % 512 && l.state == .preempted) = [l] → getLaunch s l.id = some l →
      (restoreLaunch (setCur s th) l = .malformed → exec (.ctxr d a) s = .next (wrote s th d 3)) ∧
      (restoreLaunch (setCur s th) l = .busy → exec (.ctxr d a) s = .next (wrote s th d 4))))

/-- R57, R381, R398, R399: `tbr` returns the time base; `ovli` empties every slot with the overlay of the handler's own context, or
of the one the kernel names, and raises 0x06 elsewhere; `nop` does nothing, `ovlh` may start a load, and majors 0x3A and 0x3B write
zero to an `s` or `l` register and to no other. The model's choice: one that is bound to a stream port is set like any other, with nothing
appended and nothing raised (log 100). -/
def Obligations.TimeOverlaysAndHints : Prop :=
  (∀ s d th, Ready s [] d [] th → specTask s (cur s) = none → exec (.tbr d) s = .next (wrote s th d s.dev.timebase)) ∧
  (∀ s a v th ctx, ReadyFor s [a] [v] th → (s.slot = 31 ∨ isKernel s = true) →
    ctx = (if isKernel s then v.toNat / 2 ^ 16 % 512 else th.ctx) →
    ∃ t, exec (.ovli a) s = .next t ∧ t = { stepped s th with cores := t.cores } ∧
      ∀ c, OverlayDropped ctx (v.toNat % 2 ^ 16) (getCore s c).im0 (getCore t c).im0 ∧
        OverlayDropped ctx (v.toNat % 2 ^ 16) (getCore s c).im1 (getCore t c).im1 ∧
        getCore t c = { getCore s c with im0 := (getCore t c).im0, im1 := (getCore t c).im1 }) ∧
  (∀ s a, Live s → s.slot ≠ 31 → isKernel s = false → exec (.ovli a) s = .next (trapped s 0x06 0)) ∧
  (∀ s x, Live s → exec (.nop x) s = .next (stepped s (cur s))) ∧
  (∀ s (x : BitVec 26), Live s → (hintSlot s s.core (cur s).ctx (x.toNat % 2 ^ 16) = none ∨ 2 ^ 16 ≤ x.toNat) →
    exec (.ovlh x) s = .next (stepped s (cur s))) ∧
  (∀ s (x : BitVec 26) b, Live s → hintSlot s s.core (cur s).ctx x.toNat = some b → x.toNat < 2 ^ 16 →
    exec (.ovlh x) s = .next (stepped (startLoad s s.core (cur s).ctx x.toNat b 0 0 none) (cur s))) ∧
  (∀ s hi (d : RegNo) x, Live s → (isLocal (cur s).hdr d.toNat ∨ isShared (cur s).hdr d.toNat) → dstReady s (cur s) d = .ok () →
    ∃ t, exec (.hintDest hi d x) s = .next t ∧
      cur t = { setReg (cur s) d (fullReg 0) with pc := pcNext (cur s).pc, status := .ready } ∧
      (isShared (cur s).hdr d.toNat = false → OthersKept s t ∧ t = { s with threads := t.threads })) ∧
  (∀ s hi (d : RegNo) x, Live s → isLocal (cur s).hdr d.toNat = false → isShared (cur s).hdr d.toNat = false →
    exec (.hintDest hi d x) s = .next (stepped s (cur s)))

namespace Sys2Proof.Claims
open Sys2Proof.Machine

/-! ### Launches -/

/-- The submitter's record could be read, and so could its family descriptor and thread header. -/
def RecordRead (s : State) (d f h owner sub : Nat) (mine : Nat → Bool) : Prop :=
  hubRecord s (recordContext (launchOf d owner 0) sub mine) (launchOf d owner 0).family = some f ∧
    hubRecord s (recordContext (launchOf d owner 0) sub mine) (launchOf d owner 0).header = some h

/-- Nothing wrong under status 1, and nothing under status 2 (R373). -/
def cleanOne (addr d : Nat) : Prop := addr % 64 = 0 ∧ fieldAt d 144 112 = 0 ∧ fieldAt d 3 1 < 4
def cleanTwo (d owner : Nat) : Prop := fieldAt d 2 1 ≤ 23 ∧ (owner = 2 ∨ (fieldAt d 2 1 ≤ 19 ∧ fieldAt d 3 1 / 2 % 2 = 0))

/-- The done status of an outcome (R378). -/
def endStatus : Outcome → Nat
  | .completed | .running => 0
  | .broke _ _ => 1
  | .failed c => 2 + c * 256

/-- What remains of a launch's cores once it has left them. -/
def CoresLeft (t : State) (cs : List Nat) : Prop :=
  ∀ c ∈ cs, (getCore t c).launch = 0 ∧ (getCore t c).allocs = [] ∧ ∀ k, k < 32 → (getThread t c k).status = .free

/-- A launch whose turn has come, at index i with these cores, its areas given; s2 is the state with its cores taken (R376 to
R378). -/
def StartsAt (s : State) (id : Nat) (areas : List Nat) (l l2 : Launch) (x : Context) (s2 : State) : Prop :=
  s.event = .launchStart id areas ∧ getLaunch s id = some l ∧ l.state = .queued ∧
    ∃ s0 s1 l1 i, s0 = mapSpares s l.ctx ∧ served s0 l = true ∧ startIndex s0 l = some i ∧ getCtx s0 l.ctx = some x ∧
      giveAreas s0 l areas = some (s1, l1) ∧ l2 = { l1 with state := .running, index := i, cores := launchCores s0 l i } ∧
      s2 = (launchCores s0 l i).foldl (fun st c => takeCore st l2 x c) (settleDeficits (setLaunch (chargeVisit s1 l) l2))

end Sys2Proof.Claims

/-- R373: the first checks of a launch record, in their order: unreadable or misaligned, or a reserved field set, gives 1; a priority
above 23, or one above 19 or NOPREEMPT from another submitter than the device kernel (R25), 2; a context that the submitter does not own
or that has ended, 3; a record that passes enters the arbiter's FIFO, another is discarded, and the status word takes the status. The model's choice: a launch port owns its own context and no
other (log 52). -/
def Obligations.LaunchRecordsAreChecked : Prop :=
  (∀ s addr owner sub mine, recordStatus s addr none owner sub mine = 1) ∧
  (∀ s addr d f h owner sub mine, RecordRead s d f h owner sub mine →
    (¬cleanOne addr d → recordStatus s addr (some d) owner sub mine = 1) ∧
    (cleanOne addr d → ¬cleanTwo d owner → recordStatus s addr (some d) owner sub mine = 2) ∧
    (cleanOne addr d → cleanTwo d owner → (mine (fieldAt d 0 2) = false ∨ getCtx s (fieldAt d 0 2) = none) →
      recordStatus s addr (some d) owner sub mine = 3)) ∧
  (∀ s ctx x d st, s.event = .launchRecordCopy ctx → getCtx s ctx = some x → x.portKey ≠ 0 → isFull s x.portKey = true →
    s.dev.handover = none → peek s x.portKey 8 % 64 = 0 → hubRead s ctx (BitVec.ofNat 64 (peek s x.portKey 8)) 256 = some d →
    st = recordStatus s (BitVec.ofNat 64 (peek s x.portKey 8)).toNat (some d)
      (if 1088 ≤ x.portBy ∧ x.portBy < 1104 then 2 else 1) ctx (· == ctx) → keyHasState x.portKey = true →
    ∃ t, exec .launchRecordCopy s = .next t ∧ isFull t x.portKey = false ∧
      (st ≠ 0 → t.launches = s.launches) ∧
      (st = 0 → ∃ l, t.launches = s.launches ++ [l] ∧ l.id = s.nextId ∧ l.state = .queued ∧ l.ctx = fieldAt d 0 2 ∧
        l.prio = fieldAt d 2 1 ∧ l.tick = fieldAt d 56 8 ∧ l.handler = fieldAt d 64 8 ∧ l.header = wordAt d 8 ∧
        l.family = wordAt d 16 ∧ l.done = wordAt d 128) ∧
      (∀ p s1, recordContext (launchOf d 1 0) ctx (· == ctx) = ctx → resolve s hubCore 0 ctx (wordAt d 120) 8 true true = (.ok p, s1) →
        wordAt d 120 ≠ 0 → p.win = .urn → p.drop = false → p.park = false → p.key % 8 = 0 → wordOf x.portKey ≠ p.key → s.marks = [] →
        (∀ q ∈ s.flights, isFeWaiter q p.key = false) → memRead t.mem p.key 8 = st ∧ isFull t p.key = true))

/-- R378: a launch starts: its cores belong to it, with its handler, its `.scratch` allocations and nothing else of the earlier
launch; the root family stands at the lowest core of its place; a descriptor or header that has become malformed ends the launch at
once with status 2 and code 0x01 or 0x02. The model's choice: the instruction memory's second slot is empty at a start (log 51). -/
def Sys2Proof.Claims.LaunchesStart : Prop :=
  (∀ s id areas l l2 x s2 d h p s3, StartsAt s id areas l l2 x s2 → hubRecord s2 l.ctx l.family = some d → descBad d = false →
    hubRecord s2 l.ctx l.header = some h → headerOk h = true → rootPlace l2 l2.index d = some p →
    s3 = loadOverlays s2 l2.cores 0 l.ctx (fieldAt h 2 2) →
    ∃ t f, exec .launchStart s = .next t ∧ getLaunch t id = some { l2 with rootFam := s3.nextId } ∧
      getFam t s3.nextId = some f ∧ f.ctx = l.ctx ∧ f.creator = 0 ∧ f.launch = id ∧
      f.home = ((placeCores s3 l.ctx p.level p.index).map (·.2)).headD 0 ∧ f.hdr = headerOf l.header.toNat h ∧ f.count = descCount d ∧
      f.outcome = (if descCount d = 0 then .completed else .running) ∧
      (∀ c ∈ l2.cores, (getCore t c).launch = id ∧ (getCore t c).handler = l.handler ∧ (getCore t c).acc = [] ∧
        (getCore t c).bins = [] ∧ (getCore t c).rowEmpty = 0 ∧ (getCore t c).im1 = .init ∧
        (getCore t c).allocs = ((List.range x.scratch.length).zip x.scratch).map (fun q => ⟨l.ctx, q.1, q.2.off, q.2.size⟩))) ∧
  (∀ s id areas l l2 x s2, StartsAt s id areas l l2 x s2 →
    (hubRecord s2 l.ctx l.family = none → exec .launchStart s = .next (endLaunch s2 l2 0x102)) ∧
    (∀ d, hubRecord s2 l.ctx l.family = some d → descBad d = true → exec .launchStart s = .next (endLaunch s2 l2 0x102)) ∧
    (∀ d, hubRecord s2 l.ctx l.family = some d → descBad d = false → hubRecord s2 l.ctx l.header = none →
      exec .launchStart s = .next (endLaunch s2 l2 0x202)))

/-- R285, R378, R379, R385: a launch whose threads' accesses are performed ends with the status of its root family's outcome, its
cores free; one that ends while some are in flight is over at once, and its cores and its done word follow when they are performed; a
gang that misses its tick tells the group and is abandoned with 2 and code 0x03; the done word takes the status, full; a lost context
keeps no thread, no task and no launch. The model's choices: the tasks of an ended launch go (log 57), and a miss abandons a share that
runs too (log 59). -/
def Sys2Proof.Claims.LaunchesEnd : Prop :=
  (∀ s id l f, s.event = .launchEnd id → getLaunch s id = some l → l.state = .running → l.rootFam ≠ 0 →
    getFam s l.rootFam = some f → famEnded s l.rootFam = true → launchOwes s l = false →
    ∃ t l2, exec .launchEnd s = .next t ∧ t = endLaunch s l (endStatus f.outcome) ∧ getLaunch t id = some l2 ∧
      l2.state = .ended ∧ CoresLeft t l.cores ∧ (∀ x ∈ t.tasks, x.launch ≠ id)) ∧
  (∀ s l st x, getLaunch s l.id = some x → launchOwes s l = true →
    (closeLaunch s l st).mem = s.mem ∧ (closeLaunch s l st).cores = s.cores ∧
      getLaunch (closeLaunch s l st) l.id = some { l with state := .ended, closing := some st }) ∧
  (∀ s id l st, s.event = .launchEnd id → getLaunch s id = some l → l.state = .ended → l.closing = some st →
    (launchOwes s l = true → exec .launchEnd s = .next s) ∧
    (launchOwes s l = false → ∃ s1, exec .launchEnd s = .next (settleDeficits (returnAreas (finishLaunch s1 l st) l)) ∧
      s1 = { s with cores := s1.cores } ∧ ∀ c ∈ l.cores, (getCore s1 c).launch = 0 ∧ (getCore s1 c).allocs = [])) ∧
  (∀ s id l, s.event = .gangStartTick id → getLaunch s id = some l → l.gang = true → l.state = .queued → l.missed = false →
    l.tick ≤ s.dev.timebase.toNat → awaitsFull s l = false →
    ∃ t, exec .gangStartTick s = .next t ∧ t.dev.gangMsgs = s.dev.gangMsgs ++ [l.group] ∧
      getLaunch t id = some { l with missed := true }) ∧
  (∀ s id l, s.event = .gangMiss id → getLaunch s id = some l → l.gang = true →
    (l.state = .running → exec .gangMiss s = .next (endLaunch s l 0x302)) ∧
    ((l.state = .queued ∨ l.state = .preempted) → ∃ t l2, exec .gangMiss s = .next t ∧ t = settleDeficits (closeLaunch s l 0x302) ∧
      getLaunch t id = some l2 ∧ l2.state = .ended)) ∧
  (∀ s l st p s1, resolve s hubCore 0 l.ctx l.done 8 true true = (.ok p, s1) → l.done ≠ 0 → p.win = .urn → p.drop = false →
    p.park = false → p.key % 8 = 0 → keyHasState p.key = true → p.key + 8 ≤ hostBase → s.marks = [] → st < 2 ^ 64 →
    (∀ q ∈ s.flights, isFeWaiter q p.key = false) →
    memRead (finishLaunch s l st).mem p.key 8 = st ∧ isFull (finishLaunch s l st) p.key = true) ∧
  (∀ s ctx cause off t, t = loseContext s ctx cause off → (∀ p ∈ s.spilled, p.2.status ≠ .free) →
    (∀ c k, (getThread t c k).status = .free ∨ (getThread t c k).ctx ≠ ctx) ∧ (∀ x ∈ t.tasks, x.ctx ≠ ctx) ∧
      (∀ l ∈ t.launches, l.ctx = ctx → l.state = .ended))

/-- R387, R391: a pre-empted launch leaves its cores, stands at the head of the FIFO and has no speculative task left; restored, it
runs again on the cores of its logical numbers; an image that cannot be read marks the context damaged, tells its loss with the offset,
and ends the launch with status 3 and cause 0x0A in its done word. -/
def Obligations.LaunchesStopAndGoOn : Prop :=
  (∀ s id l, s.event = .launchPreempt id → getLaunch s id = some l → mustPreempt s l = true → launchQuiet s l = true →
    ∃ t l2 rest, exec .launchPreempt s = .next t ∧ t.launches = l2 :: rest ∧ l2.id = id ∧ l2.state = .preempted ∧ l2.cores = [] ∧
      l2.saved.map (fun x => x.phys) = l.cores ∧ CoresLeft t l.cores ∧ (∀ x ∈ t.tasks, x.launch = id → x.spec = false) ∧
      (∀ q ∈ t.flights, q.core ∉ l.cores)) ∧
  (∀ s id l s1 bad, s.event = .launchRestore id → getLaunch s id = some l → l.state = .preempted → served s l = true →
    restoreLaunch (chargeVisit s l) l = .resumed s1 bad →
    ∃ l2, exec .launchRestore s = .next (settleDeficits s1) ∧ getLaunch s1 id = some l2 ∧ l2.state = .running ∧ l2.saved = [] ∧
      l2.cores = l.saved.map (fun x => (physCore s l.ctx x.logical).getD 0)) ∧
  (∀ s id l s1, s.event = .launchRestore id → getLaunch s id = some l → l.state = .preempted → served s l = true →
    restoreLaunch (chargeVisit s l) l = .damaged s1 →
    ∃ l2, exec .launchRestore s = .next s1 ∧ getLaunch s1 id = some l2 ∧ l2.state = .ended ∧
      (∀ x, getCtx s l.ctx = some x → ∃ y, getCtx s1 l.ctx = some y ∧ y.cfg = x.cfg ||| 0x200 ∧
        y.pendCfg = x.pendCfg.map (· ||| 0x200)) ∧
      (l.cores = [] → ∃ s2 s3 l3 off, s3 = postEvent s2 ⟨0x83, l.ctx, 0, 0, [0x0A, off]⟩ ∧
        s1 = settleDeficits (returnAreas (finishLaunch (setLaunch s3 l3) l3 (3 + 0x0A * 256)) l3) ∧
        l3 = { l with saved := [], savedReqs := [], savedRuns := [] }))

namespace Sys2Proof.Claims
open Sys2Proof.Machine

/-! ### Containment -/

/-- A site's counters after one more event (R401, R440). -/
def oneMore (c : SiteCount) : SiteCount :=
  { c with win := min 3 (c.win + 1), lasting := c.lasting || decide (3 ≤ c.win), total := min 65535 (c.total + 1) }

/-- t is s with the event counted at the site of that key, and nothing else changed. -/
def Counted (s t : State) (k : Nat) : Prop :=
  t = { s with dev := { s.dev with sites := t.dev.sites } } ∧
    mapFind t.dev.sites k = some (oneMore (mapGet SiteCount.zero s.dev.sites k)) ∧
    ∀ j, j ≠ k → mapFind t.dev.sites j = mapFind s.dev.sites j

/-- A request in flight whose thread still stands in its slot, to a plain register if to any, with nothing else to report. -/
def Pending (s : State) (id : Nat) (r : Request) (th : Thread) : Prop :=
  getRequest s id = some r ∧ getThread s r.core r.slot = th ∧ th.uid = r.uid ∧ th.status ≠ .free ∧ th.indetOps = none ∧
    portOf th r.d = none ∧ isShared th.hdr r.d.toNat = false

/-- The request's result is that register, L one less; a dropped destination takes none. -/
def AnsweredBy (s t : State) (r : Request) (th : Thread) (x : Reg) : Prop :=
  t = { s with flights := s.flights.filter (fun q => !(q.id == r.id)), threads := t.threads } ∧
    getThread t r.core r.slot = setReg { th with cntL := th.cntL - 1 } r.d x

/-- S is one less and the thread learns the cause. -/
def LostAs (s t : State) (r : Request) (th : Thread) (cause : Nat) : Prop :=
  t = { s with flights := s.flights.filter (fun q => !(q.id == r.id)), threads := t.threads } ∧
    getThread t r.core r.slot = { th with cntS := th.cntS - 1, indetOps := some ⟨cause, r.va, r.pc, none⟩ }

/-- A request that returns a value to a register. -/
def returnsValue : ReqKind → Bool
  | .load _ | .ldf | .lde | .ste | .fstat | .amo _ | .cas => true
  | _ => false

end Sys2Proof.Claims

/-- R400: a checker that disagrees counts at its site and its unit reacts: the issuing thread traps with 0x0B, a matrix, copy or chain
command stops with it, as does an output stream at the element it appends, an edge run fails with it, a bank or a receive-and-accumulate unit retries and then marks its word and answers poison, a control
core halts at the second, and control logic kills its core. The model's choices: the scalar and the tile pipe have one site each (log 68),
the matrix unit and the engines have the places 4 c + 2 and 4 c + 3 of theirs (log 102), and a matrix command whose issuer's launch is
pre-empted waits (log 116). -/
def Sys2Proof.Claims.CheckersReact : Prop :=
  (∀ s c t th, s.event = .checkerMismatch (.pipe c t) → getThread s c t = th → c < 1088 → th.status.canIssue = true →
    ∃ s1, Counted s s1 (4 * c + (if nextIsEngine s c t then 1 else 0)) ∧
      exec .checkerMismatch s = .next (takeTrap s1 c t 0x0B 0 th.pc th.pc)) ∧
  (∀ s c k q, s.event = .checkerMismatch (.matrix c) → (getCore s c).mq = k :: q → k.hasRows = true →
    (issuerAway s k = false → ∃ s1, Counted s s1 (4 * c + 2) ∧
      exec .checkerMismatch s = .next (stopCmd s1 c k 0x0B 0 (mapGet 0 (threadOf s k.core k.slot k.uid).eng 20))) ∧
    (issuerAway s k = true → exec .checkerMismatch s = .next s)) ∧
  (∀ s id r port rec_ pos, s.event = .checkerMismatch (.stream id) → getRequest s id = some r → r.kind = .streamOut port rec_ pos →
    ∃ s1, Counted s s1 (4 * r.core + 3) ∧
      exec .checkerMismatch s = .next (streamStop s1 port r pos 0x0B (mapGet 0 (threadOf s r.core r.slot r.uid).eng 20))) ∧
  (∀ s c t e k, s.event = .checkerMismatch (.copy c t e) → firstCopy s c t = some k → copyDue k e = true →
    ∃ s1, Counted s s1 (4 * c + 3) ∧
      exec .checkerMismatch s = .next (stopCopy s1 c t k 1 0x0B (mapGet 0 (getThread s c t).eng 20))) ∧
  (∀ s id r, s.event = .checkerMismatch (.edge id) → getRun s id = some r → r.started = true → r.fail = none →
    ∃ t, exec .checkerMismatch s = .next t ∧ getRun t id = some { r with fail := some (0x0B, 0) }) ∧
  (∀ s id r, s.event = .checkerMismatch (.bank id false) → getRequest s id = some r → bankDue s r = true →
    ∃ t, exec .checkerMismatch s = .next t ∧ t = { s with dev := { s.dev with sites := t.dev.sites } }) ∧
  (∀ s id r, s.event = .checkerMismatch (.bank id true) → getRequest s id = some r → bankDue s r = true →
    (r.kind = .cas ∨ ∃ op, r.kind = .amo op) →
    ∃ t, exec .checkerMismatch s = .next t ∧ t.mem = s.mem ∧ isMarked t (hereKey s r.ctx r.key) = true ∧
      getRequest t id = some { r with resp := some 0, poison := true }) ∧
  (∀ s id item r w c k again, s.event = .checkerMismatch (.combine id item again) → getRun s id = some r →
    r.work.find? (fun x => x.id == item) = some w → combinePlace s r w = some (c, k) → c < 1088 →
    ∃ s1, Counted s s1 (4 * c + 3) ∧
      exec .checkerMismatch s = .next (if again then itemDone (setMark s1 k) id w else s1)) ∧
  (∀ s cc, s.event = .checkerMismatch (.control cc true) → cc < 16 →
    ∃ t, exec .checkerMismatch s = .next t ∧ (getCore t (1088 + cc)).halted = true ∧ t = { s with cores := t.cores }) ∧
  (∀ s cc, s.event = .checkerMismatch (.control cc false) → exec .checkerMismatch s = .next s) ∧
  (∀ s c, s.event = .checkerMismatch (.logic c) → c < 1088 → exec .checkerMismatch s = .next (killCore s c))

/-- R401 to R405: an error event counts at its site, an uncorrectable one of an SRAM array excepted, the fourth in a window making its
fault lasting; an uncorrectable one marks the word or line, or poisons the register, the tile register or the accumulator row, with no
byte of memory changed; a module memory site remembers the page; a lasting fault is reported once, with its pages, and retires a core;
a window's end sets its count to zero; scrubbing changes nothing. The model's choices: the entries that the kernel's event queue
takes (log 61), one site for each pipe (log 68) and the other numbers of sites (log 102). -/
def Sys2Proof.Claims.ErrorsAreCounted : Prop :=
  (∀ s k, Counted s (countSite s k) k) ∧
  (∀ s k what, k / 8192 ≠ 3 → k / 8192 ≠ 4 → noteErrorPage s k what = s) ∧
  (∀ s k what n a, (what = .memory a ∨ what = .correctable (some a)) → (k / 8192 = 3 ∨ k / 8192 = 4) →
    n = mapGet SiteCount.zero s.dev.sites k → ∃ s1, s1 = { s with dev := { s.dev with sites := s1.dev.sites } } ∧
      mapFind s1.dev.sites k = some { n with pages := setIns n.pages (a / 2 ^ 16) } ∧
      (∀ j, j ≠ k → mapFind s1.dev.sites j = mapFind s.dev.sites j) ∧
      noteErrorPage s k what = (if n.acted && !n.pages.contains (a / 2 ^ 16) then tellKernel s1 4 (a / 2 ^ 16) else s1)) ∧
  (∀ s x what k, s.event = .errorEvent x what → siteKey x.kind.toNat x.index.toNat = some k → errorAt k what = true →
    ∃ s1, s1 = noteErrorPage (if errorCounts k what then countSite s k else s) k what ∧
      (∀ a, what = .correctable a → exec .errorEvent s = .next s1) ∧
      (∀ a, what = .memory a → ∃ t, exec .errorEvent s = .next t ∧ t = { s1 with marks := t.marks } ∧ isMarked t a = true ∧
        ∀ b, markUnit b ≠ markUnit a → isMarked t b = isMarked s b) ∧
      (∀ c i w, what = .register c i w → (getThread s c i).status ≠ .free → w ≠ 0 → (getReg (getThread s c i) w).full = true →
        exec .errorEvent s = .next (putThread s1 c i (setReg (getThread s c i) w { getReg (getThread s c i) w with poison := true }))) ∧
      (∀ c i tile, what = .tile c i tile → (getThread s c i).status ≠ .free →
        exec .errorEvent s = .next (putThread s1 c i { getThread s c i with
          tilePoison := (getThread s c i).tilePoison ||| ((1 : BitVec 16) <<< tile.toNat) })) ∧
      (∀ c tile row, what = .accRow c tile row → ∃ t, exec .errorEvent s = .next t ∧ t = { s1 with cores := t.cores } ∧
        ∀ i, (getCore t c).rowPoison.getLsbD i = ((getCore s c).rowPoison.getLsbD i || decide (i = tile.toNat * 32 + row.toNat))) ∧
      (∀ c b, what = .imem c b → (imemSlot (getCore s c) b).state = .valid → ∃ t, exec .errorEvent s = .next t ∧
        t = { s1 with cores := t.cores, nextId := t.nextId } ∧ (imemSlot (getCore t c) b).state = .loading ∧
        (imemSlot (getCore t c) b).overlay = (imemSlot (getCore s c) b).overlay) ∧
      (∀ c, what = .control c → c < 1088 → exec .errorEvent s = .next (killCore s1 c))) ∧
  (∀ s x what k, s.event = .errorEvent x what → siteKey x.kind.toNat x.index.toNat = some k → errorAt k what = false →
    exec .errorEvent s = .next s) ∧
  (∀ s x k n, s.event = .lastingFault x → siteKey x.kind.toNat x.index.toNat = some k →
    n = mapGet SiteCount.zero s.dev.sites k → n.lasting = true → n.acted = false →
    ∃ t, exec .lastingFault s = .next t ∧ mapFind t.dev.sites k = some { n with acted := true } ∧
      t.dev.errLog = s.dev.errLog ++ [⟨0x85, x.kind.toNat * 2 ^ 13 + x.index.toNat, n.total⟩] ∧
      (x.kind = 0 → (getCore t (x.index.toNat / 4)).retired = true) ∧
      (x.kind = 3 ∨ x.kind = 4 → ∀ p ∈ n.pages, BitVec.ofNat 64 (4 + 256 * p) ∈ (getCore t 1088).events)) ∧
  (∀ s x k, s.event = .lastingFault x → siteKey x.kind.toNat x.index.toNat = some k →
    ((mapGet SiteCount.zero s.dev.sites k).lasting = false ∨ (mapGet SiteCount.zero s.dev.sites k).acted = true) →
    exec .lastingFault s = .next s) ∧
  (∀ s x k, s.event = .errorWindowExpiry x → siteKey x.kind.toNat x.index.toNat = some k →
    ∃ t, exec .errorWindowExpiry s = .next t ∧ t = { s with dev := { s.dev with sites := t.dev.sites } } ∧
      mapFind t.dev.sites k = some { mapGet SiteCount.zero s.dev.sites k with win := 0 } ∧
      ∀ j, j ≠ k → mapFind t.dev.sites j = mapFind s.dev.sites j) ∧
  (∀ s k, s.event = .scrub k → exec .scrub s = .next s)

/-- R205, R406 to R409: a killed core is sealed and holds no thread and no command; of its edge runs those that have not started are
discarded, and the others stop (the model's choice, log 125); a family of its launch whose home it was ends unless it is a root that may
restart, and a killed core stays as it is. -/
def Sys2Proof.Claims.KilledCoresHoldNothing : Prop :=
  (∀ s c, s.event = .coreKill c → c < 1088 → (getCore s c).killed = false →
    ∃ t, exec .coreKill s = .next t ∧ (getCore t c).killed = true ∧ (getCore t c).sealed = true ∧ (getCore t c).mq = [] ∧
      (getCore t c).drains = [] ∧ (getCore t c).copies = [] ∧ (getCore t c).mons = [] ∧ (getCore t c).bins = [] ∧
      (getCore t c).im0.state = .empty ∧ (getCore t c).im1.state = .empty ∧
      (∀ k, k < 32 → (getThread t c k).status = .free) ∧
      (∀ r ∈ t.runs, r.core = c → r.started = true ∧ r.fail.isSome = true) ∧
      (∀ fam f, getFam s fam = some f → f.home = c → f.launch = (getCore s c).launch → (f.creator ≠ 0 ∨ f.hdr.restartable = false) →
        ∃ f2, getFam t fam = some f2 ∧ f2.outcome ≠ .running)) ∧
  (∀ s c, s.event = .coreKill c → c < 1088 → (getCore s c).killed = true → exec .coreKill s = .next s) ∧
  (∀ s c e, (getCore s c).killed = true → takeTurn s (.issue c e) = .next s)

/-- R408: a request that meets a sealed core is answered poison where it returns a value; a store-type one counts as performed for S
and its thread takes 0x15; a shared for a killed core's member is discarded. That an `fstat` is poisoned is R408 as the model prefers it (log 118). -/
def Sys2Proof.Claims.SealedCoresAnswer : Prop :=
  (∀ s id r th, s.event = .sealedMailboxReply id → Pending s id r th → meetsSeal s r = true → returnsValue r.kind = true →
    ∃ t, exec .sealedMailboxReply s = .next t ∧ AnsweredBy s t r th poisonReg) ∧
  (∀ s id r th, s.event = .sealedMailboxReply id → Pending s id r th → meetsSeal s r = true →
    (r.kind = .store ∨ r.kind = .stf ∨ (∃ op, r.kind = .red op) ∨ ∃ tb n l i, r.kind = .ksend tb n l i) →
    ∃ t, exec .sealedMailboxReply s = .next t ∧ LostAs s t r th 0x15) ∧
  (∀ s id r fam k n, s.event = .sealedMailboxReply id → getRequest s id = some r → r.kind = .shared fam k n →
    sharedSealed s fam k = true → exec .sealedMailboxReply s = .next { s with flights := s.flights.filter (fun q => !(q.id == r.id)) })

/-- R412, R413: parked requests are let go once they meet no fault any more, and an engine's as long as what makes the access is under
way; a discarded one that returns a value is indeterminate if it is an atomic and poisoned if not (an `fstat` gives three bits), a thread that stands at an `lde` or
`ste` of the fabric window goes on with a poisoned register, and a store-type one is noted as indeterminate; a tagged request is tried
again up to eight times, and then is indeterminate; a tag entry ages once no request of it is open. The model's choices: a load, an
`ste` and an `ldrd` that are discarded poison their register, an `fstat` takes free bits (log 118), and an engine's entry stands for the access that the engine makes again
after the replay (log 70). -/
def Obligations.ParkedAndTaggedRequests : Prop :=
  (∀ s home, s.event = .parkedQueueReplay home →
    ∃ t, exec .parkedQueueReplay s = .next t ∧ t = { s with flights := t.flights } ∧
      (∀ r ∈ s.flights, (r.parked = false ∨ homeOf r.key ≠ home ∨ meetsFault s r = true) → r ∈ t.flights) ∧
      (∀ r ∈ s.flights, r.parked = true → homeOf r.key = home → meetsFault s r = false →
        ((∀ n, r.kind ≠ .engine n) → { r with parked := false, replayed := true } ∈ t.flights) ∧
        (∀ n, r.kind = .engine n → r ∉ t.flights ∧
          (engineStands s n = true → { r with parked := false, replayed := true } ∈ t.flights))) ∧
      (∀ q ∈ t.flights, q ∈ s.flights ∨ ∃ r ∈ s.flights, q = { r with parked := false, replayed := true })) ∧
  (∀ s id r th, s.event = .parkedRequestDiscard id → Pending s id r th → r.parked = true →
    ((r.kind = .cas ∨ ∃ op, r.kind = .amo op) → ∃ t, exec .parkedRequestDiscard s = .next t ∧
      AnsweredBy (closeTag s r) t r th { Reg.empty with full := true, indet := true, indetAddr := r.va, indetPc := r.pc }) ∧
    (returnsValue r.kind = true → ¬(r.kind = .cas ∨ ∃ op, r.kind = .amo op) → r.kind ≠ .fstat → farStanding r = false →
      ∃ t, exec .parkedRequestDiscard s = .next t ∧ AnsweredBy (closeTag s r) t r th poisonReg) ∧
    (r.kind = .fstat → ∃ t w s1, exec .parkedRequestDiscard s = .next t ∧ w.toNat < 8 ∧
      s1 = { closeTag s r with freeCtr := s.freeCtr + 1 } ∧ AnsweredBy s1 t r th (fullReg w)) ∧
    (∀ vs th2, farStanding r = true →
      takeSources th [BitVec.ofNat 6 (r.e.toNat % 64), BitVec.ofNat 6 (r.e.toNat / 64)] = some (vs, th2) →
      ∃ t u, exec .parkedRequestDiscard s = .next t ∧ getRequest t id = none ∧ getThread t r.core r.slot = u ∧ u.status = .ready ∧
        u.pc = pcNext th2.pc ∧ u.cntL = th2.cntL ∧ (r.d ≠ 0 → getReg u r.d = poisonReg)) ∧
    (∀ n, r.kind = .engine n → ∃ t, exec .parkedRequestDiscard s = .next t ∧ t = { s with flights := t.flights } ∧
      getRequest t id = some { r with parked := false, resp := some 0 }) ∧
    ((r.kind = .store ∨ r.kind = .stf ∨ ∃ op, r.kind = .red op) → ∃ t, exec .parkedRequestDiscard s = .next t ∧
      LostAs (closeTag s r) t r th 0x14)) ∧
  (∀ s id r, s.event = .retryTimeout id → getRequest s id = some r → r.tag ≠ 0 → r.parked = false → r.tries < 8 →
    ∃ t, exec .retryTimeout s = .next t ∧ t = { s with flights := t.flights } ∧
      getRequest t id = some { r with tries := r.tries + 1 }) ∧
  (∀ s id r th op, s.event = .retryTimeout id → Pending s id r th → r.tag ≠ 0 → r.parked = false → r.tries = 8 → r.kind = .amo op →
    ∃ t, exec .retryTimeout s = .next t ∧
      AnsweredBy (closeTag s r) t r th { Reg.empty with full := true, indet := true, indetAddr := r.va, indetPc := r.pc }) ∧
  (∀ s c tag, s.event = .tagEntryExpiry c tag → tagOpen s c tag = true → exec .tagEntryExpiry s = .next s) ∧
  (∀ s c tag, s.event = .tagEntryExpiry c tag → tagOpen s c tag = false →
    ∃ t, exec .tagEntryExpiry s = .next t ∧ t = { s with tags := t.tags } ∧
      ∀ d, mapFind t.tags d = (mapFind s.tags d).map (fun es =>
        es.map (fun e => if e.core = c ∧ e.tag = tag then { e with old := true } else e)))

namespace Sys2Proof.Claims
open Sys2Proof.Machine

/-! ### Ports, start-up and the host's commands -/

/-- s with port p standing as l. -/
def portAs (s : State) (p : Nat) (l : Link) : State := { s with dev := { s.dev with links := mapSet Link.init s.dev.links p l } }

/-- A move of a port written to the management port's log; 5 is down. -/
def moved (s : State) (p rung : Nat) : State :=
  { s with dev := { s.dev with linkLog := s.dev.linkLog ++ [⟨0x0411, p, rung⟩] } }

/-- The start-up state of a device with the old one's remembered fields (R424 to R427). -/
def startedAs (s t : State) (starts last stage reason : Nat) : Prop :=
  t.dev.starts = starts ∧ t.dev.last = last ∧ t.dev.stage = stage ∧ t.dev.reason = reason ∧ t.threads = [] ∧ t.contexts = [] ∧
    t.launches = [] ∧ t.families = [] ∧ t.flights = [] ∧ t.cores = [] ∧ t.marks = [] ∧ t.empties = [] ∧
    t.dev.mhz = 1750 ∧ t.dev.limit = 1700 ∧ t.dev.timebase = 0 ∧ t.dev.errwin = 10 ∧
    (∀ a, keyIsHost a = true → memByte t.mem a = memByte s.mem a) ∧ (∀ a, keyIsHost a = false → memByte t.mem a = 0)

/-- The device kernel takes commands (R415, R431). -/
def Serving (s : State) : Prop := s.dev.stage = 2 ∧ s.dev.reason = 0 ∧ s.dev.handover = none

/-- MinimalMode mode (R428). -/
def MinimalMode (s : State) : Prop := s.dev.stage = 3 ∧ s.dev.handover = none

/-- What the host reads of BAR 0 (R414, R424). -/
def bar0Registers (s : State) : List (Bar0Reg × Word) :=
  [(.commandBase, BitVec.ofNat 64 s.dev.cmdBase), (.commandSize, BitVec.ofNat 64 s.dev.cmdSize),
   (.commandTail, BitVec.ofNat 64 s.dev.cmdTail), (.eventBase, BitVec.ofNat 64 s.dev.evBase),
   (.eventSize, BitVec.ofNat 64 s.dev.evSize), (.eventHead, BitVec.ofNat 64 s.dev.evHead), (.bootStatus, bootStat s.dev)]

/-- A page of 64 KiB that lies in one window of module memory. -/
def OneWindow (page : Nat) : Prop :=
  (physWin (page * 2 ^ 16) = some .gddr ∧ physWin (page * 2 ^ 16 + 0xFFFF) = some .gddr) ∨
    (physWin (page * 2 ^ 16) = some .lpddr ∧ physWin (page * 2 ^ 16 + 0xFFFF) = some .lpddr)

/-- The command ring holds this command, which needs no context, and u is s with its entry taken (R415, R416). -/
def TakenAny (s : State) (op : Nat) (tag : BitVec 32) (args : List Nat) (u : State) : Prop :=
  ∃ i, ringFindAny s op tag args = some i ∧ u = ringTake s i

/-- The command ring holds this command where its turn has come, and u is s with its entry taken (R415). -/
def Taken (s : State) (op ctx : Nat) (tag : BitVec 32) (args : List Nat) (u : State) : Prop :=
  ∃ i, ringFind s op ctx tag args = some i ∧ u = ringTake s i

/-- What a host atomic leaves in memory (R414). -/
def atomicTable : List (HostAtomicOp × (Word → Word → Word → Word)) :=
  [(.fetchAdd, fun o v _ => o + v), (.swap, fun _ v _ => v), (.cas, fun o v c => if o = c then v else o)]

end Sys2Proof.Claims

/-- R411, R430: a good flit in order is taken once, one that fails its CRC is replayed, and the eighth replay in a row retrains the
port; a retrain that fails takes it down; a lane predicted below 12 percent in three windows in a row steps the port down one rung;
ten minutes of 1 ms windows without a low lane or a retrain, or a management command, step it up one. That the windows in a row are
those of one lane is the model's reading (log 72). -/
def Sys2Proof.Claims.PortsKeepTheirRung : Prop :=
  (∀ s p seq l, s.event = .flitReceive p seq true → l = mapGet Link.init s.dev.links p → p < 18 → l.up = true → l.retrain = false →
    exec .flitReceive s = .next (if seq = l.next then portAs s p { l with next := l.next + 1, replays := 0 } else s)) ∧
  (∀ s p seq l, s.event = .flitReceive p seq false → l = mapGet Link.init s.dev.links p → p < 18 → l.up = true → l.retrain = false →
    exec .flitReceive s = .next (portAs s p { l with replays := l.replays + 1, retrain := decide (8 ≤ l.replays + 1) })) ∧
  (∀ s p l, s.event = .portRetrain p true → l = mapGet Link.init s.dev.links p → p < 18 → l.retrain = true →
    exec .portRetrain s = .next (portAs s p { l with
      retrain := false, replays := 0, quietMs := 0, retrains := min 65535 (l.retrains + 1) })) ∧
  (∀ s p l, s.event = .portRetrain p false → l = mapGet Link.init s.dev.links p → p < 18 → l.retrain = true →
    ∃ t, exec .portRetrain s = .next t ∧ (mapGet Link.init t.dev.links p).up = false ∧ t.dev.linkLog = (moved s p 5).dev.linkLog) ∧
  (∀ s p ms l, s.event = .eyeMarginWindow p ms → l = mapGet Link.init s.dev.links p → p < 18 → l.up = true → ms.length = 8 →
    ∃ t l2, exec .eyeMarginWindow s = .next t ∧ mapGet Link.init t.dev.links p = l2 ∧
      (∀ i, i < 8 → l2.low.testBit i = decide (ms.getD i 100 < 12)) ∧
      ((∀ i, i < 8 → 12 ≤ ms.getD i 100) → l2.quietMs = l.quietMs + 1) ∧
      ((∃ i, i < 8 ∧ ms.getD i 100 < 12) → l2.quietMs = 0) ∧
      ((∃ i, i < 8 ∧ ms.getD i 100 < 12 ∧ 2 ≤ l.lowRuns.getD i 0) → l.rung < 4 → l2.rung = l.rung + 1 ∧ l2.up = true) ∧
      ((∃ i, i < 8 ∧ ms.getD i 100 < 12 ∧ 2 ≤ l.lowRuns.getD i 0) → 4 ≤ l.rung → l2.up = false) ∧
      ((∀ i, i < 8 → ms.getD i 100 < 12 → l.lowRuns.getD i 0 < 2) → l2.rung = l.rung ∧ l2.up = true)) ∧
  (∀ s p l, s.event = .rateUpTimeout p → l = mapGet Link.init s.dev.links p → p < 18 → l.up = true → 0 < l.rung →
    600000 ≤ l.quietMs → l.retrain = false →
    exec .rateUpTimeout s = .next (moved (portAs s p { l with rung := l.rung - 1, lowRuns := [], quietMs := 0 }) p (l.rung - 1))) ∧
  (∀ s p l, s.event = .rateUpTimeout p → l = mapGet Link.init s.dev.links p → l.quietMs < 600000 → exec .rateUpTimeout s = .next s) ∧
  (∀ s p l, s.event = .mgmtLinkRateUp true p → s.dev.mgmtKey = true → l = mapGet Link.init s.dev.links p → p < 18 → l.up = true →
    0 < l.rung →
    exec .mgmtLinkRateUp s = .next (moved (portAs s p { l with rung := l.rung - 1, lowRuns := [], quietMs := 0 }) p (l.rung - 1)))

/-- R23, R398, R420, R424, R430: a timing message tells how far the count is from the master's; as time passes the time base is moved
toward it by at most 1 ns for each 10 µs, and never falls; without a master in another device it changes nothing. That a count which is
ahead is slowed until it agrees is the model's reading (log 73). The arithmetic
clock moves by 25 MHz between its limits; a management command acts under a valid HMAC alone. -/
def Sys2Proof.Claims.TimePowerAndManagement : Prop :=
  (∀ s m, s.event = .timebaseSync m →
    (hasMaster s = true → ∃ t, exec .timebaseSync s = .next t ∧ t = { s with dev := { s.dev with slewed := t.dev.slewed } } ∧
      t.dev.slewed = (m.toNat : Int) - (s.dev.timebase.toNat : Int)) ∧
    (hasMaster s = false → exec .timebaseSync s = .next s)) ∧
  (∀ s ns n, n = min s.dev.slewed.natAbs (min ((s.dev.slewNs + ns) / 10000) ns) → ∃ t, takeTurn s (.tick ns) = .next t ∧
    (0 ≤ s.dev.slewed → t.dev.timebase = s.dev.timebase + BitVec.ofNat 64 (ns + n) ∧ t.dev.slewed = s.dev.slewed - (n : Int)) ∧
    (s.dev.slewed < 0 → t.dev.timebase = s.dev.timebase + BitVec.ofNat 64 (ns - n) ∧ t.dev.slewed = s.dev.slewed + (n : Int)) ∧
    t.dev.slewNs = (s.dev.slewNs + ns) % 10000) ∧
  (∀ s w, s.event = .powerClockStep w → ∃ t, exec .powerClockStep s = .next t ∧ t = { s with dev := { s.dev with mhz := t.dev.mhz } } ∧
    (s.dev.limit < w → 25 < s.dev.mhz → t.dev.mhz = s.dev.mhz - 25) ∧
    (w ≤ s.dev.limit → s.dev.mhz + 25 ≤ 1750 → t.dev.mhz = s.dev.mhz + 25) ∧ (s.dev.mhz ≤ 1750 → t.dev.mhz ≤ 1750)) ∧
  (∀ s w, s.event = .mgmtPowerLimit true w → s.dev.mgmtKey = true → w ≤ 1700 →
    exec .mgmtPowerLimit s = .next { s with dev := { s.dev with limit := w } }) ∧
  (∀ s, s.event = .mgmtStartCounterClear true → s.dev.mgmtKey = true →
    exec .mgmtStartCounterClear s = .next { s with dev := { s.dev with starts := 0 } }) ∧
  (∀ s w p, (s.event = .mgmtPowerLimit false w → exec .mgmtPowerLimit s = .next s) ∧
    (s.event = .mgmtStartCounterClear false → exec .mgmtStartCounterClear s = .next s) ∧
    (s.event = .mgmtLinkRateUp false p → exec .mgmtLinkRateUp s = .next s) ∧
    (s.event = .mgmtReset false true true → exec .mgmtReset s = .next s)) ∧
  (∀ s, s.event = .mgmtTelemetry → ∃ t, exec .mgmtTelemetry s = .next t ∧ t = { s with dev := { s.dev with report := t.dev.report } } ∧
    (∀ x, x ∈ s.dev.errLog ∨ x ∈ s.dev.linkLog → x ∈ t.dev.report))

/-- R424 to R428: a start counts itself and waits for a stage-1 image, fails with 0x04 or 0x05 where memory or a die does not come
up, and after three counted starts enters minimal mode with 0x07; a doorbell with a wrong length fails with 0x08, an image that R426
refuses with its reason, a good one starts the kernel; a timeout fails with 0x01 or 0x06. The model's choices: memory that reads 0 after
a start (log 4), the fields that no rule gives a value for (log 5), and what LAST takes and what a reset keeps or loses (log 16). -/
def Obligations.StartUp : Prop :=
  (∀ s, s.event = .powerOnReset true true true → ∃ t, exec .powerOnReset s = .next t ∧ startedAs s t 1 0 0 0 ∧
    t.dev.trained = true ∧ t.dev.mgmtKey = false) ∧
  (∀ s last, s.event = .powerOnReset false true true → s.dev.starts < 3 →
    last = (if s.dev.reason = 0 ∨ s.dev.reason = 7 then s.dev.last else s.dev.reason) →
    ∃ t, exec .powerOnReset s = .next t ∧ startedAs s t (s.dev.starts + 1) last 0 0 ∧ t.dev.trained = true) ∧
  (∀ s dies, s.event = .powerOnReset true false dies → ∃ t, exec .powerOnReset s = .next t ∧ startedAs s t 1 0 0 4) ∧
  (∀ s, s.event = .powerOnReset true true false → ∃ t, exec .powerOnReset s = .next t ∧ startedAs s t 1 0 0 5) ∧
  (∀ s m d, s.event = .powerOnReset false m d → 3 ≤ s.dev.starts →
    ∃ t last, exec .powerOnReset s = .next t ∧ startedAs s t (min 15 (s.dev.starts + 1)) last 3 7) ∧
  (∀ s m d, s.event = .mgmtReset true m d → s.dev.mgmtKey = true →
    ∃ t u, exec .mgmtReset s = .next t ∧ exec .powerOnReset { s with event := .powerOnReset false m d } = .next u ∧
        t = { u with event := s.event }) ∧
  (∀ s len, s.event = .bootDoorbell len → awaitsImage s.dev = true →
    ((len.toNat < 256 ∨ 2 ^ 28 < len.toNat ∨ len.toNat ≠ 256 + memRead s.mem 8 8) →
      exec .bootDoorbell s = .next { s with dev := { s.dev with reason := 8 } }) ∧
    (256 ≤ len.toNat → len.toNat ≤ 2 ^ 28 → len.toNat = 256 + memRead s.mem 8 8 →
      (∀ r, imageReason (memBytes s.mem 0 len.toNat) = r → r ≠ 0 →
        exec .bootDoorbell s = .next { s with dev := { s.dev with stage := 1, reason := r } }) ∧
      (imageReason (memBytes s.mem 0 len.toNat) = 0 → ∃ t, exec .bootDoorbell s = .next t ∧ t.dev.stage = 2 ∧ t.dev.kslot = 2 ∧
        t.dev.stage1 = memBytes s.mem 0 len.toNat ∧ t.dev.reason = s.dev.reason))) ∧
  (∀ s len, s.event = .bootDoorbell len → awaitsImage s.dev = false → exec .bootDoorbell s = .next s) ∧
  (∀ s, s.event = .bootImageTimeout → awaitsImage s.dev = true →
    exec .bootImageTimeout s = .next { s with dev := { s.dev with reason := 1 } }) ∧
  (∀ s, s.event = .kernelCompletionTimeout → s.dev.stage = 2 → s.dev.reason = 0 → s.dev.posted = false →
    exec .kernelCompletionTimeout s = .next { s with dev := { s.dev with reason := 6 } })

/-- R402, R414, R415, R417: BAR 2 reaches GDDR 7 through the kernel's table, where its pages stand now; a write stores its bytes and no
other, a read and an atomic return the bytes; BAR 0's registers read back; an event goes to the ring while it has room, then is held,
then counted as dropped; freed room takes held ones; a retired page's bytes move to the page that takes its place, and the event of it
is posted. The model's choices: the kernel's table has pages of 64 KiB and a read takes eight bytes (log 76), and every address that
named a retired page names the page that took its bytes (log 104). -/
def Obligations.HostAccessAndEvents : Prop :=
  (∀ s off p, s.event = .hostBar2Access off [] → s.dev.stage = 2 → mapFind s.dev.bar2 (off / 2 ^ 16) = some p →
    off % 2 ^ 16 + 8 ≤ 2 ^ 16 → off + 8 ≤ 2 ^ 36 → physWin (p + off % 2 ^ 16 + 7) = some .gddr →
    exec .hostBar2Access s = .next { s with dev := { s.dev with bar2Read := memBytes s.mem (movedKey s (p + off % 2 ^ 16)) 8 } }) ∧
  (∀ s off b, s.event = .hostBar2Access off [b] → s.dev.stage = 0 → s.dev.trained = true → off < 2 ^ 36 → s.marks = [] →
    ∃ t, exec .hostBar2Access s = .next t ∧ memByte t.mem (movedKey s off) = b ∧
      ∀ a, a ≠ movedKey s off → memByte t.mem a = memByte s.mem a) ∧
  (∀ s off data, s.event = .hostBar2Access off data → data ≠ [] → bar2Place s off data.length = none →
    exec .hostBar2Access s = .next s) ∧
  (∀ s off op v cmp k, s.event = .hostAtomic off op v cmp → bar2Place s off 8 = some k → off % 8 = 0 → s.marks = [] →
    ∀ p ∈ atomicTable, p.1 = op →
    ∃ t, exec .hostAtomic s = .next t ∧ memRead t.mem k 8 = (p.2 (BitVec.ofNat 64 (memRead s.mem k 8)) v cmp).toNat ∧
      t.dev.bar2Read = memBytes s.mem k 8 ∧ ∀ a, (a < k ∨ k + 8 ≤ a) → memByte t.mem a = memByte s.mem a) ∧
  (∀ s e, s.dev.evTail < s.dev.evHead + s.dev.evSize → s.dev.held = [] → s.dev.handover = none →
    ∃ t k, postEvent s e = t ∧ k = hostBase + s.dev.evBase + 64 * (s.dev.evTail % s.dev.evSize) ∧ t.dev.evTail = s.dev.evTail + 1 ∧
      memRead t.mem k 2 = e.code % 2 ^ 16 ∧ memRead t.mem (k + 2) 2 = e.ctx % 2 ^ 16 ∧ memRead t.mem (k + 4) 4 = e.tag.toNat ∧
      memRead t.mem (k + 8) 4 = e.status % 2 ^ 32 ∧ (∀ a, (a < k ∨ k + 64 ≤ a) → memByte t.mem a = memByte s.mem a)) ∧
  (∀ s e, s.dev.evHead + s.dev.evSize ≤ s.dev.evTail → s.dev.held.length < 4096 →
    postEvent s e = { s with dev := { s.dev with held := s.dev.held ++ [e] } }) ∧
  (∀ s e, 4096 ≤ s.dev.held.length → postEvent s e = { s with dev := { s.dev with dropped := s.dev.dropped + 1 } }) ∧
  (∀ s head e, s.event = .eventHeadDoorbell head → s.dev.evHead ≤ head → head ≤ s.dev.evTail → s.dev.handover = none →
    s.dev.held = [e] → s.dev.dropped = 0 → s.dev.evTail < head + s.dev.evSize →
    ∃ t, exec .eventHeadDoorbell s = .next t ∧ t.dev.held = [] ∧ t.dev.evHead = head ∧ t.dev.evTail = s.dev.evTail + 1) ∧
  (∀ s, ∀ p ∈ bar0Registers s, takeTurn s (.setup (.bar0Read p.1)) = .next { s with dev := { s.dev with bar0Read := p.2 } }) ∧
  (∀ s page target, s.dev.retiring.contains page = true → page ≠ target → s.dev.retiring.contains target = false →
    (∀ p ∈ s.dev.moved, p.1 ≠ target ∧ p.2 ≠ target) → OneWindow target →
    ∃ t s1, takeTurn s (.setup (.pageRetired page target)) = .next t ∧
      t = postEvent s1 ⟨0x86, 0xFFFF, 0, 0, [page * 2 ^ 16]⟩ ∧ page ∉ s1.dev.retiring ∧
      (∀ k, page * 2 ^ 16 ≤ k → k < page * 2 ^ 16 + 2 ^ 16 → movedKey s1 k = k - page * 2 ^ 16 + target * 2 ^ 16) ∧
      (∀ i, i < 2 ^ 16 → memByte s1.mem (target * 2 ^ 16 + i) = memByte s.mem (page * 2 ^ 16 + i)) ∧
      (∀ a, (a < target * 2 ^ 16 ∨ target * 2 ^ 16 + 2 ^ 16 ≤ a) → memByte s1.mem a = memByte s.mem a))

/-- R415, R416, R424, R428: a command is taken from its ring entry, those of one context in ring order; it completes with its status:
an image that R94 refuses gives 1 and its offset, one without space 2; the 513th context 3, one with launches that run 4; pages outside
R249 5; an unknown opcode 7; in minimal mode every command but 0x07 and 0x08 gives 8; 0x02, 0x07, 0x08 and 0x09 need no context, and are taken whatever context
their entry names. The model's choices: the places of the arguments in an entry and the size codes (log 109), a context that is live from its creation on (log 124), the lowest free number for
a context and the places that the kernel names (log 78), and its answer that no memory is left (log 103). -/
def Sys2Proof.Claims.CommandsComplete : Prop :=
  (∀ s op ctx tag args i k, ringFind s op ctx tag args = some i → k = hostBase + s.dev.cmdBase + 64 * (i % s.dev.cmdSize) →
    s.dev.cmdHead ≤ i ∧ i < s.dev.cmdTail ∧ i ∉ s.dev.cmdDone ∧ memRead s.mem k 2 = op ∧ memRead s.mem (k + 2) 2 = ctx ∧
      memRead s.mem (k + 4) 4 = tag.toNat ∧ (∀ n a, args[n]? = some a → a < 2 ^ 64 ∧ memRead s.mem (k + 16 + 8 * n) 8 = a) ∧
      (ctx ≠ 0xFFFF → ∀ j, s.dev.cmdHead ≤ j → j < i → j ∉ s.dev.cmdDone →
        memRead s.mem (hostBase + s.dev.cmdBase + 64 * (j % s.dev.cmdSize) + 2) 2 ≠ ctx)) ∧
  (∀ s op tag args, (∀ i, ringFindAny s op tag args = some i → ∃ ctx, ringFind s op ctx tag args = some i) ∧
    (∀ ctx i, ringFind s op ctx tag args = some i → ∃ j, ringFindAny s op tag args = some j)) ∧
  (∀ s i, ringWaiting (ringTake s i) = (ringWaiting s).filter (fun j => j != i) ∧
    ringTake s i = { s with dev := { s.dev with cmdHead := (ringTake s i).dev.cmdHead, cmdDone := (ringTake s i).dev.cmdDone } }) ∧
  (∀ s tag op ctx, s.event = .unknownCommand tag op ctx → ringFind s op ctx tag [] = none → exec .unknownCommand s = .next s) ∧
  (∀ s tag ctx addr len places x bs u, s.event = .loadImage tag ctx addr len places → Serving s → getCtx s ctx = some x →
    Taken s 1 ctx tag [addr, len] u → bs = memBytes s.mem (hostBase + addr) len →
    (∀ off, nkiBad bs = some off → exec .loadImage s = .next (complete u tag ctx 1 [off])) ∧
    (nkiBad bs = none → (layoutBad x bs = true ∨ noMemory bs places = true) →
      exec .loadImage s = .next (complete u tag ctx 2 [])) ∧
    (nkiBad bs = none → noMemory bs places = false → ∀ s1, loadNki u ctx x bs places = some s1 →
      exec .loadImage s = .next (complete s1 tag ctx 0 []))) ∧
  (∀ s tag p q cfg tables u, s.event = .createContext tag p q cfg tables → Serving s →
    TakenAny s 2 tag [p.toNat, q.toNat, cfg.toNat] u →
    ((∀ n, n < 512 → getCtx s n ≠ none) → exec .createContext s = .next (complete u tag 0xFFFF 3 [])) ∧
    (∀ n s1, n < 512 → getCtx s n = none → (∀ m, m < n → getCtx s m ≠ none) → makeContext u n p q cfg tables = some s1 →
      ∃ x, exec .createContext s = .next (complete s1 tag n 0 [n, tables.getD 2 0]) ∧ getCtx s1 n = some x ∧ x.seedP = p ∧
        x.seedQ = q ∧ x.epochP = p ∧ x.epochQ = q ∧ x.threads = 0 ∧ x.cfg = cfg &&& 0x1FF ∧ x.caddy = [] ∧ x.coreTbl = 0)) ∧
  (∀ s tag ctx x u, s.event = .endContext tag ctx → Serving s → getCtx s ctx = some x → Taken s 3 ctx tag [] u →
    ((∃ l ∈ s.launches, l.ctx = ctx ∧ (l.state = .running ∨ l.state = .preempted ∨ l.closing ≠ none)) →
      exec .endContext s = .next (complete u tag ctx 4 [])) ∧
    ((∀ l ∈ s.launches, l.ctx = ctx → (l.state = .queued ∨ l.state = .ended) ∧ l.closing = none) →
      ∃ t s1, exec .endContext s = .next t ∧ t = complete s1 tag ctx 0 [] ∧ getCtx t ctx = none ∧
        (∀ l ∈ t.launches, l.ctx = ctx → l.state = .ended) ∧
        ∀ c, mapFind (getCore t c).cfg ctx = none ∧ ∀ e ∈ (getCore t c).tlb, e.ctx ≠ ctx)) ∧
  (∀ s tag ctx addr d u, s.event = .submitLaunch tag ctx addr → Serving s → addr + 256 ≤ 2 ^ 46 →
    d = leValue (memBytes s.mem (hostBase + addr) 256) → Taken s 4 ctx tag [addr] u →
    ∃ t, exec .submitLaunch s = .next (complete t tag ctx (recordStatus u addr (some d) 0 ctx (fun n => (getCtx s n).isSome)) []) ∧
      (recordStatus u addr (some d) 0 ctx (fun n => (getCtx s n).isSome) = 0 →
        ∃ l, t.launches = s.launches ++ [l] ∧ l.state = .queued ∧ l.owner = 0) ∧
      (recordStatus u addr (some d) 0 ctx (fun n => (getCtx s n).isSome) ≠ 0 → t.launches = s.launches)) ∧
  (∀ s tag ctx va pa n size perm tables x u, s.event = .mapPages tag ctx va pa n size perm tables → Serving s →
    getCtx s ctx = some x → Taken s 5 ctx tag [va.toNat, pa.toNat, n, size, perm] u →
    (pageSizeOf size = none → exec .mapPages s = .next (complete u tag ctx 5 [])) ∧
    (∀ z, pageSizeOf size = some z → (mapOk u x.troot.toNat va.toNat pa.toNat n z = false ∨ 8 ≤ perm) →
      exec .mapPages s = .next (complete u tag ctx 5 [])) ∧
    (∀ z, rangeOk va.toNat pa.toNat n z = false → mapOk u x.troot.toNat va.toNat pa.toNat n z = false) ∧
    (∀ z s1 b, pageSizeOf size = some z → mapOk u x.troot.toNat va.toNat pa.toNat n z = true → perm < 8 →
      mapRange x.troot.toNat z (perm.testBit 0) (perm.testBit 1) (perm.testBit 2) n va.toNat pa.toNat u tables = some (s1, b) →
      exec .mapPages s = .next (complete s1 tag ctx 0 []))) ∧
  (∀ s tag ctx va size z x u, s.event = .unmapPages tag ctx va 1 size → Serving s → getCtx s ctx = some x →
    pageSizeOf size = some z → Taken s 6 ctx tag [va.toNat, 1, size] u →
    ∃ t, exec .unmapPages s = .next (complete t tag ctx 0 []) ∧
      ∀ c, ∀ e ∈ (getCore t c).tlb, ¬(e.ctx = ctx ∧ e.page = va.toNat / e.size)) ∧
  (∀ s tag op ctx u, s.event = .unknownCommand tag op ctx → Serving s → (op = 0 ∨ 0x0A ≤ op) → Taken s op ctx tag [] u →
    exec .unknownCommand s = .next (complete u tag ctx 7 [])) ∧
  (∀ s tag u, MinimalMode s →
    (∀ ctx a n ps, s.event = .loadImage tag ctx a n ps → Taken s 1 ctx tag [a, n] u →
      exec .loadImage s = .next (complete u tag ctx 8 [])) ∧
    (∀ p q cfg ps, s.event = .createContext tag p q cfg ps → TakenAny s 2 tag [p.toNat, q.toNat, cfg.toNat] u →
      exec .createContext s = .next (complete u tag 0xFFFF 8 [])) ∧
    (∀ ctx, s.event = .endContext tag ctx → Taken s 3 ctx tag [] u → exec .endContext s = .next (complete u tag ctx 8 [])) ∧
    (∀ ctx a, s.event = .submitLaunch tag ctx a → Taken s 4 ctx tag [a] u →
      exec .submitLaunch s = .next (complete u tag ctx 8 [])) ∧
    (∀ ctx va pa n z perm ps, s.event = .mapPages tag ctx va pa n z perm ps →
      Taken s 5 ctx tag [va.toNat, pa.toNat, n, z, perm] u → exec .mapPages s = .next (complete u tag ctx 8 [])) ∧
    (∀ ctx va n z, s.event = .unmapPages tag ctx va n z → Taken s 6 ctx tag [va.toNat, n, z] u →
      exec .unmapPages s = .next (complete u tag ctx 8 [])) ∧
    (∀ k, s.event = .restartKernel tag k → TakenAny s 9 tag [k] u →
      exec .restartKernel s = .next (complete u tag 0xFFFF 8 [])) ∧
    (∀ op ctx, s.event = .unknownCommand tag op ctx → (op = 0 ∨ 0x0A ≤ op) → Taken s op ctx tag [] u →
      exec .unknownCommand s = .next (complete u tag ctx 8 []))) ∧
  (∀ s tag ctx st args, (complete s tag ctx st args).dev.starts = (if s.dev.stage = 2 ∧ s.dev.cleared = false then 0 else s.dev.starts))

/-- R426, R429, R431, R432: attestation writes its report to host memory; a kernel slot takes an image that passes R426 and no other;
a restart hands over and completes once the new kernel adopts, or after two seconds the old one, with status 9. -/
def Sys2Proof.Claims.KernelSlotsAndReports : Prop :=
  (∀ s tag nonce addr u, s.event = .attest tag nonce addr → (Serving s ∨ MinimalMode s) →
    TakenAny s 7 tag (nonceWords nonce ++ [addr]) u → addr + (reportBytes s.dev nonce).length ≤ 2 ^ 46 → nonce.length = 32 →
    ∃ t, exec .attest s = .next (complete t tag 0xFFFF 0 []) ∧ memBytes t.mem (hostBase + addr) 32 = nonce ∧
      memBytes t.mem (hostBase + addr) (reportBytes s.dev nonce).length = reportBytes s.dev nonce) ∧
  (∀ s tag slot addr len u, s.event = .writeKernelSlot tag slot addr len → (Serving s ∨ MinimalMode s) →
    TakenAny s 8 tag [slot, addr, len] u →
    (imageReason (memBytes s.mem (hostBase + addr) len) ≠ 0 → exec .writeKernelSlot s = .next (complete u tag 0xFFFF 6 [])) ∧
    (imageReason (memBytes s.mem (hostBase + addr) len) = 0 →
      (slot = 0 → exec .writeKernelSlot s = .next (complete
        { u with dev := { u.dev with slotA := memBytes s.mem (hostBase + addr) len } } tag 0xFFFF 0 [])) ∧
      (slot = 1 → exec .writeKernelSlot s = .next (complete
        { u with dev := { u.dev with slotB := memBytes s.mem (hostBase + addr) len } } tag 0xFFFF 0 [])))) ∧
  (∀ s tag slot u, s.event = .restartKernel tag slot → Serving s → TakenAny s 9 tag [slot] u →
    ∃ t, exec .restartKernel s = .next t ∧ t.dev.handover = some (slot, tag) ∧ t.dev.generation = s.dev.generation + 1 ∧
      memRead t.mem (urnBase + s.dev.htbase * 2 ^ 16) 4 = 0x31544856 ∧ memRead t.mem (urnBase + s.dev.htbase * 2 ^ 16 + 4) 2 = 1 ∧
      (∀ a, (a < urnBase + s.dev.htbase * 2 ^ 16 ∨ urnBase + s.dev.htbase * 2 ^ 16 + 128 ≤ a) → memByte t.mem a = memByte s.mem a) ∧
      (∀ i k, i < 16 → k < 32 → (getThread t (1088 + i) k).status = .free ∧ (getCore t (1088 + i)).halted = false)) ∧
  (∀ s tag slot, s.event = .restartKernel tag slot → s.dev.handover = some (slot, tag) → slot < 2 →
    imageReason (if slot = 0 then s.dev.slotA else s.dev.slotB) = 0 → tableOk s = true →
    ∃ t, exec .restartKernel s = .next t ∧ t.dev.handover = none ∧ t.dev.kslot = slot) ∧
  (∀ s slot tag, s.event = .handoverTimeout → s.dev.handover = some (slot, tag) → tableOk s = true →
    ∃ t, exec .handoverTimeout s = .next t ∧ t.dev.handover = none ∧ t.dev.kslot = s.dev.kslot)

namespace Sys2Proof.Claims
open Sys2Proof.Machine

/-! ### The machine as a whole -/

/-- An issue opportunity of a core in a class falls to a thread: s2 is the state in which its instruction is fetched, with the
threads that cannot issue settled as waiting, the choice noted, and the focus on it (R175, R380). -/
def IssueFalls (s : State) (c : Nat) (engine : Bool) (rest : List Turn) (t : Nat) (s2 : State) : Prop :=
  s.agenda = .issue c engine :: rest ∧ (getCore s c).killed = false ∧ (getCore s c).halted = false ∧
    ∃ s0 s1, s0 = { s with agenda := rest } ∧ s1 = settle s0 c engine ∧
      pickSlot (if engine then (getCore s c).lastEngine else (getCore s c).lastScalar) (readyList s0 c engine) = some t ∧
      s2 = { noteIssue s1 c engine (readyList s0 c engine) t with core := c, slot := t }

/-- Words of the spec's own encoding tables (R57, R65 to R82 and the examples of 05 to 29), with what they say. -/
def specWords : List (BitVec 32 × Instr) :=
  [(0x00618701, .add 6 6 7), (0x04513FFF, .addi 5 4 0x3FFF), (0x1C500002, .lih 5 2), (0x58614010, .ldI64 6 5 0x10),
   (0x6C614000, .stI64 6 5 0), (0x8030001C, .beq 3 0 28), (0x980FFFED, .jal 0 0xFFFED), (0x30508310, .fmaF64 5 2 3 4),
   (0x77FC3E02, .wait 15 15 1 15), (0xDC005018, .vmuls 0 0 5 0 .rne), (0xB0014601, .cpy 5 6), (0xB400C40D, .mma 3 4 .bf16),
   (0xA400C401, .tenq 3 4), (0xB800C020, .edge 3), (0xBC000501, .trap 5), (0xBC000002, .eret), (0xBC310503, .sysr 3 0x105),
   (0xBC410504, .sysw 4 0x105), (0xE0000000, .nop 0)]

/-- Words that are no instruction (R56). -/
def illegalWords : List (BitVec 32) := [0x00000000, 0x00618721, 0x3C618701, 0xFFFFFFFF]

end Sys2Proof.Claims

/-- R89, R380: one step takes the agenda's next turn. An issue fetches the chosen thread's word, decodes it and is `exec` of it, with
the fetch noted; a trap that is due is taken instead, at the fence that waits for the stopped command where one does (R297); a slot that loads suspends
the thread, which is then not ready; what is no instruction raises its trap; a turn of another agent is `exec` of its row with its subject; with nothing on the agenda a nanosecond passes. The agenda is the
model's own (log 1), and so are when a pending trap is due or held (log 83) and that a thread whose slot loads reads as waiting for a
register (log 84). -/
def Obligations.StepRunsTheDecodedInstruction : Prop :=
  (∀ s c e rest t s2 w i, IssueFalls s c e rest t s2 → pendingDue s2 (cur s2) = none → trapHeld s2 (cur s2) = false →
    standing s2 (cur s2) = false → fetchAt (getCore s2 c) (cur s2).pc = .word w → decodeWord w = .ok i → step s = exec i (noteFetch s2 c (cur s2).pc)) ∧
  (∀ s c e rest t s2 w x, IssueFalls s c e rest t s2 → pendingDue s2 (cur s2) = none → trapHeld s2 (cur s2) = false →
    standing s2 (cur s2) = false → fetchAt (getCore s2 c) (cur s2).pc = .word w → decodeWord w = .error x →
    step s = exec .illegalInstruction { noteFetch s2 c (cur s2).pc with event := .illegalInstruction w }) ∧
  (∀ s c e rest t s2, IssueFalls s c e rest t s2 → pendingDue s2 (cur s2) = none → trapHeld s2 (cur s2) = false →
    standing s2 (cur s2) = false → (fetchAt (getCore s2 c) (cur s2).pc = .miss ∨ fetchAt (getCore s2 c) (cur s2).pc = .invalid) →
    step s = exec .overlayMiss { s2 with event := .overlayMiss }) ∧
  (∀ s c t s1, s1 = { s with core := c, slot := t } → inClass s c false t = true → pendingDue s1 (cur s1) = none →
    trapHeld s1 (cur s1) = false → standing s1 (cur s1) = false → fetchAt (getCore s c) (cur s1).pc = .wait →
    readyIn s c false t = false ∧ (getThread (settleSlot c false s t) c t).status = .waitReg) ∧
  (∀ s c e rest s0, s.agenda = .issue c e :: rest → s0 = { s with agenda := rest } → (getCore s c).killed = false →
    (getCore s c).halted = false → readyList s0 c e = [] → step s = .next (settle s0 c e)) ∧
  (∀ s c e rest s0, s.agenda = .issue c e :: rest → s0 = { s with agenda := rest } → (getCore s c).killed = false →
    (getCore s c).halted = false →
    pickSlot (if e then (getCore s c).lastEngine else (getCore s c).lastScalar) (readyList s0 c e) = none →
    step s = .next (noteUnused (settle s0 c e) c (readyList s0 c e))) ∧
  (∀ s c e rest t s2 p, IssueFalls s c e rest t s2 → pendingDue s2 (cur s2) = some p →
    step s = .next (takeTrap (putThread s2 c t (popTrap (cur s2))) c t p.cause p.detail (p.fen.getD (cur s2).pc)
      (p.fen.getD (cur s2).pc))) ∧
  (∀ s i e rest, s.agenda = .event i e :: rest → step s = exec i { s with agenda := rest, event := e }) ∧
  (∀ s, s.agenda = [] → step s = .next (passTime s 1)) ∧
  (∀ co (pc : CodeAddr), co.im0.state = .valid → co.im0.overlay = pc.toNat / 2 ^ 16 →
    fetchAt co pc = .word (BitVec.ofNat 32 (leValue ((List.range 4).map (fun i => mapGet 0 co.im0.bytes (pc.toNat % 2 ^ 16 + i))))))

/-- R56, R57, R65 to R82: the words of the spec's encoding tables decode to what the tables say, and words of no instruction to
none. -/
def Obligations.SpecWordsDecode : Prop :=
  (∀ p ∈ specWords, decodeWord p.1 = .ok p.2) ∧ (∀ w ∈ illegalWords, ∃ x, decodeWord w = .error x)

/-- R48 to R82: decoding the word of a well-formed instruction gives the instruction back, with every operand. -/
def Sys2Proof.Claims.DecodeOfEncode : Prop := ∀ i : Instr, i.wf = true → decodeWord (encode i) = .ok i

/-- R56, R72, R75, R78, R80, R121, R204: what decodes is well-formed. -/
def Sys2Proof.Claims.DecodedIsWellFormed : Prop := ∀ w i, decodeWord w = .ok i → Instr.wf i = true

/-- Log 4, R255, R405: memory, the list of empty words and the list of marked words keep their one canonical form through every
step. -/
def Obligations.StorageStaysCanonical : Prop :=
  ∀ s t, State.storageWf s = true → step s = .next t → State.storageWf t = true

/-- Log 4: the storage of the machine after reset has that form. -/
def Obligations.ResetStorageIsCanonical : Prop := State.storageWf State.reset = true

/-- R89, R302, R436 to R441: what the spec gives the machine at reset: instruction memory empty, accumulators clear with every row
full, the boot stage and reason 0, the clock at 1,750 MHz with a limit of 1,700 W, the error window 10 s, every count zero and every
port down. The last clause is the model's choice: every byte of memory reads 0 (log 4). -/
def Obligations.ResetValues : Prop :=
  (∀ c, (getCore State.reset c).im0.state = .empty ∧ (getCore State.reset c).im1.state = .empty ∧
    (getCore State.reset c).acc = [] ∧ (getCore State.reset c).accKind = [] ∧ (getCore State.reset c).rowEmpty = 0 ∧
    (getCore State.reset c).rowPend = 0) ∧
  (∀ c t, (getThread State.reset c t).status = .free) ∧
  State.reset.dev.stage = 0 ∧ State.reset.dev.reason = 0 ∧ State.reset.dev.mhz = 1750 ∧ State.reset.dev.limit = 1700 ∧
  State.reset.dev.errwin = 10 ∧ (∀ sel, errCount State.reset sel = 0) ∧
  (∀ p, linkWord (mapGet Link.init State.reset.dev.links p) = 0) ∧
  (∀ a, memByte State.reset.mem a = 0)

namespace Sys2Proof.Claims
open Sys2Proof.Machine

/-! ### The forms that the statements above name by a table -/

/-- No flag of floating point is enabled to trap (R112). -/
def NoFpTraps (s : State) : Prop := (curCfg s).extractLsb' 2 5 = 0

/-- The instruction completes: its thread goes on at this address, and no byte of memory has changed. -/
def Completes (i : Instr) (s : State) (pc : CodeAddr) : Prop :=
  ∃ t, exec i s = .next t ∧ (cur t).pc = pc ∧ (cur t).status = .ready ∧ ∀ a, memByte t.mem a = memByte s.mem a

/-- The same of one that changes its own thread alone. -/
def CompletesAlone (i : Instr) (s : State) : Prop :=
  ∃ t, exec i s = .next t ∧ t = setCur s (cur t) ∧ (cur t).pc = pcNext (cur s).pc ∧ (cur t).status = .ready ∧ OthersKept s t

end Sys2Proof.Claims

/-- R126, R131, R138, R142, R144, R147, R157, R218, R226, R309, R357: the forms that the statements above name by a table complete, each under
conditions on the state and the operands alone. Scalar floating point: fadd, fsub, fmul, frcps, frsqs, fmin, fmax, fsgnj, fsgnjn,
fsgnjx, feq, flt, fle, fmaF64, fmsF64, fmaF32, fmsF32. Divisions and branches: div, divz, rem, remz, beq, bne, blt, bge, bltz, bgez.
Loads and stores: ldI8, ldZ8, ldI16, ldZ16, ldI32, ldZ32, ldI64, stI8, stI16, stI32, stI64. Tiles: vaddInt, vsubInt, vmulInt, vmulh,
vqadd, vqsub, vminInt, vmaxInt, vavg, vshl, vshr, vsar, vclmul, vabsInt, vnegInt, vaddFp, vsubFp, vmulFp, vdiv, vminFp, vmaxFp, vrcps,
vrsqs, vand, vor, vxor, vandn, vceq, vclt, vcle, vexp2, vlog2, vrcp, vrsq, vadds, vsubs, vmuls, vmins, vmaxs, vscan, vrsum, vrmin,
vrmax. Keyed sends and their tables: ksendB0, ksendB1, ksendB2, ksendB3, rxaB0, rxaB1, rxaB2, rxaB3; their steps at the target, ksendBinStep (R358) and rxaConfigTake (R355). Matrix commands: mma, mmasS24,
mmasS48, mbs, mss. -/
def Obligations.EveryTabledFormCompletes : Prop :=
  (∀ s d a b rf fm x y th, Ready s [a, b] d [x, y] th → NoFpTraps s →
    ∀ i ∈ ([.fadd d a b rf fm, .fsub d a b rf fm, .fmul d a b rf fm, .frcps d a b rf fm, .frsqs d a b rf fm, .fmin d a b fm,
        .fmax d a b fm, .fsgnj d a b fm, .fsgnjn d a b fm, .fsgnjx d a b fm, .feq d a b fm, .flt d a b fm,
        .fle d a b fm] : List Instr), Completes i s (pcNext th.pc)) ∧
  (∀ s d a b c x y z th, Ready s [a, b, c] d [x, y, z] th → NoFpTraps s →
    ∀ i ∈ ([.fmaF64 d a b c, .fmsF64 d a b c, .fmaF32 d a b c, .fmsF32 d a b c] : List Instr), Completes i s (pcNext th.pc)) ∧
  (∀ s d a b x y th, Ready s [a, b] d [x, y] th →
    ∀ i ∈ ([.div d a b, .divz d a b, .rem d a b, .remz d a b] : List Instr), Completes i s (pcNext th.pc)) ∧
  (∀ s a b (off : BitVec 14) x y th, ReadyFor s [a, b] [x, y] th →
    ∀ p ∈ ([(.beq a b off, decide (x = y)), (.bne a b off, decide (x ≠ y)), (.blt a b off, decide (x.toInt < y.toInt)),
        (.bge a b off, decide (y.toInt ≤ x.toInt)), (.bltz a b off, decide (x.toNat < y.toNat)),
        (.bgez a b off, decide (y.toNat ≤ x.toNat))] : List (Instr × Bool)),
      Completes p.1 s (if p.2 then (cur s).pc.extractLsb' 16 16 ++ ((cur s).pc.extractLsb' 0 16 + 4 * off.signExtend 16)
        else pcNext th.pc)) ∧
  (∀ s d a (j : BitVec 14) x th l s1, Ready s [a] d [x] th →
    ∀ p ∈ ([(.ldI8 d a j, 1), (.ldZ8 d a j, 1), (.ldI16 d a j, 2), (.ldZ16 d a j, 2), (.ldI32 d a j, 4), (.ldZ32 d a j, 4),
        (.ldI64 d a j, 8)] : List (Instr × Nat)),
      LoadGoes s th (x + j.signExtend 64) p.2 l s1 → Completes p.1 s (pcNext th.pc)) ∧
  (∀ s b a (j : BitVec 14) v x th l s1, ReadyFor s [b, a] [v, x] th →
    ∀ p ∈ ([(.stI8 b a j, 1), (.stI16 b a j, 2), (.stI32 b a j, 4), (.stI64 b a j, 8)] : List (Instr × Nat)),
      StoreGoes s th (x + j.signExtend 64) p.2 l s1 → Completes p.1 s (pcNext th.pc)) ∧
  (∀ s td ta tb sh mask, TileReady s sh .ints [ta, tb] [td] mask [] →
    ∀ i ∈ ([.vaddInt td ta tb sh mask, .vsubInt td ta tb sh mask, .vmulInt td ta tb sh mask, .vmulh td ta tb sh mask,
        .vqadd td ta tb sh mask, .vqsub td ta tb sh mask, .vminInt td ta tb sh mask, .vmaxInt td ta tb sh mask,
        .vavg td ta tb sh mask, .vshl td ta tb sh mask, .vshr td ta tb sh mask, .vsar td ta tb sh mask,
        .vclmul td ta tb sh mask] : List Instr), CompletesAlone i s) ∧
  (∀ s td ta sh mask, TileReady s sh .ints [ta] [td] mask [] →
    ∀ i ∈ ([.vabsInt td ta sh mask, .vnegInt td ta sh mask] : List Instr), CompletesAlone i s) ∧
  (∀ s td ta tb sh mask rf, TileReady s sh .floats [ta, tb] [td] mask [] → NoFpTraps s →
    ∀ i ∈ ([.vaddFp td ta tb sh mask rf, .vsubFp td ta tb sh mask rf, .vmulFp td ta tb sh mask rf, .vdiv td ta tb sh mask rf,
        .vminFp td ta tb sh mask rf, .vmaxFp td ta tb sh mask rf, .vrcps td ta tb sh mask rf,
        .vrsqs td ta tb sh mask rf] : List Instr), CompletesAlone i s) ∧
  (∀ s td ta tb sh mask, TileReady s sh .any [ta, tb] [td] mask [] →
    ∀ i ∈ ([.vand td ta tb sh mask, .vor td ta tb sh mask, .vxor td ta tb sh mask, .vandn td ta tb sh mask] : List Instr),
      CompletesAlone i s) ∧
  (∀ s td ta tb sh mask, TileReady s sh .both [ta, tb] [td] mask [] → NoFpTraps s →
    ∀ i ∈ ([.vceq td ta tb sh mask, .vclt td ta tb sh mask, .vcle td ta tb sh mask] : List Instr), CompletesAlone i s) ∧
  (∀ s td ta sh mask rf, (rf = .rne ∨ rf = .fz ∨ rf = .nf) → NoFpTraps s →
    (TileReady s sh .special [ta] [td] mask [] →
      ∀ i ∈ ([.vexp2 td ta sh mask rf, .vlog2 td ta sh mask rf] : List Instr), CompletesAlone i s) ∧
    (TileReady s sh .floats [ta] [td] mask [] →
      ∀ i ∈ ([.vrcp td ta sh mask rf, .vrsq td ta sh mask rf] : List Instr), CompletesAlone i s)) ∧
  (∀ s td ta b sh rf x th, TileReady s sh .both [ta] [td] 0 [b] → ((shapeFmt (cur s) sh).isInt = true → rf = .rne) →
    tileSources s sh [b] = .ok ([x], th) → NoFpTraps s →
    ∀ i ∈ ([.vadds td ta b sh rf, .vsubs td ta b sh rf, .vmuls td ta b sh rf, .vmins td ta b sh rf,
        .vmaxs td ta b sh rf] : List Instr), CompletesAlone i s) ∧
  (∀ s td ta sh mask, TileReady s sh .both [ta] [td] mask [] → NoFpTraps s →
    ∀ i ∈ ([.vscan td ta sh mask, .vrsum td ta sh mask, .vrmin td ta sh mask, .vrmax td ta sh mask] : List Instr),
      CompletesAlone i s) ∧
  (∀ s a b k v th, ReadyFor s [a, b] [k, v] th → isHeld s (cur s) 3 = false → specTask s (cur s) = none → th.cntS < 15 →
    ∀ i ∈ ([.ksendB0 a b, .ksendB1 a b, .ksendB2 a b, .ksendB3 a b] : List Instr), Completes i s (pcNext th.pc)) ∧
  (∀ s a va th d s1 b, ReadyFor s [a] [va] th → isHeld s (cur s) 0 = false → va.toNat % 8 = 0 → specTask s (cur s) = none →
    descWords (setCur s th) va 0x06 4 = .ok (d, s1) → binTableOf (cur s).ctx d = some b →
    inAllocation (getCore s s.core) (cur s).ctx b.base (8 * b.nbins + 8) = true → th.cntS < 15 →
    ∀ i ∈ ([.rxaB0 a, .rxaB1 a, .rxaB2 a, .rxaB3 a] : List Instr), Completes i s (pcNext (cur s1).pc)) ∧
  (∀ s req r table times level index, s.event = .ksendBinStep req none → getRequest s req = some r →
    r.kind = .ksend table times level index → sendSealed s r level index = false → mayPerform s r = true →
    ∃ t, exec .ksendBinStep s = .next t ∧ t = lowerS (dropRequest (performSend s r table times level index r.b) req) r ∧
      getRequest t req = none) ∧
  (∀ s req c r table b cores, s.event = .rxaConfigTake req c → getRequest s req = some r → r.kind = .rxa table b cores →
    c ∈ cores → (getCore s c).killed = false →
    ∃ t, exec .rxaConfigTake s = .next t ∧ mapFind (getCore t c).bins table = some b) ∧
  (∀ s a b (fmt : ProductFmt) x y th k1 s1 k2 s2, MatrixReady s [a, b] [x, y] th →
    ∀ p ∈ ([(.mma a b fmt, .mma), (.mmasS24 a b fmt, .s24), (.mmasS48 a b fmt, .s48), (.mbs a b fmt, .mbs),
        (.mss a b fmt, .mss)] : List (Instr × MatOp)),
      matChecks s (newCmd s th p.2 fmt.code.toNat x y) = .ok (k1, s1) → sparseChecks s1 k1 = .ok (k2, s2) →
      (getCore s2 s2.core).mq.length + (getCore s2 s2.core).drains.length < 8 →
      ∃ t, exec p.1 s = .next t ∧ cur t = acceptedThread { cur s2 with ports := th.ports })

/-! ### The statements that join several of the claims above -/

/-- Integer instructions write the values of R131 to R136 and retire: BinaryIntegerResults, UnaryAndImmediateResults. -/
def Obligations.IntegerResults : Prop := Sys2Proof.Claims.BinaryIntegerResults ∧ Sys2Proof.Claims.UnaryAndImmediateResults

/-- How operands are read: plain ones, empty, poisoned, indeterminate and illegal ones; what a destination may be:
PlainOperandsAreReady, OperandsThatStopAnInstruction, DestinationForms. -/
def Obligations.OperandForms : Prop := Sys2Proof.Claims.PlainOperandsAreReady ∧ Sys2Proof.Claims.OperandsThatStopAnInstruction ∧ Sys2Proof.Claims.DestinationForms

/-- Branches and jumps choose their target; jalr checks its own: BranchesChooseTheirTarget, JumpsLinkAndGo. -/
def Obligations.ControlFlow : Prop := Sys2Proof.Claims.BranchesChooseTheirTarget ∧ Sys2Proof.Claims.JumpsLinkAndGo

/-- Divisions and slow floating-point results empty d and arrive later: DivisionResultsComeLater, SlowFloatResultsComeLater. -/
def Obligations.SlowResultsComeLater : Prop := Sys2Proof.Claims.DivisionResultsComeLater ∧ Sys2Proof.Claims.SlowFloatResultsComeLater

/-- Scalar floating-point results, bits and conversions, and the canonical NaN: ScalarFloatResults, FloatBitsAndIntegers,
NanOperandsGiveTheCanonicalNan. -/
def Obligations.FloatResults : Prop := Sys2Proof.Claims.ScalarFloatResults ∧ Sys2Proof.Claims.FloatBitsAndIntegers ∧ Sys2Proof.Claims.NanOperandsGiveTheCanonicalNan

/-- Loads, stores and mapped register accesses issue once their address is checked: LoadsIssue, StoresIssue,
MappedRegisterAccess. -/
def Obligations.MemoryAccessesIssue : Prop := Sys2Proof.Claims.LoadsIssue ∧ Sys2Proof.Claims.StoresIssue ∧ Sys2Proof.Claims.MappedRegisterAccess

/-- Full/empty loads and stores, atomics and reductions issue to their homes: FullEmptyLoadsIssue,
FullEmptyStoresAndAtomicsIssue. -/
def Obligations.FullEmptyAccessesIssue : Prop := Sys2Proof.Claims.FullEmptyLoadsIssue ∧ Sys2Proof.Claims.FullEmptyStoresAndAtomicsIssue

/-- A result reaches its register and lowers L; fstat answers the state of its word: LoadResultsArrive,
FstatAnswersTheWordsState. -/
def Obligations.ResultsArrive : Prop := Sys2Proof.Claims.LoadResultsArrive ∧ Sys2Proof.Claims.FstatAnswersTheWordsState

/-- Stores write their bytes only; atomics are one indivisible step at their home: StoresWriteTheirBytesOnly, AtomicsAtHome,
FloatAtomicsAtHome. -/
def Obligations.WritesAndAtomicsAtHome : Prop := Sys2Proof.Claims.StoresWriteTheirBytesOnly ∧ Sys2Proof.Claims.AtomicsAtHome ∧ Sys2Proof.Claims.FloatAtomicsAtHome

/-- Full/empty accesses at their home, one fill serves one waiting lde, bounced requests go again: FullEmptyAccessesAtHome,
FabricLoadsAreTakenOrRefused, OneFillServesOneWaitingLde, BouncedRequestsAreSentAgain. -/
def Obligations.FullEmptyAtHome : Prop := Sys2Proof.Claims.FullEmptyAccessesAtHome ∧ Sys2Proof.Claims.FabricLoadsAreTakenOrRefused ∧ Sys2Proof.Claims.OneFillServesOneWaitingLde ∧ Sys2Proof.Claims.BouncedRequestsAreSentAgain

/-- bar and its arrivals, fences and waits: BarSendsItsArrival, BarrierArrivals, FencesAndWaits. -/
def Obligations.BarriersFencesAndWaits : Prop := Sys2Proof.Claims.BarSendsItsArrival ∧ Sys2Proof.Claims.BarrierArrivals ∧ Sys2Proof.Claims.FencesAndWaits

/-- Tile integer and tile-with-scalar results, element by element: TileIntegerResults, TileScalarResults. -/
def Obligations.TileIntegerResults : Prop := Sys2Proof.Claims.TileIntegerResults ∧ Sys2Proof.Claims.TileScalarResults

/-- Tile bit operations, compares and masks: TileBitResults, TileMaskResults. -/
def Obligations.TileBitsAndMasks : Prop := Sys2Proof.Claims.TileBitResults ∧ Sys2Proof.Claims.TileMaskResults

/-- Shapes are granted; tile registers are cleared and filled: ShapesAreGranted, ClearAndRandomFill. -/
def Obligations.ShapesAndFills : Prop := Sys2Proof.Claims.ShapesAreGranted ∧ Sys2Proof.Claims.ClearAndRandomFill

/-- Tile movement, scans and reductions: TileMovement, ScanAndReductions. -/
def Obligations.TileMovementAndScans : Prop := Sys2Proof.Claims.TileMovement ∧ Sys2Proof.Claims.ScanAndReductions

/-- crt records a family; the member count is the number of indices before the limit: CrtRecordsAFamily,
MemberCountsAreTheIndicesBeforeTheLimit. -/
def Obligations.FamiliesAreCreated : Prop := Sys2Proof.Claims.CrtRecordsAFamily ∧ Sys2Proof.Claims.MemberCountsAreTheIndicesBeforeTheLimit

/-- fput sends a value to the family, fget reads one: FputSendsToTheHome, FgetReadsTheFamily. -/
def Obligations.FamilyValuesAreSentAndRead : Prop := Sys2Proof.Claims.FputSendsToTheHome ∧ Sys2Proof.Claims.FgetReadsTheFamily

/-- exit, brk, yield and qry: ThreadsEnd, YieldAndQry. -/
def Obligations.ThreadsEndOrStepAside : Prop := Sys2Proof.Claims.ThreadsEnd ∧ Sys2Proof.Claims.YieldAndQry

/-- Task instructions; tasks are accepted, run, abort and commit in key order: TaskInstructions, TasksRunInKeyOrder. -/
def Obligations.TasksRunInKeyOrder : Prop := Sys2Proof.Claims.TaskInstructions ∧ Sys2Proof.Claims.TasksRunInKeyOrder

/-- Copy and chain commands issue, move their elements, complete and stop: CopiesIssue, CopiesRun. -/
def Obligations.CopiesIssueAndRun : Prop := Sys2Proof.Claims.CopiesIssue ∧ Sys2Proof.Claims.CopiesRun

/-- Matrix commands are checked and queued, or travel to their core: MatrixCommandsAreQueued, MatrixCommandsTravel. -/
def Obligations.MatrixCommandsQueueAndTravel : Prop := Sys2Proof.Claims.MatrixCommandsAreQueued ∧ Sys2Proof.Claims.MatrixCommandsTravel

/-- Matrix rows are computed, committed, drained and handled; commands complete or stop: MatrixRowsAdvance, MatrixRowSums,
MatrixCommandsEnd. -/
def Obligations.MatrixRowsAdvanceAndEnd : Prop := Sys2Proof.Claims.MatrixRowsAdvance ∧ Sys2Proof.Claims.MatrixRowSums ∧ Sys2Proof.Claims.MatrixCommandsEnd

/-- Edge runs are accepted, run their rounds and stop: EdgeRunsAreAccepted, EdgeRunsGoOn. -/
def Obligations.EdgeRunsGoOn : Prop := Sys2Proof.Claims.EdgeRunsAreAccepted ∧ Sys2Proof.Claims.EdgeRunsGoOn

/-- Taking a trap: what it saves, what it changes and what not; trap, illegal words and failed fetches: TrapsHoldTheThread,
TrapInstructionAndBadFetches. -/
def Obligations.TrapsHoldTheThread : Prop := Sys2Proof.Claims.TrapsHoldTheThread ∧ Sys2Proof.Claims.TrapInstructionAndBadFetches

/-- A delivery starts the handler in slot 31; eret resumes or ends the held thread: HandlersStart, HandlersReturn. -/
def Obligations.HandlersStartAndReturn : Prop := Sys2Proof.Claims.HandlersStart ∧ Sys2Proof.Claims.HandlersReturn

/-- What sysw writes, as an instruction and as the steps of their own: SystemRegistersWritten, WritesAsStepsOfTheirOwn. -/
def Obligations.SystemRegistersWritten : Prop := Sys2Proof.Claims.SystemRegistersWritten ∧ Sys2Proof.Claims.WritesAsStepsOfTheirOwn

/-- The instructions of kernel mode: their effect there, 0x06 elsewhere; ctxs and ctxr: KernelInstructions,
ContextsStopAndGoOn. -/
def Obligations.KernelInstructions : Prop := Sys2Proof.Claims.KernelInstructions ∧ Sys2Proof.Claims.ContextsStopAndGoOn

/-- Launches start on their cores and end with their status; gangs; a lost context: LaunchesStart, LaunchesEnd. -/
def Obligations.LaunchesStartAndEnd : Prop := Sys2Proof.Claims.LaunchesStart ∧ Sys2Proof.Claims.LaunchesEnd

/-- Checkers react, errors are counted and contained: CheckersReact, ErrorsAreCounted. -/
def Obligations.ErrorsAreCountedAndContained : Prop := Sys2Proof.Claims.CheckersReact ∧ Sys2Proof.Claims.ErrorsAreCounted

/-- A killed core holds nothing; messages that meet a sealed core are answered: KilledCoresHoldNothing, SealedCoresAnswer. -/
def Obligations.KilledAndSealedCores : Prop := Sys2Proof.Claims.KilledCoresHoldNothing ∧ Sys2Proof.Claims.SealedCoresAnswer

/-- Ports keep their rung; time base, arithmetic clock and management commands: PortsKeepTheirRung, TimePowerAndManagement. -/
def Obligations.PortsTimeAndManagement : Prop := Sys2Proof.Claims.PortsKeepTheirRung ∧ Sys2Proof.Claims.TimePowerAndManagement

/-- The commands of the message port, attestation and the kernel slots: CommandsComplete, KernelSlotsAndReports. -/
def Obligations.CommandsComplete : Prop := Sys2Proof.Claims.CommandsComplete ∧ Sys2Proof.Claims.KernelSlotsAndReports

/-- Decoding the word of a well-formed instruction gives it back; what decodes is well-formed: DecodeOfEncode,
DecodedIsWellFormed. -/
def Obligations.DecodeAndEncodeAgree : Prop := Sys2Proof.Claims.DecodeOfEncode ∧ Sys2Proof.Claims.DecodedIsWellFormed
end

