-- ==== Sys2Proof/Laws/Fields.lean ====
section
/-! SUPPORT. The fields of the words the encoder packs (R48): each field of a packed word is the operand put there. -/
namespace Sys2Proof

theorem low_append {m n l k : Nat} (x : BitVec m) (y : BitVec n) (h : l + k ≤ n) :
    (x ++ y).extractLsb' l k = y.extractLsb' l k := by
  apply BitVec.eq_of_getLsbD_eq
  intro i hi
  simp only [BitVec.getLsbD_extractLsb', BitVec.getLsbD_append, show l + i < n by omega, if_true, hi]

theorem high_append {m n l k : Nat} (x : BitVec m) (y : BitVec n) (h : n ≤ l) :
    (x ++ y).extractLsb' l k = x.extractLsb' (l - n) k := by
  apply BitVec.eq_of_getLsbD_eq
  intro i hi
  simp only [BitVec.getLsbD_extractLsb', BitVec.getLsbD_append, show ¬(l + i < n) by omega, if_false, hi,
    show l + i - n = l - n + i by omega]

@[simp] theorem fld_packR_major (maj : BitVec 6) (d : BitVec 6) (a : BitVec 6) (b : BitVec 6) (fn : BitVec 8) :
    fld (packR maj d a b fn) 26 6 = maj := by
  simp only [fld, packR]
  rw [high_append _ _ (by decide), high_append _ _ (by decide), high_append _ _ (by decide), high_append _ _ (by decide), BitVec.extractLsb'_eq_self]

@[simp] theorem fld_packR_d (maj : BitVec 6) (d : BitVec 6) (a : BitVec 6) (b : BitVec 6) (fn : BitVec 8) :
    fld (packR maj d a b fn) 20 6 = d := by
  simp only [fld, packR]
  rw [high_append _ _ (by decide), high_append _ _ (by decide), high_append _ _ (by decide), low_append _ _ (by decide), BitVec.extractLsb'_eq_self]

@[simp] theorem fld_packR_a (maj : BitVec 6) (d : BitVec 6) (a : BitVec 6) (b : BitVec 6) (fn : BitVec 8) :
    fld (packR maj d a b fn) 14 6 = a := by
  simp only [fld, packR]
  rw [high_append _ _ (by decide), high_append _ _ (by decide), low_append _ _ (by decide), BitVec.extractLsb'_eq_self]

@[simp] theorem fld_packR_b (maj : BitVec 6) (d : BitVec 6) (a : BitVec 6) (b : BitVec 6) (fn : BitVec 8) :
    fld (packR maj d a b fn) 8 6 = b := by
  simp only [fld, packR]
  rw [high_append _ _ (by decide), low_append _ _ (by decide), BitVec.extractLsb'_eq_self]

@[simp] theorem fld_packR_fn (maj : BitVec 6) (d : BitVec 6) (a : BitVec 6) (b : BitVec 6) (fn : BitVec 8) :
    fld (packR maj d a b fn) 0 8 = fn := by
  simp only [fld, packR]
  rw [low_append _ _ (by decide), BitVec.extractLsb'_eq_self]

@[simp] theorem fld_packI_major (maj : BitVec 6) (d : BitVec 6) (a : BitVec 6) (imm : BitVec 14) :
    fld (packI maj d a imm) 26 6 = maj := by
  simp only [fld, packI]
  rw [high_append _ _ (by decide), high_append _ _ (by decide), high_append _ _ (by decide), BitVec.extractLsb'_eq_self]

@[simp] theorem fld_packI_d (maj : BitVec 6) (d : BitVec 6) (a : BitVec 6) (imm : BitVec 14) :
    fld (packI maj d a imm) 20 6 = d := by
  simp only [fld, packI]
  rw [high_append _ _ (by decide), high_append _ _ (by decide), low_append _ _ (by decide), BitVec.extractLsb'_eq_self]

@[simp] theorem fld_packI_a (maj : BitVec 6) (d : BitVec 6) (a : BitVec 6) (imm : BitVec 14) :
    fld (packI maj d a imm) 14 6 = a := by
  simp only [fld, packI]
  rw [high_append _ _ (by decide), low_append _ _ (by decide), BitVec.extractLsb'_eq_self]

@[simp] theorem fld_packI_imm (maj : BitVec 6) (d : BitVec 6) (a : BitVec 6) (imm : BitVec 14) :
    fld (packI maj d a imm) 0 14 = imm := by
  simp only [fld, packI]
  rw [low_append _ _ (by decide), BitVec.extractLsb'_eq_self]

@[simp] theorem fld_packL_major (maj : BitVec 6) (d : BitVec 6) (imm : BitVec 20) :
    fld (packL maj d imm) 26 6 = maj := by
  simp only [fld, packL]
  rw [high_append _ _ (by decide), high_append _ _ (by decide), BitVec.extractLsb'_eq_self]

@[simp] theorem fld_packL_d (maj : BitVec 6) (d : BitVec 6) (imm : BitVec 20) :
    fld (packL maj d imm) 20 6 = d := by
  simp only [fld, packL]
  rw [high_append _ _ (by decide), low_append _ _ (by decide), BitVec.extractLsb'_eq_self]

@[simp] theorem fld_packL_imm (maj : BitVec 6) (d : BitVec 6) (imm : BitVec 20) :
    fld (packL maj d imm) 0 20 = imm := by
  simp only [fld, packL]
  rw [low_append _ _ (by decide), BitVec.extractLsb'_eq_self]

@[simp] theorem fld_packJ_major (maj : BitVec 6) (off : BitVec 26) :
    fld (packJ maj off) 26 6 = maj := by
  simp only [fld, packJ]
  rw [high_append _ _ (by decide), BitVec.extractLsb'_eq_self]

@[simp] theorem fld_packJ_off (maj : BitVec 6) (off : BitVec 26) :
    fld (packJ maj off) 0 26 = off := by
  simp only [fld, packJ]
  rw [low_append _ _ (by decide), BitVec.extractLsb'_eq_self]

@[simp] theorem fld_packF_major (d : BitVec 6) (a : BitVec 6) (b : BitVec 6) (c : BitVec 6) (op : BitVec 2) :
    fld (packF d a b c op) 26 6 = 0x0C := by
  simp only [fld, packF]
  rw [high_append _ _ (by decide), high_append _ _ (by decide), high_append _ _ (by decide), high_append _ _ (by decide), high_append _ _ (by decide), BitVec.extractLsb'_eq_self]

@[simp] theorem fld_packF_d (d : BitVec 6) (a : BitVec 6) (b : BitVec 6) (c : BitVec 6) (op : BitVec 2) :
    fld (packF d a b c op) 20 6 = d := by
  simp only [fld, packF]
  rw [high_append _ _ (by decide), high_append _ _ (by decide), high_append _ _ (by decide), high_append _ _ (by decide), low_append _ _ (by decide), BitVec.extractLsb'_eq_self]

@[simp] theorem fld_packF_a (d : BitVec 6) (a : BitVec 6) (b : BitVec 6) (c : BitVec 6) (op : BitVec 2) :
    fld (packF d a b c op) 14 6 = a := by
  simp only [fld, packF]
  rw [high_append _ _ (by decide), high_append _ _ (by decide), high_append _ _ (by decide), low_append _ _ (by decide), BitVec.extractLsb'_eq_self]

@[simp] theorem fld_packF_b (d : BitVec 6) (a : BitVec 6) (b : BitVec 6) (c : BitVec 6) (op : BitVec 2) :
    fld (packF d a b c op) 8 6 = b := by
  simp only [fld, packF]
  rw [high_append _ _ (by decide), high_append _ _ (by decide), low_append _ _ (by decide), BitVec.extractLsb'_eq_self]

@[simp] theorem fld_packF_c (d : BitVec 6) (a : BitVec 6) (b : BitVec 6) (c : BitVec 6) (op : BitVec 2) :
    fld (packF d a b c op) 2 6 = c := by
  simp only [fld, packF]
  rw [high_append _ _ (by decide), low_append _ _ (by decide), BitVec.extractLsb'_eq_self]

@[simp] theorem fld_packF_op (d : BitVec 6) (a : BitVec 6) (b : BitVec 6) (c : BitVec 6) (op : BitVec 2) :
    fld (packF d a b c op) 0 2 = op := by
  simp only [fld, packF]
  rw [low_append _ _ (by decide), BitVec.extractLsb'_eq_self]

@[simp] theorem fld_packT_major (maj : BitVec 6) (td : BitVec 4) (ta : BitVec 4) (tb : BitVec 4) (sh : BitVec 2) (mask : BitVec 4) (fn : BitVec 8) :
    fld (packT maj td ta tb sh mask fn) 26 6 = maj := by
  simp only [fld, packT]
  rw [high_append _ _ (by decide), high_append _ _ (by decide), high_append _ _ (by decide), high_append _ _ (by decide), high_append _ _ (by decide), high_append _ _ (by decide), BitVec.extractLsb'_eq_self]

@[simp] theorem fld_packT_td (maj : BitVec 6) (td : BitVec 4) (ta : BitVec 4) (tb : BitVec 4) (sh : BitVec 2) (mask : BitVec 4) (fn : BitVec 8) :
    fld (packT maj td ta tb sh mask fn) 22 4 = td := by
  simp only [fld, packT]
  rw [high_append _ _ (by decide), high_append _ _ (by decide), high_append _ _ (by decide), high_append _ _ (by decide), high_append _ _ (by decide), low_append _ _ (by decide), BitVec.extractLsb'_eq_self]

@[simp] theorem fld_packT_ta (maj : BitVec 6) (td : BitVec 4) (ta : BitVec 4) (tb : BitVec 4) (sh : BitVec 2) (mask : BitVec 4) (fn : BitVec 8) :
    fld (packT maj td ta tb sh mask fn) 18 4 = ta := by
  simp only [fld, packT]
  rw [high_append _ _ (by decide), high_append _ _ (by decide), high_append _ _ (by decide), high_append _ _ (by decide), low_append _ _ (by decide), BitVec.extractLsb'_eq_self]

@[simp] theorem fld_packT_tb (maj : BitVec 6) (td : BitVec 4) (ta : BitVec 4) (tb : BitVec 4) (sh : BitVec 2) (mask : BitVec 4) (fn : BitVec 8) :
    fld (packT maj td ta tb sh mask fn) 14 4 = tb := by
  simp only [fld, packT]
  rw [high_append _ _ (by decide), high_append _ _ (by decide), high_append _ _ (by decide), low_append _ _ (by decide), BitVec.extractLsb'_eq_self]

@[simp] theorem fld_packT_sh (maj : BitVec 6) (td : BitVec 4) (ta : BitVec 4) (tb : BitVec 4) (sh : BitVec 2) (mask : BitVec 4) (fn : BitVec 8) :
    fld (packT maj td ta tb sh mask fn) 12 2 = sh := by
  simp only [fld, packT]
  rw [high_append _ _ (by decide), high_append _ _ (by decide), low_append _ _ (by decide), BitVec.extractLsb'_eq_self]

@[simp] theorem fld_packT_mask (maj : BitVec 6) (td : BitVec 4) (ta : BitVec 4) (tb : BitVec 4) (sh : BitVec 2) (mask : BitVec 4) (fn : BitVec 8) :
    fld (packT maj td ta tb sh mask fn) 8 4 = mask := by
  simp only [fld, packT]
  rw [high_append _ _ (by decide), low_append _ _ (by decide), BitVec.extractLsb'_eq_self]

@[simp] theorem fld_packT_fn (maj : BitVec 6) (td : BitVec 4) (ta : BitVec 4) (tb : BitVec 4) (sh : BitVec 2) (mask : BitVec 4) (fn : BitVec 8) :
    fld (packT maj td ta tb sh mask fn) 0 8 = fn := by
  simp only [fld, packT]
  rw [low_append _ _ (by decide), BitVec.extractLsb'_eq_self]

@[simp] theorem fld_packX_major (maj : BitVec 6) (td : BitVec 4) (ta : BitVec 4) (sb : BitVec 6) (sh : BitVec 2) (fn : BitVec 10) :
    fld (packX maj td ta sb sh fn) 26 6 = maj := by
  simp only [fld, packX]
  rw [high_append _ _ (by decide), high_append _ _ (by decide), high_append _ _ (by decide), high_append _ _ (by decide), high_append _ _ (by decide), BitVec.extractLsb'_eq_self]

@[simp] theorem fld_packX_td (maj : BitVec 6) (td : BitVec 4) (ta : BitVec 4) (sb : BitVec 6) (sh : BitVec 2) (fn : BitVec 10) :
    fld (packX maj td ta sb sh fn) 22 4 = td := by
  simp only [fld, packX]
  rw [high_append _ _ (by decide), high_append _ _ (by decide), high_append _ _ (by decide), high_append _ _ (by decide), low_append _ _ (by decide), BitVec.extractLsb'_eq_self]

@[simp] theorem fld_packX_ta (maj : BitVec 6) (td : BitVec 4) (ta : BitVec 4) (sb : BitVec 6) (sh : BitVec 2) (fn : BitVec 10) :
    fld (packX maj td ta sb sh fn) 18 4 = ta := by
  simp only [fld, packX]
  rw [high_append _ _ (by decide), high_append _ _ (by decide), high_append _ _ (by decide), low_append _ _ (by decide), BitVec.extractLsb'_eq_self]

@[simp] theorem fld_packX_sb (maj : BitVec 6) (td : BitVec 4) (ta : BitVec 4) (sb : BitVec 6) (sh : BitVec 2) (fn : BitVec 10) :
    fld (packX maj td ta sb sh fn) 12 6 = sb := by
  simp only [fld, packX]
  rw [high_append _ _ (by decide), high_append _ _ (by decide), low_append _ _ (by decide), BitVec.extractLsb'_eq_self]

@[simp] theorem fld_packX_sh (maj : BitVec 6) (td : BitVec 4) (ta : BitVec 4) (sb : BitVec 6) (sh : BitVec 2) (fn : BitVec 10) :
    fld (packX maj td ta sb sh fn) 10 2 = sh := by
  simp only [fld, packX]
  rw [high_append _ _ (by decide), low_append _ _ (by decide), BitVec.extractLsb'_eq_self]

@[simp] theorem fld_packX_fn (maj : BitVec 6) (td : BitVec 4) (ta : BitVec 4) (sb : BitVec 6) (sh : BitVec 2) (fn : BitVec 10) :
    fld (packX maj td ta sb sh fn) 0 10 = fn := by
  simp only [fld, packX]
  rw [low_append _ _ (by decide), BitVec.extractLsb'_eq_self]

@[simp] theorem fld_packS_major (d : BitVec 6) (a : BitVec 6) (sh : BitVec 2) (fmt : BitVec 5) (sel : BitVec 7) :
    fld (packS d a sh fmt sel) 26 6 = 0x36 := by
  simp only [fld, packS]
  rw [high_append _ _ (by decide), high_append _ _ (by decide), high_append _ _ (by decide), high_append _ _ (by decide), high_append _ _ (by decide), BitVec.extractLsb'_eq_self]

@[simp] theorem fld_packS_d (d : BitVec 6) (a : BitVec 6) (sh : BitVec 2) (fmt : BitVec 5) (sel : BitVec 7) :
    fld (packS d a sh fmt sel) 20 6 = d := by
  simp only [fld, packS]
  rw [high_append _ _ (by decide), high_append _ _ (by decide), high_append _ _ (by decide), high_append _ _ (by decide), low_append _ _ (by decide), BitVec.extractLsb'_eq_self]

@[simp] theorem fld_packS_a (d : BitVec 6) (a : BitVec 6) (sh : BitVec 2) (fmt : BitVec 5) (sel : BitVec 7) :
    fld (packS d a sh fmt sel) 14 6 = a := by
  simp only [fld, packS]
  rw [high_append _ _ (by decide), high_append _ _ (by decide), high_append _ _ (by decide), low_append _ _ (by decide), BitVec.extractLsb'_eq_self]

@[simp] theorem fld_packS_sh (d : BitVec 6) (a : BitVec 6) (sh : BitVec 2) (fmt : BitVec 5) (sel : BitVec 7) :
    fld (packS d a sh fmt sel) 12 2 = sh := by
  simp only [fld, packS]
  rw [high_append _ _ (by decide), high_append _ _ (by decide), low_append _ _ (by decide), BitVec.extractLsb'_eq_self]

@[simp] theorem fld_packS_fmt (d : BitVec 6) (a : BitVec 6) (sh : BitVec 2) (fmt : BitVec 5) (sel : BitVec 7) :
    fld (packS d a sh fmt sel) 7 5 = fmt := by
  simp only [fld, packS]
  rw [high_append _ _ (by decide), low_append _ _ (by decide), BitVec.extractLsb'_eq_self]

@[simp] theorem fld_packS_sel (d : BitVec 6) (a : BitVec 6) (sh : BitVec 2) (fmt : BitVec 5) (sel : BitVec 7) :
    fld (packS d a sh fmt sel) 0 7 = sel := by
  simp only [fld, packS]
  rw [low_append _ _ (by decide), BitVec.extractLsb'_eq_self]

@[simp] theorem fld_packFN_major (p : BitVec 6) (s : BitVec 6) (scope : BitVec 3) (z : BitVec 3) (fn : BitVec 8) :
    fld (packFN p s scope z fn) 26 6 = 0x1D := by
  simp only [fld, packFN]
  rw [high_append _ _ (by decide), high_append _ _ (by decide), high_append _ _ (by decide), high_append _ _ (by decide), high_append _ _ (by decide), BitVec.extractLsb'_eq_self]

@[simp] theorem fld_packFN_p (p : BitVec 6) (s : BitVec 6) (scope : BitVec 3) (z : BitVec 3) (fn : BitVec 8) :
    fld (packFN p s scope z fn) 20 6 = p := by
  simp only [fld, packFN]
  rw [high_append _ _ (by decide), high_append _ _ (by decide), high_append _ _ (by decide), high_append _ _ (by decide), low_append _ _ (by decide), BitVec.extractLsb'_eq_self]

@[simp] theorem fld_packFN_s (p : BitVec 6) (s : BitVec 6) (scope : BitVec 3) (z : BitVec 3) (fn : BitVec 8) :
    fld (packFN p s scope z fn) 14 6 = s := by
  simp only [fld, packFN]
  rw [high_append _ _ (by decide), high_append _ _ (by decide), high_append _ _ (by decide), low_append _ _ (by decide), BitVec.extractLsb'_eq_self]

@[simp] theorem fld_packFN_scope (p : BitVec 6) (s : BitVec 6) (scope : BitVec 3) (z : BitVec 3) (fn : BitVec 8) :
    fld (packFN p s scope z fn) 11 3 = scope := by
  simp only [fld, packFN]
  rw [high_append _ _ (by decide), high_append _ _ (by decide), low_append _ _ (by decide), BitVec.extractLsb'_eq_self]

@[simp] theorem fld_packFN_z (p : BitVec 6) (s : BitVec 6) (scope : BitVec 3) (z : BitVec 3) (fn : BitVec 8) :
    fld (packFN p s scope z fn) 8 3 = z := by
  simp only [fld, packFN]
  rw [high_append _ _ (by decide), low_append _ _ (by decide), BitVec.extractLsb'_eq_self]

@[simp] theorem fld_packFN_fn (p : BitVec 6) (s : BitVec 6) (scope : BitVec 3) (z : BitVec 3) (fn : BitVec 8) :
    fld (packFN p s scope z fn) 0 8 = fn := by
  simp only [fld, packFN]
  rw [low_append _ _ (by decide), BitVec.extractLsb'_eq_self]

@[simp] theorem fld_packW_major (l : BitVec 4) (s : BitVec 4) (c : BitVec 5) (m : BitVec 4) (z : BitVec 1) (fn : BitVec 8) :
    fld (packW l s c m z fn) 26 6 = 0x1D := by
  simp only [fld, packW]
  rw [high_append _ _ (by decide), high_append _ _ (by decide), high_append _ _ (by decide), high_append _ _ (by decide), high_append _ _ (by decide), high_append _ _ (by decide), BitVec.extractLsb'_eq_self]

@[simp] theorem fld_packW_l (l : BitVec 4) (s : BitVec 4) (c : BitVec 5) (m : BitVec 4) (z : BitVec 1) (fn : BitVec 8) :
    fld (packW l s c m z fn) 22 4 = l := by
  simp only [fld, packW]
  rw [high_append _ _ (by decide), high_append _ _ (by decide), high_append _ _ (by decide), high_append _ _ (by decide), high_append _ _ (by decide), low_append _ _ (by decide), BitVec.extractLsb'_eq_self]

@[simp] theorem fld_packW_s (l : BitVec 4) (s : BitVec 4) (c : BitVec 5) (m : BitVec 4) (z : BitVec 1) (fn : BitVec 8) :
    fld (packW l s c m z fn) 18 4 = s := by
  simp only [fld, packW]
  rw [high_append _ _ (by decide), high_append _ _ (by decide), high_append _ _ (by decide), high_append _ _ (by decide), low_append _ _ (by decide), BitVec.extractLsb'_eq_self]

@[simp] theorem fld_packW_c (l : BitVec 4) (s : BitVec 4) (c : BitVec 5) (m : BitVec 4) (z : BitVec 1) (fn : BitVec 8) :
    fld (packW l s c m z fn) 13 5 = c := by
  simp only [fld, packW]
  rw [high_append _ _ (by decide), high_append _ _ (by decide), high_append _ _ (by decide), low_append _ _ (by decide), BitVec.extractLsb'_eq_self]

@[simp] theorem fld_packW_m (l : BitVec 4) (s : BitVec 4) (c : BitVec 5) (m : BitVec 4) (z : BitVec 1) (fn : BitVec 8) :
    fld (packW l s c m z fn) 9 4 = m := by
  simp only [fld, packW]
  rw [high_append _ _ (by decide), high_append _ _ (by decide), low_append _ _ (by decide), BitVec.extractLsb'_eq_self]

@[simp] theorem fld_packW_z (l : BitVec 4) (s : BitVec 4) (c : BitVec 5) (m : BitVec 4) (z : BitVec 1) (fn : BitVec 8) :
    fld (packW l s c m z fn) 8 1 = z := by
  simp only [fld, packW]
  rw [high_append _ _ (by decide), low_append _ _ (by decide), BitVec.extractLsb'_eq_self]

@[simp] theorem fld_packW_fn (l : BitVec 4) (s : BitVec 4) (c : BitVec 5) (m : BitVec 4) (z : BitVec 1) (fn : BitVec 8) :
    fld (packW l s c m z fn) 0 8 = fn := by
  simp only [fld, packW]
  rw [low_append _ _ (by decide), BitVec.extractLsb'_eq_self]

@[simp] theorem fld_packN_major (d : BitVec 6) (num : BitVec 12) (fn : BitVec 8) :
    fld (packN d num fn) 26 6 = 0x2F := by
  simp only [fld, packN]
  rw [high_append _ _ (by decide), high_append _ _ (by decide), high_append _ _ (by decide), BitVec.extractLsb'_eq_self]

@[simp] theorem fld_packN_d (d : BitVec 6) (num : BitVec 12) (fn : BitVec 8) :
    fld (packN d num fn) 20 6 = d := by
  simp only [fld, packN]
  rw [high_append _ _ (by decide), high_append _ _ (by decide), low_append _ _ (by decide), BitVec.extractLsb'_eq_self]

@[simp] theorem fld_packN_num (d : BitVec 6) (num : BitVec 12) (fn : BitVec 8) :
    fld (packN d num fn) 8 12 = num := by
  simp only [fld, packN]
  rw [high_append _ _ (by decide), low_append _ _ (by decide), BitVec.extractLsb'_eq_self]

@[simp] theorem fld_packN_fn (d : BitVec 6) (num : BitVec 12) (fn : BitVec 8) :
    fld (packN d num fn) 0 8 = fn := by
  simp only [fld, packN]
  rw [low_append _ _ (by decide), BitVec.extractLsb'_eq_self]

end Sys2Proof
end

