-- ==== Sys2Proof/Laws/Maps.lean ====
section
/-! SUPPORT. Laws of tables by number, of sets of numbers and of memory: what a read gives after a write, and that every
write keeps the canonical form (log 2, log 4). -/
namespace Sys2Proof.Machine

/-! ### Tables -/

theorem mapFind_del_same {α : Type} (m : SMap α) (k : Nat) : mapFind (mapDel m k) k = none := by
  induction m with
  | nil => rfl
  | cons p r ih =>
    obtain ⟨j, v⟩ := p
    by_cases h : j = k
    · simpa [mapDel, h] using ih
    · simpa [mapDel, h, mapFind] using ih

theorem mapFind_del_other {α : Type} (m : SMap α) {k j : Nat} (h : j ≠ k) : mapFind (mapDel m k) j = mapFind m j := by
  induction m with
  | nil => rfl
  | cons p r ih =>
    obtain ⟨i, v⟩ := p
    by_cases hi : i = k
    · subst hi; simpa [mapDel, mapFind, Ne.symm h] using ih
    · by_cases hj : i = j
      · simp [mapDel, mapFind, hj, h]
      · simpa [mapDel, hi, mapFind, hj] using ih

theorem mapFind_ins_same {α : Type} (m : SMap α) (k : Nat) (v : α) (h : mapFind m k = none) :
    mapFind (mapIns m k v) k = some v := by
  induction m with
  | nil => simp [mapIns, mapFind]
  | cons p r ih =>
    obtain ⟨i, w⟩ := p
    by_cases hi : i = k
    · simp [mapFind, hi] at h
    · have h2 : mapFind r k = none := by simpa [mapFind, hi] using h
      by_cases hl : k < i
      · simp [mapIns, hl, mapFind]
      · simpa [mapIns, hl, mapFind, hi] using ih h2

theorem mapFind_ins_other {α : Type} (m : SMap α) {k j : Nat} (v : α) (h : j ≠ k) :
    mapFind (mapIns m k v) j = mapFind m j := by
  induction m with
  | nil => simp [mapIns, mapFind, Ne.symm h]
  | cons p r ih =>
    obtain ⟨i, w⟩ := p
    by_cases hl : k < i
    · simp [mapIns, hl, mapFind, Ne.symm h]
    · by_cases hj : i = j
      · subst hj; simp [mapIns, hl, mapFind]
      · simpa [mapIns, hl, mapFind, hj] using ih

theorem mapFind_put_same {α : Type} (m : SMap α) (k : Nat) (v : α) : mapFind (mapPut m k v) k = some v :=
  mapFind_ins_same _ _ _ (mapFind_del_same _ _)

theorem mapFind_put_other {α : Type} (m : SMap α) {k j : Nat} (v : α) (h : j ≠ k) :
    mapFind (mapPut m k v) j = mapFind m j := by
  rw [mapPut, mapFind_ins_other _ _ h, mapFind_del_other _ h]

@[simp] theorem mapGet_set_same {α : Type} [DecidableEq α] (d : α) (m : SMap α) (k : Nat) (v : α) :
    mapGet d (mapSet d m k v) k = v := by
  unfold mapGet mapSet
  split
  · simp [mapFind_del_same, *]
  · simp [mapFind_put_same]

theorem mapGet_set_other {α : Type} [DecidableEq α] (d : α) (m : SMap α) {k j : Nat} (v : α) (h : j ≠ k) :
    mapGet d (mapSet d m k v) j = mapGet d m j := by
  unfold mapGet mapSet
  split
  · rw [mapFind_del_other _ h]
  · rw [mapFind_put_other _ _ h]

/-! ### Keys stay in order -/

theorem mem_keys_ins {α : Type} (m : SMap α) (k : Nat) (v : α) (p : Nat × α) : p ∈ mapIns m k v ↔ p = (k, v) ∨ p ∈ m := by
  induction m with
  | nil => simp [mapIns]
  | cons q r ih =>
    obtain ⟨i, w⟩ := q
    by_cases hl : k < i
    · simp [mapIns, hl]
    · simp only [mapIns, hl, if_false, List.mem_cons, ih]
      exact or_left_comm

theorem sorted_ins {α : Type} (m : SMap α) (k : Nat) (v : α) (hs : m.Pairwise (fun a b => a.1 < b.1))
    (hk : ∀ p ∈ m, p.1 ≠ k) : (mapIns m k v).Pairwise (fun a b => a.1 < b.1) := by
  induction m with
  | nil => simp [mapIns]
  | cons q r ih =>
    obtain ⟨i, w⟩ := q
    rw [List.pairwise_cons] at hs
    by_cases hl : k < i
    · simp only [mapIns, hl, if_true, List.pairwise_cons, List.mem_cons]
      refine ⟨?_, hs.1, hs.2⟩
      rintro p (rfl | hp)
      · exact hl
      · exact Nat.lt_trans hl (hs.1 p hp)
    · simp only [mapIns, hl, if_false, List.pairwise_cons, mem_keys_ins]
      refine ⟨?_, ih hs.2 (fun p hp => hk p (List.mem_cons_of_mem _ hp))⟩
      rintro p (rfl | hp)
      · exact Nat.lt_of_le_of_ne (Nat.le_of_not_lt hl) (hk (i, w) (List.mem_cons_self ..))
      · exact hs.1 p hp

theorem sorted_del {α : Type} (m : SMap α) (k : Nat) (hs : m.Pairwise (fun a b => a.1 < b.1)) :
    (mapDel m k).Pairwise (fun a b => a.1 < b.1) := hs.filter _

theorem mem_del {α : Type} (m : SMap α) (k : Nat) (p : Nat × α) : p ∈ mapDel m k ↔ p ∈ m ∧ p.1 ≠ k := by
  simp [mapDel]

theorem sorted_set {α : Type} [DecidableEq α] (d : α) (m : SMap α) (k : Nat) (v : α)
    (hs : m.Pairwise (fun a b => a.1 < b.1)) : (mapSet d m k v).Pairwise (fun a b => a.1 < b.1) := by
  unfold mapSet
  split
  · exact sorted_del _ _ hs
  · exact sorted_ins _ _ _ (sorted_del _ _ hs) (fun p hp => ((mem_del _ _ _).1 hp).2)

theorem listed_set {α : Type} [DecidableEq α] (d : α) (m : SMap α) (k : Nat) (v : α) (hd : ∀ p ∈ m, p.2 ≠ d) :
    ∀ p ∈ mapSet d m k v, p.2 ≠ d := by
  intro p hp
  unfold mapSet at hp
  split at hp
  · exact hd p ((mem_del _ _ _).1 hp).1
  · rcases (mem_keys_ins _ _ _ _).1 hp with rfl | hp
    · assumption
    · exact hd p ((mem_del _ _ _).1 hp).1

/-! ### Memory -/

theorem Memory.wf_iff (m : List Host.Cell) :
    Memory.wf m = true ↔ m.Pairwise (fun a b => a.1 < b.1) ∧ ∀ p ∈ m, p.2 ≠ Memory.unlisted := by
  induction m with
  | nil => simp [Memory.wf]
  | cons p r ih =>
    obtain ⟨j, v⟩ := p
    match r with
    | [] => simp [Memory.wf]
    | (k, w) :: r =>
      simp only [Memory.wf, Bool.and_eq_true, decide_eq_true_eq, Bool.not_eq_true', beq_eq_false_iff_ne, ih,
        List.pairwise_cons, List.mem_cons]
      constructor
      · rintro ⟨⟨hjk, hv⟩, ⟨hkr, hr⟩, hw⟩
        refine ⟨⟨?_, hkr, hr⟩, ?_⟩
        · rintro p (rfl | hp)
          · exact hjk
          · exact Nat.lt_trans hjk (hkr p hp)
        · rintro p (rfl | hp)
          · exact hv
          · exact hw p hp
      · rintro ⟨⟨hj, hkr, hr⟩, hw⟩
        exact ⟨⟨hj (k, w) (.inl rfl), hw (j, v) (.inl rfl)⟩, ⟨hkr, hr⟩, fun p hp => hw p (.inr hp)⟩

/-- Writing a byte keeps the canonical form. -/
theorem Memory.wf_setByte (m : List Host.Cell) (k : Nat) (v : Byte) (h : Memory.wf m = true) :
    Memory.wf (memSetByte m k v) = true := by
  rw [Memory.wf_iff] at h ⊢
  exact ⟨sorted_set _ _ _ _ h.1, listed_set _ _ _ _ h.2⟩

/-- Writing bytes keeps the canonical form. -/
theorem Memory.wf_setBytes (bs : List Byte) (m : List Host.Cell) (k : Nat) (h : Memory.wf m = true) :
    Memory.wf (memSetBytes m k bs) = true := by
  induction bs generalizing m k with
  | nil => exact h
  | cons b r ih => exact ih _ _ (Memory.wf_setByte _ _ _ h)

theorem Memory.wf_write (m : List Host.Cell) (k n v : Nat) (h : Memory.wf m = true) : Memory.wf (memWrite m k n v) = true :=
  Memory.wf_setBytes _ _ _ h

@[simp] theorem memByte_setByte_same (m : List Host.Cell) (k : Nat) (v : Byte) : memByte (memSetByte m k v) k = v :=
  mapGet_set_same _ _ _ _

theorem memByte_setByte_other (m : List Host.Cell) {k j : Nat} (v : Byte) (h : j ≠ k) :
    memByte (memSetByte m k v) j = memByte m j := mapGet_set_other _ _ _ h

/-- Bytes outside a write read as before. -/
theorem memByte_setBytes_other (bs : List Byte) (m : List Host.Cell) (k j : Nat) (h : j < k ∨ k + bs.length ≤ j) :
    memByte (memSetBytes m k bs) j = memByte m j := by
  induction bs generalizing m k with
  | nil => rfl
  | cons b r ih =>
    simp only [List.length_cons] at h
    rw [memSetBytes, ih _ _ (by omega), memByte_setByte_other _ _ (by omega)]

/-- A byte inside a write reads as the byte written. -/
theorem memByte_setBytes_in (bs : List Byte) (m : List Host.Cell) (k i : Nat) (h : i < bs.length) :
    memByte (memSetBytes m k bs) (k + i) = bs[i] := by
  induction bs generalizing m k i with
  | nil => simp at h
  | cons b r ih =>
    cases i with
    | zero => rw [memSetBytes, memByte_setBytes_other _ _ _ _ (by omega)]; simp
    | succ i =>
      have h2 := ih (memSetByte m k b) (k + 1) i (by simpa using h)
      simpa [memSetBytes, Nat.add_assoc, Nat.add_comm 1 i] using h2

theorem memBytes_length (m : List Host.Cell) (k n : Nat) : (memBytes m k n).length = n := by
  induction n generalizing k with
  | zero => rfl
  | succ n ih => simp [memBytes, ih]

theorem memBytes_get (m : List Host.Cell) (k n i : Nat) (h : i < (memBytes m k n).length) :
    (memBytes m k n)[i] = memByte m (k + i) := by
  induction n generalizing k i with
  | zero => simp [memBytes] at h
  | succ n ih =>
    cases i with
    | zero => rfl
    | succ i => simpa [memBytes, Nat.add_assoc, Nat.add_comm 1 i] using ih (k + 1) i (by simpa [memBytes] using h)

/-- What was written is read back. -/
theorem memBytes_setBytes (m : List Host.Cell) (k : Nat) (bs : List Byte) : memBytes (memSetBytes m k bs) k bs.length = bs := by
  apply List.ext_getElem
  · exact memBytes_length _ _ _
  · intro i h1 h2
    rw [memBytes_get, memByte_setBytes_in _ _ _ _ h2]

theorem leBytes_length (n v : Nat) : (leBytes n v).length = n := by
  induction n generalizing v with
  | zero => rfl
  | succ n ih => simp [leBytes, ih]

theorem leValue_leBytes (n v : Nat) : leValue (leBytes n v) = v % 256 ^ n := by
  induction n generalizing v with
  | zero => simp [leBytes, leValue, Nat.mod_one]
  | succ n ih =>
    rw [leBytes, leValue, ih, BitVec.toNat_ofNat]
    rw [show (256 : Nat) ^ (n + 1) = 256 * 256 ^ n from by rw [Nat.pow_succ, Nat.mul_comm], Nat.mod_mul]

/-- A number written to n bytes is read back modulo 256^n. -/
theorem memRead_write_same (m : List Host.Cell) (k n v : Nat) : memRead (memWrite m k n v) k n = v % 256 ^ n := by
  have h := memBytes_setBytes m k (leBytes n v)
  rw [leBytes_length] at h
  rw [memRead, memWrite, h, leValue_leBytes]

theorem memBytes_setBytes_other (bs : List Byte) (m : List Host.Cell) (k j n : Nat)
    (h : j + n ≤ k ∨ k + bs.length ≤ j) : memBytes (memSetBytes m k bs) j n = memBytes m j n := by
  apply List.ext_getElem
  · simp [memBytes_length]
  · intro i h1 h2
    rw [memBytes_length] at h1
    rw [memBytes_get, memBytes_get, memByte_setBytes_other _ _ _ _ (by omega)]

/-- A write elsewhere leaves a read alone. -/
theorem memRead_write_other (m : List Host.Cell) (k n v j l : Nat) (h : j + l ≤ k ∨ k + n ≤ j) :
    memRead (memWrite m k n v) j l = memRead m j l := by
  rw [memRead, memRead, memWrite, memBytes_setBytes_other _ _ _ _ _ (by rwa [leBytes_length])]

/-! ### Sets of numbers -/

theorem rising_iff (l : List Nat) : rising l = true ↔ l.Pairwise (· < ·) := by
  induction l with
  | nil => simp [rising]
  | cons a r ih =>
    match r with
    | [] => simp [rising]
    | b :: r =>
      simp only [rising, Bool.and_eq_true, decide_eq_true_eq, ih, List.pairwise_cons, List.mem_cons]
      constructor
      · rintro ⟨hab, hb, hr⟩
        refine ⟨?_, hb, hr⟩
        rintro x (rfl | hx)
        · exact hab
        · exact Nat.lt_trans hab (hb x hx)
      · rintro ⟨ha, hb, hr⟩
        exact ⟨ha b (.inl rfl), hb, hr⟩

theorem mem_setIns (l : List Nat) (k x : Nat) : x ∈ setIns l k ↔ x = k ∨ x ∈ l := by
  induction l with
  | nil => simp [setIns]
  | cons j r ih =>
    by_cases h1 : k < j
    · simp [setIns, h1]
    · by_cases h2 : k = j
      · subst h2; simp [setIns]
      · simp only [setIns, h1, h2, if_false, List.mem_cons, ih]; exact or_left_comm

theorem mem_setDel (l : List Nat) (k x : Nat) : x ∈ setDel l k ↔ x ∈ l ∧ x ≠ k := by simp [setDel]

theorem rising_setIns (l : List Nat) (k : Nat) (h : rising l = true) : rising (setIns l k) = true := by
  rw [rising_iff] at h ⊢
  induction l with
  | nil => simp [setIns]
  | cons j r ih =>
    rw [List.pairwise_cons] at h
    by_cases h1 : k < j
    · simp only [setIns, h1, if_true, List.pairwise_cons, List.mem_cons]
      refine ⟨?_, h.1, h.2⟩
      rintro x (rfl | hx)
      · exact h1
      · exact Nat.lt_trans h1 (h.1 x hx)
    · by_cases h2 : k = j
      · simpa [setIns, h2, List.pairwise_cons, h.2] using h.1
      · simp only [setIns, h1, h2, if_false, List.pairwise_cons, mem_setIns]
        refine ⟨?_, ih h.2⟩
        rintro x (rfl | hx)
        · omega
        · exact h.1 x hx

theorem rising_setDel (l : List Nat) (k : Nat) (h : rising l = true) : rising (setDel l k) = true := by
  rw [rising_iff] at h ⊢
  exact h.filter _

end Sys2Proof.Machine
end

