-- ==== Sys2Proof/Laws/State.lean ====
section
/-! SUPPORT. What each named update of the state leaves as it was, one lemma for a field and an update, and what a read of
the updated table gives. -/
namespace Sys2Proof.Machine

/-! ### putThread -/

@[simp] theorem putThread_agenda (s : State) (c t : Nat) (th : Thread) : (putThread s c t th).agenda = s.agenda := rfl
@[simp] theorem putThread_core (s : State) (c t : Nat) (th : Thread) : (putThread s c t th).core = s.core := rfl
@[simp] theorem putThread_slot (s : State) (c t : Nat) (th : Thread) : (putThread s c t th).slot = s.slot := rfl
@[simp] theorem putThread_event (s : State) (c t : Nat) (th : Thread) : (putThread s c t th).event = s.event := rfl
@[simp] theorem putThread_nextId (s : State) (c t : Nat) (th : Thread) : (putThread s c t th).nextId = s.nextId := rfl
@[simp] theorem putThread_freeCtr (s : State) (c t : Nat) (th : Thread) : (putThread s c t th).freeCtr = s.freeCtr := rfl
@[simp] theorem putThread_mem (s : State) (c t : Nat) (th : Thread) : (putThread s c t th).mem = s.mem := rfl
@[simp] theorem putThread_empties (s : State) (c t : Nat) (th : Thread) : (putThread s c t th).empties = s.empties := rfl
@[simp] theorem putThread_marks (s : State) (c t : Nat) (th : Thread) : (putThread s c t th).marks = s.marks := rfl
@[simp] theorem putThread_spilled (s : State) (c t : Nat) (th : Thread) : (putThread s c t th).spilled = s.spilled := rfl
@[simp] theorem putThread_cores (s : State) (c t : Nat) (th : Thread) : (putThread s c t th).cores = s.cores := rfl
@[simp] theorem putThread_contexts (s : State) (c t : Nat) (th : Thread) : (putThread s c t th).contexts = s.contexts := rfl
@[simp] theorem putThread_families (s : State) (c t : Nat) (th : Thread) : (putThread s c t th).families = s.families := rfl
@[simp] theorem putThread_flights (s : State) (c t : Nat) (th : Thread) : (putThread s c t th).flights = s.flights := rfl
@[simp] theorem putThread_tasks (s : State) (c t : Nat) (th : Thread) : (putThread s c t th).tasks = s.tasks := rfl
@[simp] theorem putThread_runs (s : State) (c t : Nat) (th : Thread) : (putThread s c t th).runs = s.runs := rfl
@[simp] theorem putThread_colls (s : State) (c t : Nat) (th : Thread) : (putThread s c t th).colls = s.colls := rfl
@[simp] theorem putThread_mesh (s : State) (c t : Nat) (th : Thread) : (putThread s c t th).mesh = s.mesh := rfl
@[simp] theorem putThread_gangs (s : State) (c t : Nat) (th : Thread) : (putThread s c t th).gangs = s.gangs := rfl
@[simp] theorem putThread_launches (s : State) (c t : Nat) (th : Thread) : (putThread s c t th).launches = s.launches := rfl
@[simp] theorem putThread_deficits (s : State) (c t : Nat) (th : Thread) : (putThread s c t th).deficits = s.deficits := rfl
@[simp] theorem putThread_lastCtx (s : State) (c t : Nat) (th : Thread) : (putThread s c t th).lastCtx = s.lastCtx := rfl
@[simp] theorem putThread_tags (s : State) (c t : Nat) (th : Thread) : (putThread s c t th).tags = s.tags := rfl
@[simp] theorem putThread_dev (s : State) (c t : Nat) (th : Thread) : (putThread s c t th).dev = s.dev := rfl

/-! ### setCur -/

@[simp] theorem setCur_agenda (s : State) (th : Thread) : (setCur s th).agenda = s.agenda := rfl
@[simp] theorem setCur_core (s : State) (th : Thread) : (setCur s th).core = s.core := rfl
@[simp] theorem setCur_slot (s : State) (th : Thread) : (setCur s th).slot = s.slot := rfl
@[simp] theorem setCur_event (s : State) (th : Thread) : (setCur s th).event = s.event := rfl
@[simp] theorem setCur_nextId (s : State) (th : Thread) : (setCur s th).nextId = s.nextId := rfl
@[simp] theorem setCur_freeCtr (s : State) (th : Thread) : (setCur s th).freeCtr = s.freeCtr := rfl
@[simp] theorem setCur_mem (s : State) (th : Thread) : (setCur s th).mem = s.mem := rfl
@[simp] theorem setCur_empties (s : State) (th : Thread) : (setCur s th).empties = s.empties := rfl
@[simp] theorem setCur_marks (s : State) (th : Thread) : (setCur s th).marks = s.marks := rfl
@[simp] theorem setCur_spilled (s : State) (th : Thread) : (setCur s th).spilled = s.spilled := rfl
@[simp] theorem setCur_cores (s : State) (th : Thread) : (setCur s th).cores = s.cores := rfl
@[simp] theorem setCur_contexts (s : State) (th : Thread) : (setCur s th).contexts = s.contexts := rfl
@[simp] theorem setCur_families (s : State) (th : Thread) : (setCur s th).families = s.families := rfl
@[simp] theorem setCur_flights (s : State) (th : Thread) : (setCur s th).flights = s.flights := rfl
@[simp] theorem setCur_tasks (s : State) (th : Thread) : (setCur s th).tasks = s.tasks := rfl
@[simp] theorem setCur_runs (s : State) (th : Thread) : (setCur s th).runs = s.runs := rfl
@[simp] theorem setCur_colls (s : State) (th : Thread) : (setCur s th).colls = s.colls := rfl
@[simp] theorem setCur_mesh (s : State) (th : Thread) : (setCur s th).mesh = s.mesh := rfl
@[simp] theorem setCur_gangs (s : State) (th : Thread) : (setCur s th).gangs = s.gangs := rfl
@[simp] theorem setCur_launches (s : State) (th : Thread) : (setCur s th).launches = s.launches := rfl
@[simp] theorem setCur_deficits (s : State) (th : Thread) : (setCur s th).deficits = s.deficits := rfl
@[simp] theorem setCur_lastCtx (s : State) (th : Thread) : (setCur s th).lastCtx = s.lastCtx := rfl
@[simp] theorem setCur_tags (s : State) (th : Thread) : (setCur s th).tags = s.tags := rfl
@[simp] theorem setCur_dev (s : State) (th : Thread) : (setCur s th).dev = s.dev := rfl

/-! ### putCore -/

@[simp] theorem putCore_agenda (s : State) (c : Nat) (co : Core) : (putCore s c co).agenda = s.agenda := rfl
@[simp] theorem putCore_core (s : State) (c : Nat) (co : Core) : (putCore s c co).core = s.core := rfl
@[simp] theorem putCore_slot (s : State) (c : Nat) (co : Core) : (putCore s c co).slot = s.slot := rfl
@[simp] theorem putCore_event (s : State) (c : Nat) (co : Core) : (putCore s c co).event = s.event := rfl
@[simp] theorem putCore_nextId (s : State) (c : Nat) (co : Core) : (putCore s c co).nextId = s.nextId := rfl
@[simp] theorem putCore_freeCtr (s : State) (c : Nat) (co : Core) : (putCore s c co).freeCtr = s.freeCtr := rfl
@[simp] theorem putCore_mem (s : State) (c : Nat) (co : Core) : (putCore s c co).mem = s.mem := rfl
@[simp] theorem putCore_empties (s : State) (c : Nat) (co : Core) : (putCore s c co).empties = s.empties := rfl
@[simp] theorem putCore_marks (s : State) (c : Nat) (co : Core) : (putCore s c co).marks = s.marks := rfl
@[simp] theorem putCore_threads (s : State) (c : Nat) (co : Core) : (putCore s c co).threads = s.threads := rfl
@[simp] theorem putCore_spilled (s : State) (c : Nat) (co : Core) : (putCore s c co).spilled = s.spilled := rfl
@[simp] theorem putCore_contexts (s : State) (c : Nat) (co : Core) : (putCore s c co).contexts = s.contexts := rfl
@[simp] theorem putCore_families (s : State) (c : Nat) (co : Core) : (putCore s c co).families = s.families := rfl
@[simp] theorem putCore_flights (s : State) (c : Nat) (co : Core) : (putCore s c co).flights = s.flights := rfl
@[simp] theorem putCore_tasks (s : State) (c : Nat) (co : Core) : (putCore s c co).tasks = s.tasks := rfl
@[simp] theorem putCore_runs (s : State) (c : Nat) (co : Core) : (putCore s c co).runs = s.runs := rfl
@[simp] theorem putCore_colls (s : State) (c : Nat) (co : Core) : (putCore s c co).colls = s.colls := rfl
@[simp] theorem putCore_mesh (s : State) (c : Nat) (co : Core) : (putCore s c co).mesh = s.mesh := rfl
@[simp] theorem putCore_gangs (s : State) (c : Nat) (co : Core) : (putCore s c co).gangs = s.gangs := rfl
@[simp] theorem putCore_launches (s : State) (c : Nat) (co : Core) : (putCore s c co).launches = s.launches := rfl
@[simp] theorem putCore_deficits (s : State) (c : Nat) (co : Core) : (putCore s c co).deficits = s.deficits := rfl
@[simp] theorem putCore_lastCtx (s : State) (c : Nat) (co : Core) : (putCore s c co).lastCtx = s.lastCtx := rfl
@[simp] theorem putCore_tags (s : State) (c : Nat) (co : Core) : (putCore s c co).tags = s.tags := rfl
@[simp] theorem putCore_dev (s : State) (c : Nat) (co : Core) : (putCore s c co).dev = s.dev := rfl

/-! ### setFull -/

@[simp] theorem setFull_agenda (s : State) (k : Nat) : (setFull s k).agenda = s.agenda := rfl
@[simp] theorem setFull_core (s : State) (k : Nat) : (setFull s k).core = s.core := rfl
@[simp] theorem setFull_slot (s : State) (k : Nat) : (setFull s k).slot = s.slot := rfl
@[simp] theorem setFull_event (s : State) (k : Nat) : (setFull s k).event = s.event := rfl
@[simp] theorem setFull_nextId (s : State) (k : Nat) : (setFull s k).nextId = s.nextId := rfl
@[simp] theorem setFull_freeCtr (s : State) (k : Nat) : (setFull s k).freeCtr = s.freeCtr := rfl
@[simp] theorem setFull_mem (s : State) (k : Nat) : (setFull s k).mem = s.mem := rfl
@[simp] theorem setFull_marks (s : State) (k : Nat) : (setFull s k).marks = s.marks := rfl
@[simp] theorem setFull_threads (s : State) (k : Nat) : (setFull s k).threads = s.threads := rfl
@[simp] theorem setFull_spilled (s : State) (k : Nat) : (setFull s k).spilled = s.spilled := rfl
@[simp] theorem setFull_cores (s : State) (k : Nat) : (setFull s k).cores = s.cores := rfl
@[simp] theorem setFull_contexts (s : State) (k : Nat) : (setFull s k).contexts = s.contexts := rfl
@[simp] theorem setFull_families (s : State) (k : Nat) : (setFull s k).families = s.families := rfl
@[simp] theorem setFull_flights (s : State) (k : Nat) : (setFull s k).flights = s.flights := rfl
@[simp] theorem setFull_tasks (s : State) (k : Nat) : (setFull s k).tasks = s.tasks := rfl
@[simp] theorem setFull_runs (s : State) (k : Nat) : (setFull s k).runs = s.runs := rfl
@[simp] theorem setFull_colls (s : State) (k : Nat) : (setFull s k).colls = s.colls := rfl
@[simp] theorem setFull_mesh (s : State) (k : Nat) : (setFull s k).mesh = s.mesh := rfl
@[simp] theorem setFull_gangs (s : State) (k : Nat) : (setFull s k).gangs = s.gangs := rfl
@[simp] theorem setFull_launches (s : State) (k : Nat) : (setFull s k).launches = s.launches := rfl
@[simp] theorem setFull_deficits (s : State) (k : Nat) : (setFull s k).deficits = s.deficits := rfl
@[simp] theorem setFull_lastCtx (s : State) (k : Nat) : (setFull s k).lastCtx = s.lastCtx := rfl
@[simp] theorem setFull_tags (s : State) (k : Nat) : (setFull s k).tags = s.tags := rfl
@[simp] theorem setFull_dev (s : State) (k : Nat) : (setFull s k).dev = s.dev := rfl

/-! ### clearMark -/

@[simp] theorem clearMark_agenda (s : State) (k : Nat) : (clearMark s k).agenda = s.agenda := rfl
@[simp] theorem clearMark_core (s : State) (k : Nat) : (clearMark s k).core = s.core := rfl
@[simp] theorem clearMark_slot (s : State) (k : Nat) : (clearMark s k).slot = s.slot := rfl
@[simp] theorem clearMark_event (s : State) (k : Nat) : (clearMark s k).event = s.event := rfl
@[simp] theorem clearMark_nextId (s : State) (k : Nat) : (clearMark s k).nextId = s.nextId := rfl
@[simp] theorem clearMark_freeCtr (s : State) (k : Nat) : (clearMark s k).freeCtr = s.freeCtr := rfl
@[simp] theorem clearMark_mem (s : State) (k : Nat) : (clearMark s k).mem = s.mem := rfl
@[simp] theorem clearMark_empties (s : State) (k : Nat) : (clearMark s k).empties = s.empties := rfl
@[simp] theorem clearMark_threads (s : State) (k : Nat) : (clearMark s k).threads = s.threads := rfl
@[simp] theorem clearMark_spilled (s : State) (k : Nat) : (clearMark s k).spilled = s.spilled := rfl
@[simp] theorem clearMark_cores (s : State) (k : Nat) : (clearMark s k).cores = s.cores := rfl
@[simp] theorem clearMark_contexts (s : State) (k : Nat) : (clearMark s k).contexts = s.contexts := rfl
@[simp] theorem clearMark_families (s : State) (k : Nat) : (clearMark s k).families = s.families := rfl
@[simp] theorem clearMark_flights (s : State) (k : Nat) : (clearMark s k).flights = s.flights := rfl
@[simp] theorem clearMark_tasks (s : State) (k : Nat) : (clearMark s k).tasks = s.tasks := rfl
@[simp] theorem clearMark_runs (s : State) (k : Nat) : (clearMark s k).runs = s.runs := rfl
@[simp] theorem clearMark_colls (s : State) (k : Nat) : (clearMark s k).colls = s.colls := rfl
@[simp] theorem clearMark_mesh (s : State) (k : Nat) : (clearMark s k).mesh = s.mesh := rfl
@[simp] theorem clearMark_gangs (s : State) (k : Nat) : (clearMark s k).gangs = s.gangs := rfl
@[simp] theorem clearMark_launches (s : State) (k : Nat) : (clearMark s k).launches = s.launches := rfl
@[simp] theorem clearMark_deficits (s : State) (k : Nat) : (clearMark s k).deficits = s.deficits := rfl
@[simp] theorem clearMark_lastCtx (s : State) (k : Nat) : (clearMark s k).lastCtx = s.lastCtx := rfl
@[simp] theorem clearMark_tags (s : State) (k : Nat) : (clearMark s k).tags = s.tags := rfl
@[simp] theorem clearMark_dev (s : State) (k : Nat) : (clearMark s k).dev = s.dev := rfl

/-! ### pokeBytes -/

@[simp] theorem pokeBytes_agenda (s : State) (k : Nat) (bs : List Byte) : (pokeBytes s k bs).agenda = s.agenda := rfl
@[simp] theorem pokeBytes_core (s : State) (k : Nat) (bs : List Byte) : (pokeBytes s k bs).core = s.core := rfl
@[simp] theorem pokeBytes_slot (s : State) (k : Nat) (bs : List Byte) : (pokeBytes s k bs).slot = s.slot := rfl
@[simp] theorem pokeBytes_event (s : State) (k : Nat) (bs : List Byte) : (pokeBytes s k bs).event = s.event := rfl
@[simp] theorem pokeBytes_nextId (s : State) (k : Nat) (bs : List Byte) : (pokeBytes s k bs).nextId = s.nextId := rfl
@[simp] theorem pokeBytes_freeCtr (s : State) (k : Nat) (bs : List Byte) : (pokeBytes s k bs).freeCtr = s.freeCtr := rfl
@[simp] theorem pokeBytes_empties (s : State) (k : Nat) (bs : List Byte) : (pokeBytes s k bs).empties = s.empties := rfl
@[simp] theorem pokeBytes_marks (s : State) (k : Nat) (bs : List Byte) : (pokeBytes s k bs).marks = s.marks := rfl
@[simp] theorem pokeBytes_threads (s : State) (k : Nat) (bs : List Byte) : (pokeBytes s k bs).threads = s.threads := rfl
@[simp] theorem pokeBytes_spilled (s : State) (k : Nat) (bs : List Byte) : (pokeBytes s k bs).spilled = s.spilled := rfl
@[simp] theorem pokeBytes_cores (s : State) (k : Nat) (bs : List Byte) : (pokeBytes s k bs).cores = s.cores := rfl
@[simp] theorem pokeBytes_contexts (s : State) (k : Nat) (bs : List Byte) : (pokeBytes s k bs).contexts = s.contexts := rfl
@[simp] theorem pokeBytes_families (s : State) (k : Nat) (bs : List Byte) : (pokeBytes s k bs).families = s.families := rfl
@[simp] theorem pokeBytes_flights (s : State) (k : Nat) (bs : List Byte) : (pokeBytes s k bs).flights = s.flights := rfl
@[simp] theorem pokeBytes_tasks (s : State) (k : Nat) (bs : List Byte) : (pokeBytes s k bs).tasks = s.tasks := rfl
@[simp] theorem pokeBytes_runs (s : State) (k : Nat) (bs : List Byte) : (pokeBytes s k bs).runs = s.runs := rfl
@[simp] theorem pokeBytes_colls (s : State) (k : Nat) (bs : List Byte) : (pokeBytes s k bs).colls = s.colls := rfl
@[simp] theorem pokeBytes_mesh (s : State) (k : Nat) (bs : List Byte) : (pokeBytes s k bs).mesh = s.mesh := rfl
@[simp] theorem pokeBytes_gangs (s : State) (k : Nat) (bs : List Byte) : (pokeBytes s k bs).gangs = s.gangs := rfl
@[simp] theorem pokeBytes_launches (s : State) (k : Nat) (bs : List Byte) : (pokeBytes s k bs).launches = s.launches := rfl
@[simp] theorem pokeBytes_deficits (s : State) (k : Nat) (bs : List Byte) : (pokeBytes s k bs).deficits = s.deficits := rfl
@[simp] theorem pokeBytes_lastCtx (s : State) (k : Nat) (bs : List Byte) : (pokeBytes s k bs).lastCtx = s.lastCtx := rfl
@[simp] theorem pokeBytes_tags (s : State) (k : Nat) (bs : List Byte) : (pokeBytes s k bs).tags = s.tags := rfl
@[simp] theorem pokeBytes_dev (s : State) (k : Nat) (bs : List Byte) : (pokeBytes s k bs).dev = s.dev := rfl

/-! ### setRequest -/

@[simp] theorem setRequest_agenda (s : State) (r : Request) : (setRequest s r).agenda = s.agenda := rfl
@[simp] theorem setRequest_core (s : State) (r : Request) : (setRequest s r).core = s.core := rfl
@[simp] theorem setRequest_slot (s : State) (r : Request) : (setRequest s r).slot = s.slot := rfl
@[simp] theorem setRequest_event (s : State) (r : Request) : (setRequest s r).event = s.event := rfl
@[simp] theorem setRequest_nextId (s : State) (r : Request) : (setRequest s r).nextId = s.nextId := rfl
@[simp] theorem setRequest_freeCtr (s : State) (r : Request) : (setRequest s r).freeCtr = s.freeCtr := rfl
@[simp] theorem setRequest_mem (s : State) (r : Request) : (setRequest s r).mem = s.mem := rfl
@[simp] theorem setRequest_empties (s : State) (r : Request) : (setRequest s r).empties = s.empties := rfl
@[simp] theorem setRequest_marks (s : State) (r : Request) : (setRequest s r).marks = s.marks := rfl
@[simp] theorem setRequest_threads (s : State) (r : Request) : (setRequest s r).threads = s.threads := rfl
@[simp] theorem setRequest_spilled (s : State) (r : Request) : (setRequest s r).spilled = s.spilled := rfl
@[simp] theorem setRequest_cores (s : State) (r : Request) : (setRequest s r).cores = s.cores := rfl
@[simp] theorem setRequest_contexts (s : State) (r : Request) : (setRequest s r).contexts = s.contexts := rfl
@[simp] theorem setRequest_families (s : State) (r : Request) : (setRequest s r).families = s.families := rfl
@[simp] theorem setRequest_tasks (s : State) (r : Request) : (setRequest s r).tasks = s.tasks := rfl
@[simp] theorem setRequest_runs (s : State) (r : Request) : (setRequest s r).runs = s.runs := rfl
@[simp] theorem setRequest_colls (s : State) (r : Request) : (setRequest s r).colls = s.colls := rfl
@[simp] theorem setRequest_mesh (s : State) (r : Request) : (setRequest s r).mesh = s.mesh := rfl
@[simp] theorem setRequest_gangs (s : State) (r : Request) : (setRequest s r).gangs = s.gangs := rfl
@[simp] theorem setRequest_launches (s : State) (r : Request) : (setRequest s r).launches = s.launches := rfl
@[simp] theorem setRequest_deficits (s : State) (r : Request) : (setRequest s r).deficits = s.deficits := rfl
@[simp] theorem setRequest_lastCtx (s : State) (r : Request) : (setRequest s r).lastCtx = s.lastCtx := rfl
@[simp] theorem setRequest_tags (s : State) (r : Request) : (setRequest s r).tags = s.tags := rfl
@[simp] theorem setRequest_dev (s : State) (r : Request) : (setRequest s r).dev = s.dev := rfl

/-! ### pendReg -/

@[simp] theorem pendReg_agenda (s : State) (d : RegNo) : (pendReg s d).agenda = s.agenda := rfl
@[simp] theorem pendReg_core (s : State) (d : RegNo) : (pendReg s d).core = s.core := rfl
@[simp] theorem pendReg_slot (s : State) (d : RegNo) : (pendReg s d).slot = s.slot := rfl
@[simp] theorem pendReg_event (s : State) (d : RegNo) : (pendReg s d).event = s.event := rfl
@[simp] theorem pendReg_nextId (s : State) (d : RegNo) : (pendReg s d).nextId = s.nextId := rfl
@[simp] theorem pendReg_freeCtr (s : State) (d : RegNo) : (pendReg s d).freeCtr = s.freeCtr := rfl
@[simp] theorem pendReg_mem (s : State) (d : RegNo) : (pendReg s d).mem = s.mem := rfl
@[simp] theorem pendReg_empties (s : State) (d : RegNo) : (pendReg s d).empties = s.empties := rfl
@[simp] theorem pendReg_marks (s : State) (d : RegNo) : (pendReg s d).marks = s.marks := rfl
@[simp] theorem pendReg_spilled (s : State) (d : RegNo) : (pendReg s d).spilled = s.spilled := rfl
@[simp] theorem pendReg_cores (s : State) (d : RegNo) : (pendReg s d).cores = s.cores := rfl
@[simp] theorem pendReg_contexts (s : State) (d : RegNo) : (pendReg s d).contexts = s.contexts := rfl
@[simp] theorem pendReg_families (s : State) (d : RegNo) : (pendReg s d).families = s.families := rfl
@[simp] theorem pendReg_flights (s : State) (d : RegNo) : (pendReg s d).flights = s.flights := rfl
@[simp] theorem pendReg_tasks (s : State) (d : RegNo) : (pendReg s d).tasks = s.tasks := rfl
@[simp] theorem pendReg_runs (s : State) (d : RegNo) : (pendReg s d).runs = s.runs := rfl
@[simp] theorem pendReg_colls (s : State) (d : RegNo) : (pendReg s d).colls = s.colls := rfl
@[simp] theorem pendReg_mesh (s : State) (d : RegNo) : (pendReg s d).mesh = s.mesh := rfl
@[simp] theorem pendReg_gangs (s : State) (d : RegNo) : (pendReg s d).gangs = s.gangs := rfl
@[simp] theorem pendReg_launches (s : State) (d : RegNo) : (pendReg s d).launches = s.launches := rfl
@[simp] theorem pendReg_deficits (s : State) (d : RegNo) : (pendReg s d).deficits = s.deficits := rfl
@[simp] theorem pendReg_lastCtx (s : State) (d : RegNo) : (pendReg s d).lastCtx = s.lastCtx := rfl
@[simp] theorem pendReg_tags (s : State) (d : RegNo) : (pendReg s d).tags = s.tags := rfl
@[simp] theorem pendReg_dev (s : State) (d : RegNo) : (pendReg s d).dev = s.dev := rfl

/-! ### retireTo -/

@[simp] theorem retireTo_agenda (s : State) (pc : CodeAddr) : (retireTo s pc).agenda = s.agenda := rfl
@[simp] theorem retireTo_core (s : State) (pc : CodeAddr) : (retireTo s pc).core = s.core := rfl
@[simp] theorem retireTo_slot (s : State) (pc : CodeAddr) : (retireTo s pc).slot = s.slot := rfl
@[simp] theorem retireTo_event (s : State) (pc : CodeAddr) : (retireTo s pc).event = s.event := rfl
@[simp] theorem retireTo_nextId (s : State) (pc : CodeAddr) : (retireTo s pc).nextId = s.nextId := rfl
@[simp] theorem retireTo_freeCtr (s : State) (pc : CodeAddr) : (retireTo s pc).freeCtr = s.freeCtr := rfl
@[simp] theorem retireTo_mem (s : State) (pc : CodeAddr) : (retireTo s pc).mem = s.mem := rfl
@[simp] theorem retireTo_empties (s : State) (pc : CodeAddr) : (retireTo s pc).empties = s.empties := rfl
@[simp] theorem retireTo_marks (s : State) (pc : CodeAddr) : (retireTo s pc).marks = s.marks := rfl
@[simp] theorem retireTo_spilled (s : State) (pc : CodeAddr) : (retireTo s pc).spilled = s.spilled := rfl
@[simp] theorem retireTo_cores (s : State) (pc : CodeAddr) : (retireTo s pc).cores = s.cores := rfl
@[simp] theorem retireTo_contexts (s : State) (pc : CodeAddr) : (retireTo s pc).contexts = s.contexts := rfl
@[simp] theorem retireTo_families (s : State) (pc : CodeAddr) : (retireTo s pc).families = s.families := rfl
@[simp] theorem retireTo_flights (s : State) (pc : CodeAddr) : (retireTo s pc).flights = s.flights := rfl
@[simp] theorem retireTo_tasks (s : State) (pc : CodeAddr) : (retireTo s pc).tasks = s.tasks := rfl
@[simp] theorem retireTo_runs (s : State) (pc : CodeAddr) : (retireTo s pc).runs = s.runs := rfl
@[simp] theorem retireTo_colls (s : State) (pc : CodeAddr) : (retireTo s pc).colls = s.colls := rfl
@[simp] theorem retireTo_mesh (s : State) (pc : CodeAddr) : (retireTo s pc).mesh = s.mesh := rfl
@[simp] theorem retireTo_gangs (s : State) (pc : CodeAddr) : (retireTo s pc).gangs = s.gangs := rfl
@[simp] theorem retireTo_launches (s : State) (pc : CodeAddr) : (retireTo s pc).launches = s.launches := rfl
@[simp] theorem retireTo_deficits (s : State) (pc : CodeAddr) : (retireTo s pc).deficits = s.deficits := rfl
@[simp] theorem retireTo_lastCtx (s : State) (pc : CodeAddr) : (retireTo s pc).lastCtx = s.lastCtx := rfl
@[simp] theorem retireTo_tags (s : State) (pc : CodeAddr) : (retireTo s pc).tags = s.tags := rfl
@[simp] theorem retireTo_dev (s : State) (pc : CodeAddr) : (retireTo s pc).dev = s.dev := rfl

/-! ### retire -/

@[simp] theorem retire_agenda (s : State) : (retire s).agenda = s.agenda := rfl
@[simp] theorem retire_core (s : State) : (retire s).core = s.core := rfl
@[simp] theorem retire_slot (s : State) : (retire s).slot = s.slot := rfl
@[simp] theorem retire_event (s : State) : (retire s).event = s.event := rfl
@[simp] theorem retire_nextId (s : State) : (retire s).nextId = s.nextId := rfl
@[simp] theorem retire_freeCtr (s : State) : (retire s).freeCtr = s.freeCtr := rfl
@[simp] theorem retire_mem (s : State) : (retire s).mem = s.mem := rfl
@[simp] theorem retire_empties (s : State) : (retire s).empties = s.empties := rfl
@[simp] theorem retire_marks (s : State) : (retire s).marks = s.marks := rfl
@[simp] theorem retire_spilled (s : State) : (retire s).spilled = s.spilled := rfl
@[simp] theorem retire_cores (s : State) : (retire s).cores = s.cores := rfl
@[simp] theorem retire_contexts (s : State) : (retire s).contexts = s.contexts := rfl
@[simp] theorem retire_families (s : State) : (retire s).families = s.families := rfl
@[simp] theorem retire_flights (s : State) : (retire s).flights = s.flights := rfl
@[simp] theorem retire_tasks (s : State) : (retire s).tasks = s.tasks := rfl
@[simp] theorem retire_runs (s : State) : (retire s).runs = s.runs := rfl
@[simp] theorem retire_colls (s : State) : (retire s).colls = s.colls := rfl
@[simp] theorem retire_mesh (s : State) : (retire s).mesh = s.mesh := rfl
@[simp] theorem retire_gangs (s : State) : (retire s).gangs = s.gangs := rfl
@[simp] theorem retire_launches (s : State) : (retire s).launches = s.launches := rfl
@[simp] theorem retire_deficits (s : State) : (retire s).deficits = s.deficits := rfl
@[simp] theorem retire_lastCtx (s : State) : (retire s).lastCtx = s.lastCtx := rfl
@[simp] theorem retire_tags (s : State) : (retire s).tags = s.tags := rfl
@[simp] theorem retire_dev (s : State) : (retire s).dev = s.dev := rfl

/-! ### addL -/

@[simp] theorem addL_agenda (s : State) : (addL s).agenda = s.agenda := rfl
@[simp] theorem addL_core (s : State) : (addL s).core = s.core := rfl
@[simp] theorem addL_slot (s : State) : (addL s).slot = s.slot := rfl
@[simp] theorem addL_event (s : State) : (addL s).event = s.event := rfl
@[simp] theorem addL_nextId (s : State) : (addL s).nextId = s.nextId := rfl
@[simp] theorem addL_freeCtr (s : State) : (addL s).freeCtr = s.freeCtr := rfl
@[simp] theorem addL_mem (s : State) : (addL s).mem = s.mem := rfl
@[simp] theorem addL_empties (s : State) : (addL s).empties = s.empties := rfl
@[simp] theorem addL_marks (s : State) : (addL s).marks = s.marks := rfl
@[simp] theorem addL_spilled (s : State) : (addL s).spilled = s.spilled := rfl
@[simp] theorem addL_cores (s : State) : (addL s).cores = s.cores := rfl
@[simp] theorem addL_contexts (s : State) : (addL s).contexts = s.contexts := rfl
@[simp] theorem addL_families (s : State) : (addL s).families = s.families := rfl
@[simp] theorem addL_flights (s : State) : (addL s).flights = s.flights := rfl
@[simp] theorem addL_tasks (s : State) : (addL s).tasks = s.tasks := rfl
@[simp] theorem addL_runs (s : State) : (addL s).runs = s.runs := rfl
@[simp] theorem addL_colls (s : State) : (addL s).colls = s.colls := rfl
@[simp] theorem addL_mesh (s : State) : (addL s).mesh = s.mesh := rfl
@[simp] theorem addL_gangs (s : State) : (addL s).gangs = s.gangs := rfl
@[simp] theorem addL_launches (s : State) : (addL s).launches = s.launches := rfl
@[simp] theorem addL_deficits (s : State) : (addL s).deficits = s.deficits := rfl
@[simp] theorem addL_lastCtx (s : State) : (addL s).lastCtx = s.lastCtx := rfl
@[simp] theorem addL_tags (s : State) : (addL s).tags = s.tags := rfl
@[simp] theorem addL_dev (s : State) : (addL s).dev = s.dev := rfl

/-! ### addS -/

@[simp] theorem addS_agenda (s : State) : (addS s).agenda = s.agenda := rfl
@[simp] theorem addS_core (s : State) : (addS s).core = s.core := rfl
@[simp] theorem addS_slot (s : State) : (addS s).slot = s.slot := rfl
@[simp] theorem addS_event (s : State) : (addS s).event = s.event := rfl
@[simp] theorem addS_nextId (s : State) : (addS s).nextId = s.nextId := rfl
@[simp] theorem addS_freeCtr (s : State) : (addS s).freeCtr = s.freeCtr := rfl
@[simp] theorem addS_mem (s : State) : (addS s).mem = s.mem := rfl
@[simp] theorem addS_empties (s : State) : (addS s).empties = s.empties := rfl
@[simp] theorem addS_marks (s : State) : (addS s).marks = s.marks := rfl
@[simp] theorem addS_spilled (s : State) : (addS s).spilled = s.spilled := rfl
@[simp] theorem addS_cores (s : State) : (addS s).cores = s.cores := rfl
@[simp] theorem addS_contexts (s : State) : (addS s).contexts = s.contexts := rfl
@[simp] theorem addS_families (s : State) : (addS s).families = s.families := rfl
@[simp] theorem addS_flights (s : State) : (addS s).flights = s.flights := rfl
@[simp] theorem addS_tasks (s : State) : (addS s).tasks = s.tasks := rfl
@[simp] theorem addS_runs (s : State) : (addS s).runs = s.runs := rfl
@[simp] theorem addS_colls (s : State) : (addS s).colls = s.colls := rfl
@[simp] theorem addS_mesh (s : State) : (addS s).mesh = s.mesh := rfl
@[simp] theorem addS_gangs (s : State) : (addS s).gangs = s.gangs := rfl
@[simp] theorem addS_launches (s : State) : (addS s).launches = s.launches := rfl
@[simp] theorem addS_deficits (s : State) : (addS s).deficits = s.deficits := rfl
@[simp] theorem addS_lastCtx (s : State) : (addS s).lastCtx = s.lastCtx := rfl
@[simp] theorem addS_tags (s : State) : (addS s).tags = s.tags := rfl
@[simp] theorem addS_dev (s : State) : (addS s).dev = s.dev := rfl

/-! ### addC -/

@[simp] theorem addC_agenda (s : State) : (addC s).agenda = s.agenda := rfl
@[simp] theorem addC_core (s : State) : (addC s).core = s.core := rfl
@[simp] theorem addC_slot (s : State) : (addC s).slot = s.slot := rfl
@[simp] theorem addC_event (s : State) : (addC s).event = s.event := rfl
@[simp] theorem addC_nextId (s : State) : (addC s).nextId = s.nextId := rfl
@[simp] theorem addC_freeCtr (s : State) : (addC s).freeCtr = s.freeCtr := rfl
@[simp] theorem addC_mem (s : State) : (addC s).mem = s.mem := rfl
@[simp] theorem addC_empties (s : State) : (addC s).empties = s.empties := rfl
@[simp] theorem addC_marks (s : State) : (addC s).marks = s.marks := rfl
@[simp] theorem addC_spilled (s : State) : (addC s).spilled = s.spilled := rfl
@[simp] theorem addC_cores (s : State) : (addC s).cores = s.cores := rfl
@[simp] theorem addC_contexts (s : State) : (addC s).contexts = s.contexts := rfl
@[simp] theorem addC_families (s : State) : (addC s).families = s.families := rfl
@[simp] theorem addC_flights (s : State) : (addC s).flights = s.flights := rfl
@[simp] theorem addC_tasks (s : State) : (addC s).tasks = s.tasks := rfl
@[simp] theorem addC_runs (s : State) : (addC s).runs = s.runs := rfl
@[simp] theorem addC_colls (s : State) : (addC s).colls = s.colls := rfl
@[simp] theorem addC_mesh (s : State) : (addC s).mesh = s.mesh := rfl
@[simp] theorem addC_gangs (s : State) : (addC s).gangs = s.gangs := rfl
@[simp] theorem addC_launches (s : State) : (addC s).launches = s.launches := rfl
@[simp] theorem addC_deficits (s : State) : (addC s).deficits = s.deficits := rfl
@[simp] theorem addC_lastCtx (s : State) : (addC s).lastCtx = s.lastCtx := rfl
@[simp] theorem addC_tags (s : State) : (addC s).tags = s.tags := rfl
@[simp] theorem addC_dev (s : State) : (addC s).dev = s.dev := rfl

/-! ### addM -/

@[simp] theorem addM_agenda (s : State) : (addM s).agenda = s.agenda := rfl
@[simp] theorem addM_core (s : State) : (addM s).core = s.core := rfl
@[simp] theorem addM_slot (s : State) : (addM s).slot = s.slot := rfl
@[simp] theorem addM_event (s : State) : (addM s).event = s.event := rfl
@[simp] theorem addM_nextId (s : State) : (addM s).nextId = s.nextId := rfl
@[simp] theorem addM_freeCtr (s : State) : (addM s).freeCtr = s.freeCtr := rfl
@[simp] theorem addM_mem (s : State) : (addM s).mem = s.mem := rfl
@[simp] theorem addM_empties (s : State) : (addM s).empties = s.empties := rfl
@[simp] theorem addM_marks (s : State) : (addM s).marks = s.marks := rfl
@[simp] theorem addM_spilled (s : State) : (addM s).spilled = s.spilled := rfl
@[simp] theorem addM_cores (s : State) : (addM s).cores = s.cores := rfl
@[simp] theorem addM_contexts (s : State) : (addM s).contexts = s.contexts := rfl
@[simp] theorem addM_families (s : State) : (addM s).families = s.families := rfl
@[simp] theorem addM_flights (s : State) : (addM s).flights = s.flights := rfl
@[simp] theorem addM_tasks (s : State) : (addM s).tasks = s.tasks := rfl
@[simp] theorem addM_runs (s : State) : (addM s).runs = s.runs := rfl
@[simp] theorem addM_colls (s : State) : (addM s).colls = s.colls := rfl
@[simp] theorem addM_mesh (s : State) : (addM s).mesh = s.mesh := rfl
@[simp] theorem addM_gangs (s : State) : (addM s).gangs = s.gangs := rfl
@[simp] theorem addM_launches (s : State) : (addM s).launches = s.launches := rfl
@[simp] theorem addM_deficits (s : State) : (addM s).deficits = s.deficits := rfl
@[simp] theorem addM_lastCtx (s : State) : (addM s).lastCtx = s.lastCtx := rfl
@[simp] theorem addM_tags (s : State) : (addM s).tags = s.tags := rfl
@[simp] theorem addM_dev (s : State) : (addM s).dev = s.dev := rfl

/-! ### touchHome -/

@[simp] theorem touchHome_agenda (s : State) (k : Nat) : (touchHome s k).agenda = s.agenda := rfl
@[simp] theorem touchHome_core (s : State) (k : Nat) : (touchHome s k).core = s.core := rfl
@[simp] theorem touchHome_slot (s : State) (k : Nat) : (touchHome s k).slot = s.slot := rfl
@[simp] theorem touchHome_event (s : State) (k : Nat) : (touchHome s k).event = s.event := rfl
@[simp] theorem touchHome_nextId (s : State) (k : Nat) : (touchHome s k).nextId = s.nextId := rfl
@[simp] theorem touchHome_freeCtr (s : State) (k : Nat) : (touchHome s k).freeCtr = s.freeCtr := rfl
@[simp] theorem touchHome_mem (s : State) (k : Nat) : (touchHome s k).mem = s.mem := rfl
@[simp] theorem touchHome_empties (s : State) (k : Nat) : (touchHome s k).empties = s.empties := rfl
@[simp] theorem touchHome_marks (s : State) (k : Nat) : (touchHome s k).marks = s.marks := rfl
@[simp] theorem touchHome_spilled (s : State) (k : Nat) : (touchHome s k).spilled = s.spilled := rfl
@[simp] theorem touchHome_cores (s : State) (k : Nat) : (touchHome s k).cores = s.cores := rfl
@[simp] theorem touchHome_contexts (s : State) (k : Nat) : (touchHome s k).contexts = s.contexts := rfl
@[simp] theorem touchHome_families (s : State) (k : Nat) : (touchHome s k).families = s.families := rfl
@[simp] theorem touchHome_flights (s : State) (k : Nat) : (touchHome s k).flights = s.flights := rfl
@[simp] theorem touchHome_tasks (s : State) (k : Nat) : (touchHome s k).tasks = s.tasks := rfl
@[simp] theorem touchHome_runs (s : State) (k : Nat) : (touchHome s k).runs = s.runs := rfl
@[simp] theorem touchHome_colls (s : State) (k : Nat) : (touchHome s k).colls = s.colls := rfl
@[simp] theorem touchHome_mesh (s : State) (k : Nat) : (touchHome s k).mesh = s.mesh := rfl
@[simp] theorem touchHome_gangs (s : State) (k : Nat) : (touchHome s k).gangs = s.gangs := rfl
@[simp] theorem touchHome_launches (s : State) (k : Nat) : (touchHome s k).launches = s.launches := rfl
@[simp] theorem touchHome_deficits (s : State) (k : Nat) : (touchHome s k).deficits = s.deficits := rfl
@[simp] theorem touchHome_lastCtx (s : State) (k : Nat) : (touchHome s k).lastCtx = s.lastCtx := rfl
@[simp] theorem touchHome_tags (s : State) (k : Nat) : (touchHome s k).tags = s.tags := rfl
@[simp] theorem touchHome_dev (s : State) (k : Nat) : (touchHome s k).dev = s.dev := rfl

/-! ### Threads and cores -/

@[simp] theorem getThread_putThread_same (s : State) (c t : Nat) (th : Thread) : getThread (putThread s c t th) c t = th :=
  mapGet_set_same _ _ _ _

theorem getThread_putThread_other (s : State) {c t c2 t2 : Nat} (th : Thread) (h : c2 * 32 + t2 ≠ c * 32 + t) :
    getThread (putThread s c t th) c2 t2 = getThread s c2 t2 := mapGet_set_other _ _ _ h

@[simp] theorem cur_setCur (s : State) (th : Thread) : cur (setCur s th) = th := getThread_putThread_same _ _ _ _

theorem getThread_setCur_other (s : State) {c t : Nat} (th : Thread) (h : c * 32 + t ≠ s.core * 32 + s.slot) :
    getThread (setCur s th) c t = getThread s c t := getThread_putThread_other _ _ h

@[simp] theorem getCore_putCore_same (s : State) (c : Nat) (co : Core) : getCore (putCore s c co) c = co :=
  mapGet_set_same _ _ _ _

theorem getCore_putCore_other (s : State) {c c2 : Nat} (co : Core) (h : c2 ≠ c) :
    getCore (putCore s c co) c2 = getCore s c2 := mapGet_set_other _ _ _ h

@[simp] theorem getCore_putThread (s : State) (c t c2 : Nat) (th : Thread) : getCore (putThread s c t th) c2 = getCore s c2 := rfl
@[simp] theorem getThread_putCore (s : State) (c c2 t : Nat) (co : Core) : getThread (putCore s c co) c2 t = getThread s c2 t := rfl
@[simp] theorem cur_putCore (s : State) (c : Nat) (co : Core) : cur (putCore s c co) = cur s := rfl
@[simp] theorem getCore_setCur (s : State) (th : Thread) (c : Nat) : getCore (setCur s th) c = getCore s c := rfl
@[simp] theorem getCtx_setCur (s : State) (th : Thread) (n : Nat) : getCtx (setCur s th) n = getCtx s n := rfl
@[simp] theorem getFam_setCur (s : State) (th : Thread) (f : Nat) : getFam (setCur s th) f = getFam s f := rfl
@[simp] theorem peek_setCur (s : State) (th : Thread) (k n : Nat) : peek (setCur s th) k n = peek s k n := rfl

theorem mapDel_put {α : Type} (m : SMap α) (k : Nat) (v : α) : mapDel (mapPut m k v) k = mapDel m k := by
  have key : ∀ m : SMap α, (∀ p ∈ m, p.1 ≠ k) → mapDel (mapIns m k v) k = m := by
    intro m
    induction m with
    | nil => intro _; simp [mapIns, mapDel]
    | cons q r ih =>
      intro hq
      obtain ⟨i, w⟩ := q
      have hi : i ≠ k := hq (i, w) (List.mem_cons_self ..)
      have hr : mapDel r k = r := List.filter_eq_self.2 (fun p hp => by simpa using hq p (List.mem_cons_of_mem _ hp))
      by_cases hl : k < i
      · simpa [mapIns, hl, mapDel, hi] using hr
      · simpa [mapIns, hl, mapDel, hi] using ih (fun p hp => hq p (List.mem_cons_of_mem _ hp))
  exact key _ (fun p hp => ((mem_del _ _ _).1 hp).2)

theorem mapDel_set {α : Type} [DecidableEq α] (d : α) (m : SMap α) (k : Nat) (v : α) :
    mapDel (mapSet d m k v) k = mapDel m k := by
  unfold mapSet
  split
  · exact List.filter_eq_self.2 (fun p hp => by simpa using ((mem_del _ _ _).1 hp).2)
  · exact mapDel_put _ _ _

/-- The later of two writes stands. -/
theorem mapSet_set {α : Type} [DecidableEq α] (d : α) (m : SMap α) (k : Nat) (v w : α) :
    mapSet d (mapSet d m k v) k w = mapSet d m k w := by
  show (if w = d then mapDel (mapSet d m k v) k else mapIns (mapDel (mapSet d m k v) k) k w) = _
  rw [mapDel_set]; rfl

@[simp] theorem putThread_putThread (s : State) (c t : Nat) (a b : Thread) :
    putThread (putThread s c t a) c t b = putThread s c t b := by
  show { s with threads := mapSet Thread.free (mapSet Thread.free s.threads (c * 32 + t) a) (c * 32 + t) b } = _
  rw [mapSet_set]; rfl

@[simp] theorem setCur_setCur (s : State) (a b : Thread) : setCur (setCur s a) b = setCur s b := putThread_putThread _ _ _ _ _

/-! ### Registers -/

@[simp] theorem getReg_setReg_same (th : Thread) {d : RegNo} (h : d ≠ 0) (r : Reg) : getReg (setReg th d r) d = r := by
  unfold getReg setReg
  rw [if_neg h, if_neg h]
  exact mapGet_set_same _ _ _ _

theorem getReg_setReg_other (th : Thread) {d n : RegNo} (h : n ≠ d) (r : Reg) : getReg (setReg th d r) n = getReg th n := by
  unfold getReg setReg
  by_cases hn : n = 0
  · rw [if_pos hn, if_pos hn]
  · rw [if_neg hn, if_neg hn]
    by_cases hd : d = 0
    · rw [if_pos hd]
    · rw [if_neg hd]
      exact mapGet_set_other _ _ _ (fun e => h (BitVec.eq_of_toNat_eq e))

@[simp] theorem getReg_zero (th : Thread) : getReg th 0 = { Reg.empty with full := true } := by simp [getReg]

@[simp] theorem setReg_status (th : Thread) (d : RegNo) (r : Reg) : (setReg th d r).status = th.status := by unfold setReg; split <;> rfl
@[simp] theorem setReg_kind (th : Thread) (d : RegNo) (r : Reg) : (setReg th d r).kind = th.kind := by unfold setReg; split <;> rfl
@[simp] theorem setReg_uid (th : Thread) (d : RegNo) (r : Reg) : (setReg th d r).uid = th.uid := by unfold setReg; split <;> rfl
@[simp] theorem setReg_ctx (th : Thread) (d : RegNo) (r : Reg) : (setReg th d r).ctx = th.ctx := by unfold setReg; split <;> rfl
@[simp] theorem setReg_fam (th : Thread) (d : RegNo) (r : Reg) : (setReg th d r).fam = th.fam := by unfold setReg; split <;> rfl
@[simp] theorem setReg_member (th : Thread) (d : RegNo) (r : Reg) : (setReg th d r).member = th.member := by unfold setReg; split <;> rfl
@[simp] theorem setReg_work (th : Thread) (d : RegNo) (r : Reg) : (setReg th d r).work = th.work := by unfold setReg; split <;> rfl
@[simp] theorem setReg_item (th : Thread) (d : RegNo) (r : Reg) : (setReg th d r).item = th.item := by unfold setReg; split <;> rfl
@[simp] theorem setReg_hdr (th : Thread) (d : RegNo) (r : Reg) : (setReg th d r).hdr = th.hdr := by unfold setReg; split <;> rfl
@[simp] theorem setReg_pc (th : Thread) (d : RegNo) (r : Reg) : (setReg th d r).pc = th.pc := by unfold setReg; split <;> rfl
@[simp] theorem setReg_tiles (th : Thread) (d : RegNo) (r : Reg) : (setReg th d r).tiles = th.tiles := by unfold setReg; split <;> rfl
@[simp] theorem setReg_tilePoison (th : Thread) (d : RegNo) (r : Reg) : (setReg th d r).tilePoison = th.tilePoison := by unfold setReg; split <;> rfl
@[simp] theorem setReg_shapes (th : Thread) (d : RegNo) (r : Reg) : (setReg th d r).shapes = th.shapes := by unfold setReg; split <;> rfl
@[simp] theorem setReg_point (th : Thread) (d : RegNo) (r : Reg) : (setReg th d r).point = th.point := by unfold setReg; split <;> rfl
@[simp] theorem setReg_eng (th : Thread) (d : RegNo) (r : Reg) : (setReg th d r).eng = th.eng := by unfold setReg; split <;> rfl
@[simp] theorem setReg_fpStatus (th : Thread) (d : RegNo) (r : Reg) : (setReg th d r).fpStatus = th.fpStatus := by unfold setReg; split <;> rfl
@[simp] theorem setReg_cntL (th : Thread) (d : RegNo) (r : Reg) : (setReg th d r).cntL = th.cntL := by unfold setReg; split <;> rfl
@[simp] theorem setReg_cntS (th : Thread) (d : RegNo) (r : Reg) : (setReg th d r).cntS = th.cntS := by unfold setReg; split <;> rfl
@[simp] theorem setReg_cntC (th : Thread) (d : RegNo) (r : Reg) : (setReg th d r).cntC = th.cntC := by unfold setReg; split <;> rfl
@[simp] theorem setReg_cntM (th : Thread) (d : RegNo) (r : Reg) : (setReg th d r).cntM = th.cntM := by unfold setReg; split <;> rfl
@[simp] theorem setReg_genP (th : Thread) (d : RegNo) (r : Reg) : (setReg th d r).genP = th.genP := by unfold setReg; split <;> rfl
@[simp] theorem setReg_genQ (th : Thread) (d : RegNo) (r : Reg) : (setReg th d r).genQ = th.genQ := by unfold setReg; split <;> rfl
@[simp] theorem setReg_guard0 (th : Thread) (d : RegNo) (r : Reg) : (setReg th d r).guard0 = th.guard0 := by unfold setReg; split <;> rfl
@[simp] theorem setReg_guard1 (th : Thread) (d : RegNo) (r : Reg) : (setReg th d r).guard1 = th.guard1 := by unfold setReg; split <;> rfl
@[simp] theorem setReg_famTable (th : Thread) (d : RegNo) (r : Reg) : (setReg th d r).famTable = th.famTable := by unfold setReg; split <;> rfl
@[simp] theorem setReg_ports (th : Thread) (d : RegNo) (r : Reg) : (setReg th d r).ports = th.ports := by unfold setReg; split <;> rfl
@[simp] theorem setReg_stackBase (th : Thread) (d : RegNo) (r : Reg) : (setReg th d r).stackBase = th.stackBase := by unfold setReg; split <;> rfl
@[simp] theorem setReg_frames (th : Thread) (d : RegNo) (r : Reg) : (setReg th d r).frames = th.frames := by unfold setReg; split <;> rfl
@[simp] theorem setReg_fences (th : Thread) (d : RegNo) (r : Reg) : (setReg th d r).fences = th.fences := by unfold setReg; split <;> rfl
@[simp] theorem setReg_pending (th : Thread) (d : RegNo) (r : Reg) : (setReg th d r).pending = th.pending := by unfold setReg; split <;> rfl
@[simp] theorem setReg_indetOps (th : Thread) (d : RegNo) (r : Reg) : (setReg th d r).indetOps = th.indetOps := by unfold setReg; split <;> rfl
@[simp] theorem setReg_errSel (th : Thread) (d : RegNo) (r : Reg) : (setReg th d r).errSel = th.errSel := by unfold setReg; split <;> rfl
@[simp] theorem setReg_ctxSel (th : Thread) (d : RegNo) (r : Reg) : (setReg th d r).ctxSel = th.ctxSel := by unfold setReg; split <;> rfl
@[simp] theorem setReg_gangMask (th : Thread) (d : RegNo) (r : Reg) : (setReg th d r).gangMask = th.gangMask := by unfold setReg; split <;> rfl
@[simp] theorem setReg_cfgWait (th : Thread) (d : RegNo) (r : Reg) : (setReg th d r).cfgWait = th.cfgWait := by unfold setReg; split <;> rfl
@[simp] theorem setReg_waited (th : Thread) (d : RegNo) (r : Reg) : (setReg th d r).waited = th.waited := by unfold setReg; split <;> rfl
@[simp] theorem setReg_yielded (th : Thread) (d : RegNo) (r : Reg) : (setReg th d r).yielded = th.yielded := by unfold setReg; split <;> rfl
@[simp] theorem setReg_yieldFor (th : Thread) (d : RegNo) (r : Reg) : (setReg th d r).yieldFor = th.yieldFor := by unfold setReg; split <;> rfl
@[simp] theorem setReg_touched (th : Thread) (d : RegNo) (r : Reg) : (setReg th d r).touched = th.touched := by unfold setReg; split <;> rfl
@[simp] theorem setReg_wantFold (th : Thread) (d : RegNo) (r : Reg) : (setReg th d r).wantFold = th.wantFold := by unfold setReg; split <;> rfl

end Sys2Proof.Machine
end

