-- ==== Sys2Proof/Laws/Forms.lean ====
section
/-! SUPPORT. What the shared operand forms answer once their operands are ready: one lemma for each form. -/
namespace Sys2Proof.Machine

/-! ### The check monad -/

@[simp] theorem Except.ok_bind {α β : Type} (x : α) (f : α → Except Stop β) : ((Except.ok x : Except Stop α) >>= f) = f x := rfl
@[simp] theorem Except.error_bind {α β : Type} (e : Stop) (f : α → Except Stop β) :
    ((Except.error e : Except Stop α) >>= f) = .error e := rfl

/-- A body that answers runs to its answer. -/
theorem runBody_ok {s t : State} {b : Except Stop State} (hl : Live s) (h : b = .ok t) : runBody s b = .next t := by
  subst h
  unfold Live at hl
  simp [runBody, finish, hl]

/-- A body that traps leaves the trap taken. -/
theorem runBody_trap {s : State} {b : Except Stop State} {c : Nat} {v : Word} (hl : Live s) (h : b = .error (.trap c v)) :
    runBody s b = .next (trapped s c v) := by
  subst h
  unfold Live at hl
  simp [runBody, finish, hl, trapped]

/-- A body that waits leaves the thread waiting. -/
theorem runBody_wait {s : State} {b : Except Stop State} {st : Status} (hl : Live s) (h : b = .error (.wait st)) :
    runBody s b = .next (waits s st) := by
  subst h
  unfold Live at hl
  simp [runBody, finish, hl, waits]

/-! ### Scalar forms -/

theorem regForm_ok {s : State} {srcs : List RegNo} {d : RegNo} {f : List Word → Word} {vs : List Word} {th : Thread}
    (h : Ready s srcs d vs th) : regForm s srcs d f = .ok (wrote s th d (f vs)) := by
  rw [regForm, h.2]; rfl

theorem unary_next {s : State} {d a : RegNo} {f : Word → Word} {x : Word} {th : Thread} (h : Ready s [a] d [x] th) :
    unary s d a f = .next (wrote s th d (f x)) := by
  rw [unary]; exact runBody_ok h.1 (regForm_ok (f := on1 f) (vs := [x]) h)

theorem binary_next {s : State} {d a b : RegNo} {f : Word → Word → Word} {x y : Word} {th : Thread}
    (h : Ready s [a, b] d [x, y] th) : binary s d a b f = .next (wrote s th d (f x y)) := by
  rw [binary]; exact runBody_ok h.1 (regForm_ok (f := on2 f) (vs := [x, y]) h)

theorem ternary_next {s : State} {d a b : RegNo} {f : Word → Word → Word → Word} {x y z : Word} {th : Thread}
    (h : Ready s [a, b, d] d [x, y, z] th) : ternary s d a b f = .next (wrote s th d (f x y z)) := by
  rw [ternary]; exact runBody_ok h.1 (regForm_ok (f := on3 f) (vs := [x, y, z]) h)

theorem nullary_next {s : State} {d : RegNo} {f : Thread → Word} {th : Thread} (h : Ready s [] d [] th) :
    nullary s d f = .next (wrote s th d (f (cur s))) := by
  rw [nullary]; exact runBody_ok h.1 (regForm_ok (f := fun _ => f (cur s)) h)

/-- Sending a request puts it at the end of the flights under a fresh number, and nothing else changes unless it is parked. -/
theorem sendRequest_eq {s : State} {r : Request} (h : r.parked = false) :
    sendRequest s r = { s with flights := s.flights ++ [{ r with id := s.nextId }], nextId := s.nextId + 1 } := by
  simp [sendRequest, h]

theorem later_next {s : State} {d a b : RegNo} {f : Word → Word → Word} {x y : Word} {th : Thread}
    (h : Ready s [a, b] d [x, y] th) :
    later s d a b f = .next (retire (sendRequest (pendReg (setCur s th) d)
      { threadRequest s with kind := .delayed, d := d, resp := some (f x y) })) :=
  runBody_ok h.1 (by rw [laterForm, h.2]; rfl)

/-! ### Plain operands -/

theorem checkNames_plain {th : Thread} {ns : List RegNo} (h : ns.all (plainSource th) = true) : checkNames th ns = .ok () := by
  have h2 : ns.all (fun n => decide (n.toNat < windowSize th.hdr)) = true := by
    rw [List.all_eq_true] at h ⊢
    intro n hn
    have := h n hn
    simp only [plainSource, Bool.and_eq_true] at this
    exact this.1.1.1.1
  rw [checkNames, if_pos h2]

theorem takeSource_plain {th : Thread} {n : RegNo} (h : plainSource th n = true) :
    takeSource th n = some (getReg th n, none, th) := by
  simp only [plainSource, Bool.and_eq_true, Option.isNone_iff_eq_none] at h
  simp [takeSource, h.1.1.1.2, h.1.1.2]

theorem takeSources_plain {th : Thread} {ns : List RegNo} (h : ns.all (plainSource th) = true) :
    takeSources th ns = some (ns.map (fun n => (getReg th n, none)), th) := by
  induction ns with
  | nil => rfl
  | cons n r ih =>
    simp only [List.all_cons, Bool.and_eq_true] at h
    simp [takeSources, takeSource_plain h.1, ih h.2]

theorem portOf_none {th : Thread} {n : RegNo} (h : portOf th n = none) : ∀ p ∈ th.ports, (p.reg == n) = false := by
  intro p hp
  have := List.find?_eq_none.1 h p hp
  simpa using this

theorem readSources_plain {th : Thread} {ns : List RegNo} (h : ns.all (plainSource th) = true) :
    readSources th ns = .ok (ns.map (fun n => (getReg th n).val), th) := by
  have hp : ∀ n ∈ ns, plainSource th n = true := by simpa [List.all_eq_true] using h
  have h1 : ns.any (fun n => th.ports.any (fun p => p.reg == n && p.output)) = false := by
    rw [List.any_eq_false]
    intro n hn
    rw [Bool.not_eq_true, List.any_eq_false]
    intro p hpp
    have hq := hp n hn
    simp only [plainSource, Bool.and_eq_true, Option.isNone_iff_eq_none] at hq
    simp [portOf_none hq.1.1.1.2 p hpp]
  have h2 : ∀ g : Reg × Option Fetched → Bool, (∀ r, g (r, none) = false) →
      (ns.map (fun n => (getReg th n, (none : Option Fetched)))).find? g = none := by
    intro g hg
    simp only [List.find?_eq_none, List.mem_map]
    rintro x ⟨n, _, rfl⟩
    simp [hg]
  have h3 : (ns.map (fun n => (getReg th n, (none : Option Fetched)))).find? (fun x => x.1.poison) = none := by
    simp only [List.find?_eq_none, List.mem_map]
    rintro x ⟨n, hn, rfl⟩
    have hq := hp n hn
    simp only [plainSource, Bool.and_eq_true] at hq
    simpa using hq.1.2
  have h4 : (ns.map (fun n => (getReg th n, (none : Option Fetched)))).find? (fun x => x.1.indet) = none := by
    simp only [List.find?_eq_none, List.mem_map]
    rintro x ⟨n, hn, rfl⟩
    have hq := hp n hn
    simp only [plainSource, Bool.and_eq_true] at hq
    simpa using hq.2
  unfold readSources
  rw [if_neg (by simp [h1]), takeSources_plain h]
  dsimp only
  rw [h2 _ (fun _ => rfl)]
  simp only [h3, h4, List.map_map]
  rfl

/-- Only a member reads dependents, so nothing is owed to any other thread's sources through a predecessor. -/
theorem depOwed_of_kind {s : State} (h : (cur s).kind ≠ .member) (n : RegNo) : depOwed s n = false := by
  simp [depOwed, h]

/-- A register that is no dependent is its thread's own. -/
theorem depOwed_of_own {s : State} {n : RegNo} (h : n.toNat < 1 + (cur s).hdr.g + (cur s).hdr.s) : depOwed s n = false := by
  have h2 : ¬ (1 + (cur s).hdr.g + (cur s).hdr.s ≤ n.toNat) := by omega
  simp [depOwed, h2]

theorem readFrom_eq {s : State} {ns : List RegNo} (h : ns.any (depOwed s) = false) : readFrom s ns = readSources (cur s) ns := by
  simp only [readFrom, depsReady, h]
  rfl

theorem readOnlyForm_plain {s : State} {ns : List RegNo} (h : ns.all (plainSource (cur s)) = true)
    (hw : ns.any (depOwed s) = false) :
    readOnlyForm s ns = .ok (ns.map (fun n => (getReg (cur s) n).val), cur s) := by
  simp [readOnlyForm, readFrom_eq hw, checkNames_plain h, readSources_plain h]

theorem checkDst_plain {th : Thread} {d : RegNo} (h : plainDest th d = true) : checkDst th d = .ok () := by
  simp only [plainDest, Bool.and_eq_true, decide_eq_true_eq, Bool.not_eq_true', Option.isNone_iff_eq_none] at h
  have hp : (th.ports.any (fun p => p.reg == d && !p.output)) = false := by
    rw [List.any_eq_false]
    intro p hpp
    simp [portOf_none h.1.2 p hpp]
  rw [checkDst, if_pos ⟨h.1.1.1, h.1.1.2, hp⟩]

theorem dstReady_plain {s : State} {th : Thread} {d : RegNo} (h : plainDest th d = true) : dstReady s th d = .ok () := by
  simp only [plainDest, Bool.and_eq_true, Bool.not_eq_true', Option.isNone_iff_eq_none] at h
  have hp : (th.ports.any (fun p => p.reg == d && p.output)) = false := by
    rw [List.any_eq_false]
    intro p hpp
    simp [portOf_none h.1.2 p hpp]
  rw [dstReady, if_neg (by simp [h.2]), if_neg (by simp [hp])]

theorem readForm_plain {s : State} {ns : List RegNo} {d : RegNo} (h : ns.all (plainSource (cur s)) = true)
    (hw : ns.any (depOwed s) = false) (hd : plainDest (cur s) d = true) : readForm s ns d = .ok (ns.map (fun n => (getReg (cur s) n).val), cur s) := by
  simp [readForm, readFrom_eq hw, checkNames_plain h, readSources_plain h, checkDst_plain hd, dstReady_plain hd]

end Sys2Proof.Machine
end

