-- ==== Sys2Proof/Laws/PerInstr.lean ====
section
/-! SUPPORT. The families of statements made per instruction. Major: an instruction's word carries in bits 31:26 the major opcode
that R55 and R63 to R86 give it. -/
namespace Sys2Proof.Laws.Major
open Sys2Proof

set_option Elab.async false

/-- The major opcode of an instruction. -/
def majorOf : Instr → BitVec 6
  | .add _ _ _ => 0
  | .sub _ _ _ => 0
  | .and _ _ _ => 0
  | .or _ _ _ => 0
  | .xor _ _ _ => 0
  | .andn _ _ _ => 0
  | .orn _ _ _ => 0
  | .xnor _ _ _ => 0
  | .shl _ _ _ => 0
  | .shr _ _ _ => 0
  | .sar _ _ _ => 0
  | .rol _ _ _ => 0
  | .ror _ _ _ => 0
  | .slt _ _ _ => 0
  | .sltz _ _ _ => 0
  | .seq _ _ _ => 0
  | .sne _ _ _ => 0
  | .min _ _ _ => 0
  | .max _ _ _ => 0
  | .minz _ _ _ => 0
  | .maxz _ _ _ => 0
  | .qadd _ _ _ => 0
  | .qaddz _ _ _ => 0
  | .qsub _ _ _ => 0
  | .qsubz _ _ _ => 0
  | .abs _ _ => 0
  | .sextI8 _ _ => 0
  | .sextI16 _ _ => 0
  | .sextI32 _ _ => 0
  | .zextZ8 _ _ => 0
  | .zextZ16 _ _ => 0
  | .zextZ32 _ _ => 0
  | .addi _ _ _ => 1
  | .andi _ _ _ => 2
  | .ori _ _ _ => 3
  | .xori _ _ _ => 4
  | .shli _ _ _ => 5
  | .shri _ _ _ => 5
  | .sari _ _ _ => 5
  | .rori _ _ _ => 5
  | .slti _ _ _ => 6
  | .lih _ _ => 7
  | .pcadd _ _ => 8
  | .mul _ _ _ => 9
  | .mulh _ _ _ => 9
  | .mulhz _ _ _ => 9
  | .div _ _ _ => 9
  | .divz _ _ _ => 9
  | .rem _ _ _ => 9
  | .remz _ _ _ => 9
  | .clmul _ _ _ => 10
  | .clmulh _ _ _ => 10
  | .pop _ _ => 10
  | .clz _ _ => 10
  | .ctz _ _ => 10
  | .bext _ _ _ => 10
  | .bins _ _ _ => 10
  | .sel _ _ _ => 10
  | .brev _ _ => 10
  | .bswap _ _ => 10
  | .fadd _ _ _ _ _ => 11
  | .fsub _ _ _ _ _ => 11
  | .fmul _ _ _ _ _ => 11
  | .fdiv _ _ _ _ _ => 11
  | .frcps _ _ _ _ _ => 11
  | .frsqs _ _ _ _ _ => 11
  | .fmin _ _ _ _ => 11
  | .fmax _ _ _ _ => 11
  | .fsgnj _ _ _ _ => 11
  | .fsgnjn _ _ _ _ => 11
  | .fsgnjx _ _ _ _ => 11
  | .feq _ _ _ _ => 11
  | .flt _ _ _ _ => 11
  | .fle _ _ _ _ => 11
  | .fsqrt _ _ _ _ => 11
  | .frcp _ _ _ _ => 11
  | .frsq _ _ _ _ => 11
  | .fclass _ _ _ => 11
  | .fcvt _ _ _ _ _ => 11
  | .fcvti _ _ _ _ _ => 11
  | .icvtf _ _ _ _ _ => 11
  | .fmaF64 _ _ _ _ => 0x0C
  | .fmsF64 _ _ _ _ => 0x0C
  | .fmaF32 _ _ _ _ => 0x0C
  | .fmsF32 _ _ _ _ => 0x0C
  | .ldI8 _ _ _ => 16
  | .ldZ8 _ _ _ => 17
  | .ldI16 _ _ _ => 18
  | .ldZ16 _ _ _ => 19
  | .ldI32 _ _ _ => 20
  | .ldZ32 _ _ _ => 21
  | .ldI64 _ _ _ => 22
  | .ldx _ _ _ _ => 23
  | .ldf _ _ _ _ => 23
  | .lde _ _ _ _ => 23
  | .ldrd _ _ _ _ => 23
  | .fstat _ _ _ => 23
  | .stI8 _ _ _ => 24
  | .stI16 _ _ _ => 25
  | .stI32 _ _ _ => 26
  | .stI64 _ _ _ => 27
  | .amo _ _ _ _ _ => 28
  | .red _ _ _ _ => 28
  | .cas _ _ _ _ => 28
  | .stf _ _ _ => 28
  | .ste _ _ _ _ => 28
  | .fen _ _ _ => 0x1D
  | .wait _ _ _ _ => 0x1D
  | .bar _ => 29
  | .beq _ _ _ => 32
  | .bne _ _ _ => 33
  | .blt _ _ _ => 34
  | .bge _ _ _ => 35
  | .bltz _ _ _ => 36
  | .bgez _ _ _ => 37
  | .jal _ _ => 38
  | .jalr _ _ _ => 39
  | .crt _ _ => 40
  | .sync _ _ => 40
  | .brk _ => 40
  | .fput _ _ _ => 40
  | .fputS _ _ _ => 40
  | .fget _ _ _ => 40
  | .fgetS _ _ _ => 40
  | .fgetBrk _ _ => 40
  | .exit => 40
  | .yield => 40
  | .qry _ _ => 40
  | .tenq _ _ => 41
  | .texit => 41
  | .tirr => 41
  | .ksendB0 _ _ => 42
  | .ksendB1 _ _ => 42
  | .ksendB2 _ _ => 42
  | .ksendB3 _ _ => 42
  | .wta _ _ => 42
  | .wtw _ => 42
  | .wtd _ => 42
  | .stm _ _ => 42
  | .rxaB0 _ => 42
  | .rxaB1 _ => 42
  | .rxaB2 _ => 42
  | .rxaB3 _ => 42
  | .ewr _ _ => 43
  | .erd _ _ => 43
  | .sbind _ _ => 43
  | .sunb _ => 43
  | .rnd _ => 43
  | .cpy _ _ => 44
  | .chn _ _ => 44
  | .ovl _ _ _ => 44
  | .coll _ => 44
  | .mma _ _ _ => 45
  | .mmasS24 _ _ _ => 45
  | .mmasS48 _ _ _ => 45
  | .mmag _ _ _ => 45
  | .mrc _ _ _ _ => 45
  | .macc _ _ _ _ => 45
  | .mclr _ => 45
  | .mdrn _ _ _ => 45
  | .edge _ => 46
  | .mbs _ _ _ => 46
  | .mss _ _ _ => 46
  | .dpf _ _ => 46
  | .trap _ => 47
  | .eret => 47
  | .sysr _ _ => 0x2F
  | .sysw _ _ => 0x2F
  | .tlbi _ _ => 47
  | .halt => 47
  | .ctxs _ => 47
  | .ctxr _ _ => 47
  | .seal _ => 47
  | .capw _ _ => 47
  | .capr _ _ => 47
  | .tbr _ => 47
  | .idle => 47
  | .ovli _ => 47
  | .vaddInt _ _ _ _ _ => 48
  | .vsubInt _ _ _ _ _ => 48
  | .vmulInt _ _ _ _ _ => 48
  | .vmulh _ _ _ _ _ => 48
  | .vmacInt _ _ _ _ _ => 48
  | .vqadd _ _ _ _ _ => 48
  | .vqsub _ _ _ _ _ => 48
  | .vminInt _ _ _ _ _ => 48
  | .vmaxInt _ _ _ _ _ => 48
  | .vabsInt _ _ _ _ => 48
  | .vnegInt _ _ _ _ => 48
  | .vavg _ _ _ _ _ => 48
  | .vaddFp _ _ _ _ _ _ => 49
  | .vsubFp _ _ _ _ _ _ => 49
  | .vmulFp _ _ _ _ _ _ => 49
  | .vdiv _ _ _ _ _ _ => 49
  | .vmacFp _ _ _ _ _ _ => 49
  | .vminFp _ _ _ _ _ _ => 49
  | .vmaxFp _ _ _ _ _ _ => 49
  | .vabsFp _ _ _ _ => 49
  | .vnegFp _ _ _ _ => 49
  | .vsqrt _ _ _ _ _ => 49
  | .vand _ _ _ _ _ => 50
  | .vor _ _ _ _ _ => 50
  | .vxor _ _ _ _ _ => 50
  | .vandn _ _ _ _ _ => 50
  | .vnot _ _ _ _ => 50
  | .vshl _ _ _ _ _ => 50
  | .vshr _ _ _ _ _ => 50
  | .vsar _ _ _ _ _ => 50
  | .vclmul _ _ _ _ _ => 50
  | .vceq _ _ _ _ _ => 50
  | .vclt _ _ _ _ _ => 50
  | .vcle _ _ _ _ _ => 50
  | .vmov _ _ _ _ => 51
  | .vbcast _ _ _ _ => 51
  | .vtrn _ _ _ _ => 51
  | .vperm _ _ _ _ _ => 51
  | .vcpr _ _ _ _ => 51
  | .vexd _ _ _ _ => 51
  | .vscan _ _ _ _ => 51
  | .vrsum _ _ _ _ => 51
  | .vrmin _ _ _ _ => 51
  | .vrmax _ _ _ _ => 51
  | .vrot _ _ _ _ _ => 51
  | .vld _ _ _ => 52
  | .vst _ _ _ => 52
  | .vldg _ _ _ _ => 52
  | .vstg _ _ _ _ => 52
  | .vcvt _ _ _ _ _ _ => 53
  | .vexp2 _ _ _ _ _ => 53
  | .vlog2 _ _ _ _ _ => 53
  | .vrcp _ _ _ _ _ => 53
  | .vrsq _ _ _ _ _ => 53
  | .vrcps _ _ _ _ _ _ => 53
  | .vrsqs _ _ _ _ _ _ => 53
  | .vrnd _ _ _ => 53
  | .vclr _ _ _ => 53
  | .vpop _ _ _ _ => 53
  | .vsh _ _ _ _ => 0x36
  | .vsp => 0x36
  | .vshq _ _ => 0x36
  | .vmsk _ _ _ => 54
  | .vadds _ _ _ _ _ => 55
  | .vsubs _ _ _ _ _ => 55
  | .vmuls _ _ _ _ _ => 55
  | .vmins _ _ _ _ _ => 55
  | .vmaxs _ _ _ _ _ => 55
  | .vsplat _ _ _ => 55
  | .vext _ _ _ => 55
  | .vins _ _ _ => 55
  | .nop _ => 56
  | .ovlh _ => 57
  | .hintDest hi _ _ => (0x1D : BitVec 5) ++ hi
  | .resultArrival => 0
  | .writeAtHome => 0
  | .feAccessAtHome => 0
  | .feRequestBounce => 0
  | .atomicAtHome => 0
  | .barArrivalAtHome => 0
  | .chunkClaim => 0
  | .memberStart => 0
  | .epochAdvance => 0
  | .sharedDelivery => 0
  | .fold => 0
  | .breakAtHome => 0
  | .copyElementWrite => 0
  | .copyComplete => 0
  | .engineFaultStop => 0
  | .streamElementArrival => 0
  | .overlayLoadComplete => 0
  | .matrixCommandAccept => 0
  | .matrixRowCommit => 0
  | .matrixRowDrain => 0
  | .rowHandlerStart => 0
  | .matrixCommandComplete => 0
  | .matrixCommandStop => 0
  | .taskAccept => 0
  | .taskStart => 0
  | .taskAbort => 0
  | .taskNonspeculative => 0
  | .taskCommit => 0
  | .ksendBinStep => 0
  | .rxaConfigTake => 0
  | .edgeRunStart => 0
  | .edgeHandlerStart => 0
  | .edgeCombine => 0
  | .edgeApplyPhase => 0
  | .edgeRoundEnd => 0
  | .edgeRunStop => 0
  | .collSignal => 0
  | .collComplete => 0
  | .trapDelivery => 0
  | .launchRecordCopy => 0
  | .launchStart => 0
  | .launchPreempt => 0
  | .launchRestore => 0
  | .launchEnd => 0
  | .gangMiss => 0
  | .checkerMismatch => 0
  | .errorEvent => 0
  | .lastingFault => 0
  | .errorWindowExpiry => 0
  | .scrub => 0
  | .coreKill => 0
  | .sealedMailboxReply => 0
  | .parkedQueueReplay => 0
  | .parkedRequestDiscard => 0
  | .retryTimeout => 0
  | .tagEntryExpiry => 0
  | .flitReceive => 0
  | .portRetrain => 0
  | .eyeMarginWindow => 0
  | .rateUpTimeout => 0
  | .timebaseSync => 0
  | .powerClockStep => 0
  | .powerOnReset => 0
  | .bootDoorbell => 0
  | .bootImageTimeout => 0
  | .kernelCompletionTimeout => 0
  | .loadImage => 0
  | .createContext => 0
  | .endContext => 0
  | .submitLaunch => 0
  | .mapPages => 0
  | .unmapPages => 0
  | .attest => 0
  | .writeKernelSlot => 0
  | .restartKernel => 0
  | .handoverTimeout => 0
  | .unknownCommand => 0
  | .eventHeadDoorbell => 0
  | .hostBar2Access => 0
  | .hostAtomic => 0
  | .mgmtPowerLimit => 0
  | .mgmtLinkRateUp => 0
  | .mgmtReset => 0
  | .mgmtStartCounterClear => 0
  | .mgmtTelemetry => 0
  | .errwinWrite => 0
  | .ctxcfgWrite => 0
  | .seedWrite => 0
  | .heldWindowWrite => 0
  | .heldEngineWrite => 0
  | .illegalInstruction => 0
  | .overlayMiss => 0
  | .globalDelivery => 0
  | .gangStartTick => 0

/-- The word's bits 31:26 are the instruction's major opcode (R48). -/
def Statement (i : Instr) : Prop := i.isWord = true → fld (encode i) 26 6 = majorOf i

theorem add d a b : Statement (.add d a b) := fun _ => fld_packR_major _ _ _ _ _
theorem sub d a b : Statement (.sub d a b) := fun _ => fld_packR_major _ _ _ _ _
theorem and d a b : Statement (.and d a b) := fun _ => fld_packR_major _ _ _ _ _
theorem or d a b : Statement (.or d a b) := fun _ => fld_packR_major _ _ _ _ _
theorem xor d a b : Statement (.xor d a b) := fun _ => fld_packR_major _ _ _ _ _
theorem andn d a b : Statement (.andn d a b) := fun _ => fld_packR_major _ _ _ _ _
theorem orn d a b : Statement (.orn d a b) := fun _ => fld_packR_major _ _ _ _ _
theorem xnor d a b : Statement (.xnor d a b) := fun _ => fld_packR_major _ _ _ _ _
theorem shl d a b : Statement (.shl d a b) := fun _ => fld_packR_major _ _ _ _ _
theorem shr d a b : Statement (.shr d a b) := fun _ => fld_packR_major _ _ _ _ _
theorem sar d a b : Statement (.sar d a b) := fun _ => fld_packR_major _ _ _ _ _
theorem rol d a b : Statement (.rol d a b) := fun _ => fld_packR_major _ _ _ _ _
theorem ror d a b : Statement (.ror d a b) := fun _ => fld_packR_major _ _ _ _ _
theorem slt d a b : Statement (.slt d a b) := fun _ => fld_packR_major _ _ _ _ _
theorem sltz d a b : Statement (.sltz d a b) := fun _ => fld_packR_major _ _ _ _ _
theorem seq d a b : Statement (.seq d a b) := fun _ => fld_packR_major _ _ _ _ _
theorem sne d a b : Statement (.sne d a b) := fun _ => fld_packR_major _ _ _ _ _
theorem min d a b : Statement (.min d a b) := fun _ => fld_packR_major _ _ _ _ _
theorem max d a b : Statement (.max d a b) := fun _ => fld_packR_major _ _ _ _ _
theorem minz d a b : Statement (.minz d a b) := fun _ => fld_packR_major _ _ _ _ _
theorem maxz d a b : Statement (.maxz d a b) := fun _ => fld_packR_major _ _ _ _ _
theorem qadd d a b : Statement (.qadd d a b) := fun _ => fld_packR_major _ _ _ _ _
theorem qaddz d a b : Statement (.qaddz d a b) := fun _ => fld_packR_major _ _ _ _ _
theorem qsub d a b : Statement (.qsub d a b) := fun _ => fld_packR_major _ _ _ _ _
theorem qsubz d a b : Statement (.qsubz d a b) := fun _ => fld_packR_major _ _ _ _ _
theorem abs d a : Statement (.abs d a) := fun _ => fld_packR_major _ _ _ _ _
theorem sextI8 d a : Statement (.sextI8 d a) := fun _ => fld_packR_major _ _ _ _ _
theorem sextI16 d a : Statement (.sextI16 d a) := fun _ => fld_packR_major _ _ _ _ _
theorem sextI32 d a : Statement (.sextI32 d a) := fun _ => fld_packR_major _ _ _ _ _
theorem zextZ8 d a : Statement (.zextZ8 d a) := fun _ => fld_packR_major _ _ _ _ _
theorem zextZ16 d a : Statement (.zextZ16 d a) := fun _ => fld_packR_major _ _ _ _ _
theorem zextZ32 d a : Statement (.zextZ32 d a) := fun _ => fld_packR_major _ _ _ _ _
theorem addi d a imm : Statement (.addi d a imm) := fun _ => fld_packI_major _ _ _ _
theorem andi d a imm : Statement (.andi d a imm) := fun _ => fld_packI_major _ _ _ _
theorem ori d a imm : Statement (.ori d a imm) := fun _ => fld_packI_major _ _ _ _
theorem xori d a imm : Statement (.xori d a imm) := fun _ => fld_packI_major _ _ _ _
theorem shli d a n : Statement (.shli d a n) := fun _ => fld_packI_major _ _ _ _
theorem shri d a n : Statement (.shri d a n) := fun _ => fld_packI_major _ _ _ _
theorem sari d a n : Statement (.sari d a n) := fun _ => fld_packI_major _ _ _ _
theorem rori d a n : Statement (.rori d a n) := fun _ => fld_packI_major _ _ _ _
theorem slti d a imm : Statement (.slti d a imm) := fun _ => fld_packI_major _ _ _ _
theorem lih d imm : Statement (.lih d imm) := fun _ => fld_packL_major _ _ _
theorem pcadd d imm : Statement (.pcadd d imm) := fun _ => fld_packL_major _ _ _
theorem mul d a b : Statement (.mul d a b) := fun _ => fld_packR_major _ _ _ _ _
theorem mulh d a b : Statement (.mulh d a b) := fun _ => fld_packR_major _ _ _ _ _
theorem mulhz d a b : Statement (.mulhz d a b) := fun _ => fld_packR_major _ _ _ _ _
theorem div d a b : Statement (.div d a b) := fun _ => fld_packR_major _ _ _ _ _
theorem divz d a b : Statement (.divz d a b) := fun _ => fld_packR_major _ _ _ _ _
theorem rem d a b : Statement (.rem d a b) := fun _ => fld_packR_major _ _ _ _ _
theorem remz d a b : Statement (.remz d a b) := fun _ => fld_packR_major _ _ _ _ _
theorem clmul d a b : Statement (.clmul d a b) := fun _ => fld_packR_major _ _ _ _ _
theorem clmulh d a b : Statement (.clmulh d a b) := fun _ => fld_packR_major _ _ _ _ _
theorem pop d a : Statement (.pop d a) := fun _ => fld_packR_major _ _ _ _ _
theorem clz d a : Statement (.clz d a) := fun _ => fld_packR_major _ _ _ _ _
theorem ctz d a : Statement (.ctz d a) := fun _ => fld_packR_major _ _ _ _ _
theorem bext d a b : Statement (.bext d a b) := fun _ => fld_packR_major _ _ _ _ _
theorem bins d a b : Statement (.bins d a b) := fun _ => fld_packR_major _ _ _ _ _
theorem sel d a b : Statement (.sel d a b) := fun _ => fld_packR_major _ _ _ _ _
theorem brev d a : Statement (.brev d a) := fun _ => fld_packR_major _ _ _ _ _
theorem bswap d a : Statement (.bswap d a) := fun _ => fld_packR_major _ _ _ _ _
theorem fadd d a b rf fmt : Statement (.fadd d a b rf fmt) := fun _ => fld_packR_major _ _ _ _ _
theorem fsub d a b rf fmt : Statement (.fsub d a b rf fmt) := fun _ => fld_packR_major _ _ _ _ _
theorem fmul d a b rf fmt : Statement (.fmul d a b rf fmt) := fun _ => fld_packR_major _ _ _ _ _
theorem fdiv d a b rf fmt : Statement (.fdiv d a b rf fmt) := fun _ => fld_packR_major _ _ _ _ _
theorem frcps d a b rf fmt : Statement (.frcps d a b rf fmt) := fun _ => fld_packR_major _ _ _ _ _
theorem frsqs d a b rf fmt : Statement (.frsqs d a b rf fmt) := fun _ => fld_packR_major _ _ _ _ _
theorem fmin d a b fmt : Statement (.fmin d a b fmt) := fun _ => fld_packR_major _ _ _ _ _
theorem fmax d a b fmt : Statement (.fmax d a b fmt) := fun _ => fld_packR_major _ _ _ _ _
theorem fsgnj d a b fmt : Statement (.fsgnj d a b fmt) := fun _ => fld_packR_major _ _ _ _ _
theorem fsgnjn d a b fmt : Statement (.fsgnjn d a b fmt) := fun _ => fld_packR_major _ _ _ _ _
theorem fsgnjx d a b fmt : Statement (.fsgnjx d a b fmt) := fun _ => fld_packR_major _ _ _ _ _
theorem feq d a b fmt : Statement (.feq d a b fmt) := fun _ => fld_packR_major _ _ _ _ _
theorem flt d a b fmt : Statement (.flt d a b fmt) := fun _ => fld_packR_major _ _ _ _ _
theorem fle d a b fmt : Statement (.fle d a b fmt) := fun _ => fld_packR_major _ _ _ _ _
theorem fsqrt d a rf fmt : Statement (.fsqrt d a rf fmt) := fun _ => fld_packR_major _ _ _ _ _
theorem frcp d a rf fmt : Statement (.frcp d a rf fmt) := fun _ => fld_packR_major _ _ _ _ _
theorem frsq d a rf fmt : Statement (.frsq d a rf fmt) := fun _ => fld_packR_major _ _ _ _ _
theorem fclass d a fmt : Statement (.fclass d a fmt) := fun _ => fld_packR_major _ _ _ _ _
theorem fcvt d a dst rf fmt : Statement (.fcvt d a dst rf fmt) := fun _ => fld_packR_major _ _ _ _ _
theorem fcvti d a dst rf fmt : Statement (.fcvti d a dst rf fmt) := fun _ => fld_packR_major _ _ _ _ _
theorem icvtf d a src rf fmt : Statement (.icvtf d a src rf fmt) := fun _ => fld_packR_major _ _ _ _ _
theorem fmaF64 d a b c : Statement (.fmaF64 d a b c) := fun _ => fld_packF_major _ _ _ _ _
theorem fmsF64 d a b c : Statement (.fmsF64 d a b c) := fun _ => fld_packF_major _ _ _ _ _
theorem fmaF32 d a b c : Statement (.fmaF32 d a b c) := fun _ => fld_packF_major _ _ _ _ _
theorem fmsF32 d a b c : Statement (.fmsF32 d a b c) := fun _ => fld_packF_major _ _ _ _ _
theorem ldI8 d a imm : Statement (.ldI8 d a imm) := fun _ => fld_packI_major _ _ _ _
theorem ldZ8 d a imm : Statement (.ldZ8 d a imm) := fun _ => fld_packI_major _ _ _ _
theorem ldI16 d a imm : Statement (.ldI16 d a imm) := fun _ => fld_packI_major _ _ _ _
theorem ldZ16 d a imm : Statement (.ldZ16 d a imm) := fun _ => fld_packI_major _ _ _ _
theorem ldI32 d a imm : Statement (.ldI32 d a imm) := fun _ => fld_packI_major _ _ _ _
theorem ldZ32 d a imm : Statement (.ldZ32 d a imm) := fun _ => fld_packI_major _ _ _ _
theorem ldI64 d a imm : Statement (.ldI64 d a imm) := fun _ => fld_packI_major _ _ _ _
theorem ldx d a b width : Statement (.ldx d a b width) := fun _ => fld_packR_major _ _ _ _ _
theorem ldf d a b scope : Statement (.ldf d a b scope) := fun _ => fld_packR_major _ _ _ _ _
theorem lde d a b scope : Statement (.lde d a b scope) := fun _ => fld_packR_major _ _ _ _ _
theorem ldrd d a b op : Statement (.ldrd d a b op) := fun _ => fld_packR_major _ _ _ _ _
theorem fstat d a b : Statement (.fstat d a b) := fun _ => fld_packR_major _ _ _ _ _
theorem stI8 b a imm : Statement (.stI8 b a imm) := fun _ => fld_packI_major _ _ _ _
theorem stI16 b a imm : Statement (.stI16 b a imm) := fun _ => fld_packI_major _ _ _ _
theorem stI32 b a imm : Statement (.stI32 b a imm) := fun _ => fld_packI_major _ _ _ _
theorem stI64 b a imm : Statement (.stI64 b a imm) := fun _ => fld_packI_major _ _ _ _
theorem amo d a b op os : Statement (.amo d a b op os) := fun _ => fld_packR_major _ _ _ _ _
theorem red a b op os : Statement (.red a b op os) := fun _ => fld_packR_major _ _ _ _ _
theorem cas d a b os : Statement (.cas d a b os) := fun _ => fld_packR_major _ _ _ _ _
theorem stf a b scope : Statement (.stf a b scope) := fun _ => fld_packR_major _ _ _ _ _
theorem ste d a b scope : Statement (.ste d a b scope) := fun _ => fld_packR_major _ _ _ _ _
theorem fen pset sset scope : Statement (.fen pset sset scope) := fun _ => fld_packFN_major _ _ _ _ _
theorem wait lcnt scnt ccnt mcnt : Statement (.wait lcnt scnt ccnt mcnt) := fun _ => fld_packW_major _ _ _ _ _ _
theorem bar a : Statement (.bar a) := fun _ => fld_packR_major _ _ _ _ _
theorem beq a b off : Statement (.beq a b off) := fun _ => fld_packI_major _ _ _ _
theorem bne a b off : Statement (.bne a b off) := fun _ => fld_packI_major _ _ _ _
theorem blt a b off : Statement (.blt a b off) := fun _ => fld_packI_major _ _ _ _
theorem bge a b off : Statement (.bge a b off) := fun _ => fld_packI_major _ _ _ _
theorem bltz a b off : Statement (.bltz a b off) := fun _ => fld_packI_major _ _ _ _
theorem bgez a b off : Statement (.bgez a b off) := fun _ => fld_packI_major _ _ _ _
theorem jal d imm : Statement (.jal d imm) := fun _ => fld_packL_major _ _ _
theorem jalr d a imm : Statement (.jalr d a imm) := fun _ => fld_packI_major _ _ _ _
theorem crt d a : Statement (.crt d a) := fun _ => fld_packR_major _ _ _ _ _
theorem sync d a : Statement (.sync d a) := fun _ => fld_packR_major _ _ _ _ _
theorem brk a : Statement (.brk a) := fun _ => fld_packR_major _ _ _ _ _
theorem fput n a b : Statement (.fput n a b) := fun _ => fld_packR_major _ _ _ _ _
theorem fputS n a b : Statement (.fputS n a b) := fun _ => fld_packR_major _ _ _ _ _
theorem fget d a n : Statement (.fget d a n) := fun _ => fld_packR_major _ _ _ _ _
theorem fgetS d a n : Statement (.fgetS d a n) := fun _ => fld_packR_major _ _ _ _ _
theorem fgetBrk d a : Statement (.fgetBrk d a) := fun _ => fld_packR_major _ _ _ _ _
theorem exit : Statement (.exit) := fun _ => fld_packR_major _ _ _ _ _
theorem yield : Statement (.yield) := fun _ => fld_packR_major _ _ _ _ _
theorem qry d n : Statement (.qry d n) := fun _ => fld_packR_major _ _ _ _ _
theorem tenq a b : Statement (.tenq a b) := fun _ => fld_packR_major _ _ _ _ _
theorem texit : Statement (.texit) := fun _ => fld_packR_major _ _ _ _ _
theorem tirr : Statement (.tirr) := fun _ => fld_packR_major _ _ _ _ _
theorem ksendB0 a b : Statement (.ksendB0 a b) := fun _ => fld_packR_major _ _ _ _ _
theorem ksendB1 a b : Statement (.ksendB1 a b) := fun _ => fld_packR_major _ _ _ _ _
theorem ksendB2 a b : Statement (.ksendB2 a b) := fun _ => fld_packR_major _ _ _ _ _
theorem ksendB3 a b : Statement (.ksendB3 a b) := fun _ => fld_packR_major _ _ _ _ _
theorem wta d a : Statement (.wta d a) := fun _ => fld_packR_major _ _ _ _ _
theorem wtw d : Statement (.wtw d) := fun _ => fld_packR_major _ _ _ _ _
theorem wtd a : Statement (.wtd a) := fun _ => fld_packR_major _ _ _ _ _
theorem stm a b : Statement (.stm a b) := fun _ => fld_packR_major _ _ _ _ _
theorem rxaB0 a : Statement (.rxaB0 a) := fun _ => fld_packR_major _ _ _ _ _
theorem rxaB1 a : Statement (.rxaB1 a) := fun _ => fld_packR_major _ _ _ _ _
theorem rxaB2 a : Statement (.rxaB2 a) := fun _ => fld_packR_major _ _ _ _ _
theorem rxaB3 a : Statement (.rxaB3 a) := fun _ => fld_packR_major _ _ _ _ _
theorem ewr e a : Statement (.ewr e a) := fun _ => fld_packR_major _ _ _ _ _
theorem erd d e : Statement (.erd d e) := fun _ => fld_packR_major _ _ _ _ _
theorem sbind d a : Statement (.sbind d a) := fun _ => fld_packR_major _ _ _ _ _
theorem sunb d : Statement (.sunb d) := fun _ => fld_packR_major _ _ _ _ _
theorem rnd d : Statement (.rnd d) := fun _ => fld_packR_major _ _ _ _ _
theorem cpy a b : Statement (.cpy a b) := fun _ => fld_packR_major _ _ _ _ _
theorem chn a b : Statement (.chn a b) := fun _ => fld_packR_major _ _ _ _ _
theorem ovl d a b : Statement (.ovl d a b) := fun _ => fld_packR_major _ _ _ _ _
theorem coll a : Statement (.coll a) := fun _ => fld_packR_major _ _ _ _ _
theorem mma a b fmt : Statement (.mma a b fmt) := fun _ => fld_packR_major _ _ _ _ _
theorem mmasS24 a b fmt : Statement (.mmasS24 a b fmt) := fun _ => fld_packR_major _ _ _ _ _
theorem mmasS48 a b fmt : Statement (.mmasS48 a b fmt) := fun _ => fld_packR_major _ _ _ _ _
theorem mmag a b fmt : Statement (.mmag a b fmt) := fun _ => fld_packR_major _ _ _ _ _
theorem mrc d a b fmt : Statement (.mrc d a b fmt) := fun _ => fld_packR_major _ _ _ _ _
theorem macc t a b fmt : Statement (.macc t a b fmt) := fun _ => fld_packR_major _ _ _ _ _
theorem mclr a : Statement (.mclr a) := fun _ => fld_packR_major _ _ _ _ _
theorem mdrn a b fmt : Statement (.mdrn a b fmt) := fun _ => fld_packR_major _ _ _ _ _
theorem edge a : Statement (.edge a) := fun _ => fld_packR_major _ _ _ _ _
theorem mbs a b fmt : Statement (.mbs a b fmt) := fun _ => fld_packR_major _ _ _ _ _
theorem mss a b fmt : Statement (.mss a b fmt) := fun _ => fld_packR_major _ _ _ _ _
theorem dpf a b : Statement (.dpf a b) := fun _ => fld_packR_major _ _ _ _ _
theorem trap n : Statement (.trap n) := fun _ => fld_packR_major _ _ _ _ _
theorem eret : Statement (.eret) := fun _ => fld_packR_major _ _ _ _ _
theorem sysr d n : Statement (.sysr d n) := fun _ => fld_packN_major _ _ _
theorem sysw a n : Statement (.sysw a n) := fun _ => fld_packN_major _ _ _
theorem tlbi a b : Statement (.tlbi a b) := fun _ => fld_packR_major _ _ _ _ _
theorem halt : Statement (.halt) := fun _ => fld_packR_major _ _ _ _ _
theorem ctxs a : Statement (.ctxs a) := fun _ => fld_packR_major _ _ _ _ _
theorem ctxr d a : Statement (.ctxr d a) := fun _ => fld_packR_major _ _ _ _ _
theorem capw a b : Statement (.capw a b) := fun _ => fld_packR_major _ _ _ _ _
theorem capr d a : Statement (.capr d a) := fun _ => fld_packR_major _ _ _ _ _
theorem tbr d : Statement (.tbr d) := fun _ => fld_packR_major _ _ _ _ _
theorem idle : Statement (.idle) := fun _ => fld_packR_major _ _ _ _ _
theorem ovli a : Statement (.ovli a) := fun _ => fld_packR_major _ _ _ _ _
theorem vaddInt td ta tb sh mask : Statement (.vaddInt td ta tb sh mask) := fun _ => fld_packT_major _ _ _ _ _ _ _
theorem vsubInt td ta tb sh mask : Statement (.vsubInt td ta tb sh mask) := fun _ => fld_packT_major _ _ _ _ _ _ _
theorem vmulInt td ta tb sh mask : Statement (.vmulInt td ta tb sh mask) := fun _ => fld_packT_major _ _ _ _ _ _ _
theorem vmulh td ta tb sh mask : Statement (.vmulh td ta tb sh mask) := fun _ => fld_packT_major _ _ _ _ _ _ _
theorem vmacInt td ta tb sh mask : Statement (.vmacInt td ta tb sh mask) := fun _ => fld_packT_major _ _ _ _ _ _ _
theorem vqadd td ta tb sh mask : Statement (.vqadd td ta tb sh mask) := fun _ => fld_packT_major _ _ _ _ _ _ _
theorem vqsub td ta tb sh mask : Statement (.vqsub td ta tb sh mask) := fun _ => fld_packT_major _ _ _ _ _ _ _
theorem vminInt td ta tb sh mask : Statement (.vminInt td ta tb sh mask) := fun _ => fld_packT_major _ _ _ _ _ _ _
theorem vmaxInt td ta tb sh mask : Statement (.vmaxInt td ta tb sh mask) := fun _ => fld_packT_major _ _ _ _ _ _ _
theorem vabsInt td ta sh mask : Statement (.vabsInt td ta sh mask) := fun _ => fld_packT_major _ _ _ _ _ _ _
theorem vnegInt td ta sh mask : Statement (.vnegInt td ta sh mask) := fun _ => fld_packT_major _ _ _ _ _ _ _
theorem vavg td ta tb sh mask : Statement (.vavg td ta tb sh mask) := fun _ => fld_packT_major _ _ _ _ _ _ _
theorem vaddFp td ta tb sh mask rf : Statement (.vaddFp td ta tb sh mask rf) := fun _ => fld_packT_major _ _ _ _ _ _ _
theorem vsubFp td ta tb sh mask rf : Statement (.vsubFp td ta tb sh mask rf) := fun _ => fld_packT_major _ _ _ _ _ _ _
theorem vmulFp td ta tb sh mask rf : Statement (.vmulFp td ta tb sh mask rf) := fun _ => fld_packT_major _ _ _ _ _ _ _
theorem vdiv td ta tb sh mask rf : Statement (.vdiv td ta tb sh mask rf) := fun _ => fld_packT_major _ _ _ _ _ _ _
theorem vmacFp td ta tb sh mask rf : Statement (.vmacFp td ta tb sh mask rf) := fun _ => fld_packT_major _ _ _ _ _ _ _
theorem vminFp td ta tb sh mask rf : Statement (.vminFp td ta tb sh mask rf) := fun _ => fld_packT_major _ _ _ _ _ _ _
theorem vmaxFp td ta tb sh mask rf : Statement (.vmaxFp td ta tb sh mask rf) := fun _ => fld_packT_major _ _ _ _ _ _ _
theorem vabsFp td ta sh mask : Statement (.vabsFp td ta sh mask) := fun _ => fld_packT_major _ _ _ _ _ _ _
theorem vnegFp td ta sh mask : Statement (.vnegFp td ta sh mask) := fun _ => fld_packT_major _ _ _ _ _ _ _
theorem vsqrt td ta sh mask rf : Statement (.vsqrt td ta sh mask rf) := fun _ => fld_packT_major _ _ _ _ _ _ _
theorem vand td ta tb sh mask : Statement (.vand td ta tb sh mask) := fun _ => fld_packT_major _ _ _ _ _ _ _
theorem vor td ta tb sh mask : Statement (.vor td ta tb sh mask) := fun _ => fld_packT_major _ _ _ _ _ _ _
theorem vxor td ta tb sh mask : Statement (.vxor td ta tb sh mask) := fun _ => fld_packT_major _ _ _ _ _ _ _
theorem vandn td ta tb sh mask : Statement (.vandn td ta tb sh mask) := fun _ => fld_packT_major _ _ _ _ _ _ _
theorem vnot td ta sh mask : Statement (.vnot td ta sh mask) := fun _ => fld_packT_major _ _ _ _ _ _ _
theorem vshl td ta tb sh mask : Statement (.vshl td ta tb sh mask) := fun _ => fld_packT_major _ _ _ _ _ _ _
theorem vshr td ta tb sh mask : Statement (.vshr td ta tb sh mask) := fun _ => fld_packT_major _ _ _ _ _ _ _
theorem vsar td ta tb sh mask : Statement (.vsar td ta tb sh mask) := fun _ => fld_packT_major _ _ _ _ _ _ _
theorem vclmul td ta tb sh mask : Statement (.vclmul td ta tb sh mask) := fun _ => fld_packT_major _ _ _ _ _ _ _
theorem vceq td ta tb sh mask : Statement (.vceq td ta tb sh mask) := fun _ => fld_packT_major _ _ _ _ _ _ _
theorem vclt td ta tb sh mask : Statement (.vclt td ta tb sh mask) := fun _ => fld_packT_major _ _ _ _ _ _ _
theorem vcle td ta tb sh mask : Statement (.vcle td ta tb sh mask) := fun _ => fld_packT_major _ _ _ _ _ _ _
theorem vmov td ta sh mask : Statement (.vmov td ta sh mask) := fun _ => fld_packT_major _ _ _ _ _ _ _
theorem vbcast td ta sh mask : Statement (.vbcast td ta sh mask) := fun _ => fld_packT_major _ _ _ _ _ _ _
theorem vtrn td ta sh mask : Statement (.vtrn td ta sh mask) := fun _ => fld_packT_major _ _ _ _ _ _ _
theorem vperm td ta tb sh mask : Statement (.vperm td ta tb sh mask) := fun _ => fld_packT_major _ _ _ _ _ _ _
theorem vcpr td ta tb sh : Statement (.vcpr td ta tb sh) := fun _ => fld_packT_major _ _ _ _ _ _ _
theorem vexd td ta tb sh : Statement (.vexd td ta tb sh) := fun _ => fld_packT_major _ _ _ _ _ _ _
theorem vscan td ta sh mask : Statement (.vscan td ta sh mask) := fun _ => fld_packT_major _ _ _ _ _ _ _
theorem vrsum td ta sh mask : Statement (.vrsum td ta sh mask) := fun _ => fld_packT_major _ _ _ _ _ _ _
theorem vrmin td ta sh mask : Statement (.vrmin td ta sh mask) := fun _ => fld_packT_major _ _ _ _ _ _ _
theorem vrmax td ta sh mask : Statement (.vrmax td ta sh mask) := fun _ => fld_packT_major _ _ _ _ _ _ _
theorem vrot td ta tb sh mask : Statement (.vrot td ta tb sh mask) := fun _ => fld_packT_major _ _ _ _ _ _ _
theorem vld td b sh : Statement (.vld td b sh) := fun _ => fld_packX_major _ _ _ _ _ _
theorem vst td b sh : Statement (.vst td b sh) := fun _ => fld_packX_major _ _ _ _ _ _
theorem vldg td ta b sh : Statement (.vldg td ta b sh) := fun _ => fld_packX_major _ _ _ _ _ _
theorem vstg td ta b sh : Statement (.vstg td ta b sh) := fun _ => fld_packX_major _ _ _ _ _ _
theorem vcvt td ta shx sh mask rf : Statement (.vcvt td ta shx sh mask rf) := fun _ => fld_packT_major _ _ _ _ _ _ _
theorem vexp2 td ta sh mask rf : Statement (.vexp2 td ta sh mask rf) := fun _ => fld_packT_major _ _ _ _ _ _ _
theorem vlog2 td ta sh mask rf : Statement (.vlog2 td ta sh mask rf) := fun _ => fld_packT_major _ _ _ _ _ _ _
theorem vrcp td ta sh mask rf : Statement (.vrcp td ta sh mask rf) := fun _ => fld_packT_major _ _ _ _ _ _ _
theorem vrsq td ta sh mask rf : Statement (.vrsq td ta sh mask rf) := fun _ => fld_packT_major _ _ _ _ _ _ _
theorem vrcps td ta tb sh mask rf : Statement (.vrcps td ta tb sh mask rf) := fun _ => fld_packT_major _ _ _ _ _ _ _
theorem vrsqs td ta tb sh mask rf : Statement (.vrsqs td ta tb sh mask rf) := fun _ => fld_packT_major _ _ _ _ _ _ _
theorem vrnd td sh mask : Statement (.vrnd td sh mask) := fun _ => fld_packT_major _ _ _ _ _ _ _
theorem vclr td sh mask : Statement (.vclr td sh mask) := fun _ => fld_packT_major _ _ _ _ _ _ _
theorem vpop td ta sh mask : Statement (.vpop td ta sh mask) := fun _ => fld_packT_major _ _ _ _ _ _ _
theorem vsh d a sh fmt : Statement (.vsh d a sh fmt) := fun _ => fld_packS_major _ _ _ _ _
theorem vsp : Statement (.vsp) := fun _ => fld_packS_major _ _ _ _ _
theorem vshq d sh : Statement (.vshq d sh) := fun _ => fld_packS_major _ _ _ _ _
theorem vmsk td b sh : Statement (.vmsk td b sh) := fun _ => fld_packX_major _ _ _ _ _ _
theorem vadds td ta b sh rf : Statement (.vadds td ta b sh rf) := fun _ => fld_packX_major _ _ _ _ _ _
theorem vsubs td ta b sh rf : Statement (.vsubs td ta b sh rf) := fun _ => fld_packX_major _ _ _ _ _ _
theorem vmuls td ta b sh rf : Statement (.vmuls td ta b sh rf) := fun _ => fld_packX_major _ _ _ _ _ _
theorem vmins td ta b sh rf : Statement (.vmins td ta b sh rf) := fun _ => fld_packX_major _ _ _ _ _ _
theorem vmaxs td ta b sh rf : Statement (.vmaxs td ta b sh rf) := fun _ => fld_packX_major _ _ _ _ _ _
theorem vsplat td b sh : Statement (.vsplat td b sh) := fun _ => fld_packX_major _ _ _ _ _ _
theorem vext ta d sh : Statement (.vext ta d sh) := fun _ => fld_packX_major _ _ _ _ _ _
theorem vins td b sh : Statement (.vins td b sh) := fun _ => fld_packX_major _ _ _ _ _ _
theorem nop x : Statement (.nop x) := fun _ => fld_packJ_major _ _
theorem ovlh x : Statement (.ovlh x) := fun _ => fld_packJ_major _ _
theorem hintDest hi d x : Statement (.hintDest hi d x) := fun _ => fld_packL_major _ _ _
theorem resultArrival : Statement (.resultArrival) := fun h => by cases h
theorem writeAtHome : Statement (.writeAtHome) := fun h => by cases h
theorem feAccessAtHome : Statement (.feAccessAtHome) := fun h => by cases h
theorem feRequestBounce : Statement (.feRequestBounce) := fun h => by cases h
theorem atomicAtHome : Statement (.atomicAtHome) := fun h => by cases h
theorem barArrivalAtHome : Statement (.barArrivalAtHome) := fun h => by cases h
theorem chunkClaim : Statement (.chunkClaim) := fun h => by cases h
theorem memberStart : Statement (.memberStart) := fun h => by cases h
theorem epochAdvance : Statement (.epochAdvance) := fun h => by cases h
theorem sharedDelivery : Statement (.sharedDelivery) := fun h => by cases h
theorem fold : Statement (.fold) := fun h => by cases h
theorem breakAtHome : Statement (.breakAtHome) := fun h => by cases h
theorem copyElementWrite : Statement (.copyElementWrite) := fun h => by cases h
theorem copyComplete : Statement (.copyComplete) := fun h => by cases h
theorem engineFaultStop : Statement (.engineFaultStop) := fun h => by cases h
theorem streamElementArrival : Statement (.streamElementArrival) := fun h => by cases h
theorem overlayLoadComplete : Statement (.overlayLoadComplete) := fun h => by cases h
theorem matrixCommandAccept : Statement (.matrixCommandAccept) := fun h => by cases h
theorem matrixRowCommit : Statement (.matrixRowCommit) := fun h => by cases h
theorem matrixRowDrain : Statement (.matrixRowDrain) := fun h => by cases h
theorem rowHandlerStart : Statement (.rowHandlerStart) := fun h => by cases h
theorem matrixCommandComplete : Statement (.matrixCommandComplete) := fun h => by cases h
theorem matrixCommandStop : Statement (.matrixCommandStop) := fun h => by cases h
theorem taskAccept : Statement (.taskAccept) := fun h => by cases h
theorem taskStart : Statement (.taskStart) := fun h => by cases h
theorem taskAbort : Statement (.taskAbort) := fun h => by cases h
theorem taskNonspeculative : Statement (.taskNonspeculative) := fun h => by cases h
theorem taskCommit : Statement (.taskCommit) := fun h => by cases h
theorem ksendBinStep : Statement (.ksendBinStep) := fun h => by cases h
theorem rxaConfigTake : Statement (.rxaConfigTake) := fun h => by cases h
theorem edgeRunStart : Statement (.edgeRunStart) := fun h => by cases h
theorem edgeHandlerStart : Statement (.edgeHandlerStart) := fun h => by cases h
theorem edgeCombine : Statement (.edgeCombine) := fun h => by cases h
theorem edgeApplyPhase : Statement (.edgeApplyPhase) := fun h => by cases h
theorem edgeRoundEnd : Statement (.edgeRoundEnd) := fun h => by cases h
theorem edgeRunStop : Statement (.edgeRunStop) := fun h => by cases h
theorem collSignal : Statement (.collSignal) := fun h => by cases h
theorem collComplete : Statement (.collComplete) := fun h => by cases h
theorem trapDelivery : Statement (.trapDelivery) := fun h => by cases h
theorem launchRecordCopy : Statement (.launchRecordCopy) := fun h => by cases h
theorem launchStart : Statement (.launchStart) := fun h => by cases h
theorem launchPreempt : Statement (.launchPreempt) := fun h => by cases h
theorem launchRestore : Statement (.launchRestore) := fun h => by cases h
theorem launchEnd : Statement (.launchEnd) := fun h => by cases h
theorem gangMiss : Statement (.gangMiss) := fun h => by cases h
theorem checkerMismatch : Statement (.checkerMismatch) := fun h => by cases h
theorem errorEvent : Statement (.errorEvent) := fun h => by cases h
theorem lastingFault : Statement (.lastingFault) := fun h => by cases h
theorem errorWindowExpiry : Statement (.errorWindowExpiry) := fun h => by cases h
theorem scrub : Statement (.scrub) := fun h => by cases h
theorem coreKill : Statement (.coreKill) := fun h => by cases h
theorem sealedMailboxReply : Statement (.sealedMailboxReply) := fun h => by cases h
theorem parkedQueueReplay : Statement (.parkedQueueReplay) := fun h => by cases h
theorem parkedRequestDiscard : Statement (.parkedRequestDiscard) := fun h => by cases h
theorem retryTimeout : Statement (.retryTimeout) := fun h => by cases h
theorem tagEntryExpiry : Statement (.tagEntryExpiry) := fun h => by cases h
theorem flitReceive : Statement (.flitReceive) := fun h => by cases h
theorem portRetrain : Statement (.portRetrain) := fun h => by cases h
theorem eyeMarginWindow : Statement (.eyeMarginWindow) := fun h => by cases h
theorem rateUpTimeout : Statement (.rateUpTimeout) := fun h => by cases h
theorem timebaseSync : Statement (.timebaseSync) := fun h => by cases h
theorem powerClockStep : Statement (.powerClockStep) := fun h => by cases h
theorem powerOnReset : Statement (.powerOnReset) := fun h => by cases h
theorem bootDoorbell : Statement (.bootDoorbell) := fun h => by cases h
theorem bootImageTimeout : Statement (.bootImageTimeout) := fun h => by cases h
theorem kernelCompletionTimeout : Statement (.kernelCompletionTimeout) := fun h => by cases h
theorem loadImage : Statement (.loadImage) := fun h => by cases h
theorem createContext : Statement (.createContext) := fun h => by cases h
theorem endContext : Statement (.endContext) := fun h => by cases h
theorem submitLaunch : Statement (.submitLaunch) := fun h => by cases h
theorem mapPages : Statement (.mapPages) := fun h => by cases h
theorem unmapPages : Statement (.unmapPages) := fun h => by cases h
theorem attest : Statement (.attest) := fun h => by cases h
theorem writeKernelSlot : Statement (.writeKernelSlot) := fun h => by cases h
theorem restartKernel : Statement (.restartKernel) := fun h => by cases h
theorem handoverTimeout : Statement (.handoverTimeout) := fun h => by cases h
theorem unknownCommand : Statement (.unknownCommand) := fun h => by cases h
theorem eventHeadDoorbell : Statement (.eventHeadDoorbell) := fun h => by cases h
theorem hostBar2Access : Statement (.hostBar2Access) := fun h => by cases h
theorem hostAtomic : Statement (.hostAtomic) := fun h => by cases h
theorem mgmtPowerLimit : Statement (.mgmtPowerLimit) := fun h => by cases h
theorem mgmtLinkRateUp : Statement (.mgmtLinkRateUp) := fun h => by cases h
theorem mgmtReset : Statement (.mgmtReset) := fun h => by cases h
theorem mgmtStartCounterClear : Statement (.mgmtStartCounterClear) := fun h => by cases h
theorem mgmtTelemetry : Statement (.mgmtTelemetry) := fun h => by cases h
theorem errwinWrite : Statement (.errwinWrite) := fun h => by cases h
theorem ctxcfgWrite : Statement (.ctxcfgWrite) := fun h => by cases h
theorem seedWrite : Statement (.seedWrite) := fun h => by cases h
theorem heldWindowWrite : Statement (.heldWindowWrite) := fun h => by cases h
theorem heldEngineWrite : Statement (.heldEngineWrite) := fun h => by cases h
theorem illegalInstruction : Statement (.illegalInstruction) := fun h => by cases h
theorem overlayMiss : Statement (.overlayMiss) := fun h => by cases h
theorem globalDelivery : Statement (.globalDelivery) := fun h => by cases h
theorem gangStartTick : Statement (.gangStartTick) := fun h => by cases h

end Sys2Proof.Laws.Major

theorem Sys2Proof.Laws.Major.seal a : Sys2Proof.Laws.Major.Statement (.seal a) := fun _ => Sys2Proof.fld_packR_major _ _ _ _ _
end

