-- ==== Sys2Proof/Laws/Storage.lean ====
section
/-! SUPPORT. Every operation over storage keeps its canonical form (log 4): memory, the empty words, the marked words. -/
namespace Sys2Proof.Machine

theorem State.storageWf_iff (s : State) : s.storageWf = true ↔
    Memory.wf s.mem = true ∧ rising s.empties = true ∧ rising s.marks = true := by
  simp [State.storageWf, and_assoc]

/-- The form depends on memory and the two lists alone. -/
theorem State.storageWf_congr {s t : State} (hm : t.mem = s.mem) (he : t.empties = s.empties) (hk : t.marks = s.marks)
    (h : s.storageWf = true) : t.storageWf = true := by
  rw [State.storageWf, hm, he, hk]
  exact h

theorem Memory.wf_filter (m : List Host.Cell) (f : Host.Cell → Bool) (h : Memory.wf m = true) : Memory.wf (m.filter f) = true := by
  rw [Memory.wf_iff] at h ⊢
  exact ⟨h.1.filter _, fun p hp => h.2 p (List.mem_filter.1 hp).1⟩

theorem rising_filter (l : List Nat) (f : Nat → Bool) (h : rising l = true) : rising (l.filter f) = true := by
  rw [rising_iff] at h ⊢
  exact h.filter _

theorem storageWf_setFull (s : State) (k : Nat) (h : s.storageWf = true) : (setFull s k).storageWf = true := by
  rw [State.storageWf_iff] at h ⊢
  exact ⟨h.1, rising_setDel _ _ h.2.1, h.2.2⟩

theorem storageWf_setEmpty (s : State) (k : Nat) (h : s.storageWf = true) : (setEmpty s k).storageWf = true := by
  unfold setEmpty
  split
  · rw [State.storageWf_iff] at h ⊢
    exact ⟨h.1, rising_setIns _ _ h.2.1, h.2.2⟩
  · exact h

theorem storageWf_setMark (s : State) (k : Nat) (h : s.storageWf = true) : (setMark s k).storageWf = true := by
  unfold setMark
  split
  · exact h
  · rw [State.storageWf_iff] at h ⊢
    exact ⟨h.1, h.2.1, rising_setIns _ _ h.2.2⟩

theorem storageWf_clearMark (s : State) (k : Nat) (h : s.storageWf = true) : (clearMark s k).storageWf = true := by
  rw [State.storageWf_iff] at h ⊢
  exact ⟨h.1, h.2.1, rising_setDel _ _ h.2.2⟩

theorem fireWatches_storage (s : State) (k n uid : Nat) : (fireWatches s k n uid).mem = s.mem ∧
    (fireWatches s k n uid).empties = s.empties ∧ (fireWatches s k n uid).marks = s.marks := by
  unfold fireWatches
  split <;> exact ⟨rfl, rfl, rfl⟩

theorem storageWf_fireWatches (s : State) (k n uid : Nat) (h : s.storageWf = true) : (fireWatches s k n uid).storageWf = true :=
  let f := fireWatches_storage s k n uid
  State.storageWf_congr f.1 f.2.1 f.2.2 h

/-- Everything a write at a home can do to storage: the bytes and the unit's mark, or nothing (R294, R405). -/
theorem storeAt_storage (s : State) (k n v uid : Nat) :
    storeAt s k n v uid = s ∨ ((storeAt s k n v uid).mem = memWrite s.mem k n v ∧ (storeAt s k n v uid).empties = s.empties ∧
      (storeAt s k n v uid).marks = setDel s.marks (markUnit k)) := by
  unfold storeAt
  split
  · exact .inl rfl
  · exact .inr (fireWatches_storage _ _ _ _)

theorem storageWf_storeAt (s : State) (k n v uid : Nat) (h : s.storageWf = true) : (storeAt s k n v uid).storageWf = true := by
  obtain e | ⟨hm, he, hk⟩ := storeAt_storage s k n v uid
  · rw [e]
    exact h
  · rw [State.storageWf_iff] at h ⊢
    rw [hm, he, hk]
    exact ⟨Memory.wf_write _ _ _ _ h.1, h.2.1, rising_setDel _ _ h.2.2⟩

theorem storageWf_pokeBytes (s : State) (k : Nat) (bs : List Byte) (h : s.storageWf = true) : (pokeBytes s k bs).storageWf = true := by
  rw [State.storageWf_iff] at h ⊢
  exact ⟨Memory.wf_setBytes _ _ _ h.1, h.2⟩

theorem storageWf_clearRange (s : State) (k n : Nat) (h : s.storageWf = true) : (clearRange s k n).storageWf = true := by
  rw [State.storageWf_iff] at h ⊢
  exact ⟨Memory.wf_filter _ _ h.1, h.2⟩

theorem storageWf_hostStore (s : State) (off : Nat) (data : List Byte) (h : s.storageWf = true) :
    (hostStore s off data).storageWf = true := by
  unfold hostStore
  split
  · exact storageWf_pokeBytes _ _ _ h
  · exact h

/-- The full/empty bit after either change: of the word itself as set, of any other as before (R255). -/
theorem isFull_setFull (s : State) (k j : Nat) : isFull (setFull s k) j = (decide (wordOf j = wordOf k) || isFull s j) := by
  by_cases h : wordOf j = wordOf k <;> simp [isFull, setFull, setDel, h]

end Sys2Proof.Machine
end

