-- ==== Sys2Proof/Tests/Slice0.lean ====
section
/-! SUPPORT. Tests: a term that each check of well-formedness refuses, words of the spec's encoding tables, one-step tests, and for
every statement with hypotheses a concrete state that meets them. -/
namespace Sys2Proof.Tests
open Sys2Proof Sys2Proof.Machine Sys2Proof.Claims

set_option Elab.async false

/-! ### Answers as data -/

/-- The value of a check that passes. -/
def okVal {α : Type} : Except Stop α → Option α
  | .ok x => some x
  | .error _ => none

theorem okVal_eq {α : Type} {e : Except Stop α} {v : α} (h : okVal e = some v) : e = .ok v := by
  cases e with
  | ok x => simp [okVal] at h; rw [h]
  | error _ => simp [okVal] at h

theorem okVal_any {α : Type} {e : Except Stop α} (p : α → Bool) (h : (okVal e).any p = true) : ∃ v, e = .ok v ∧ p v = true := by
  cases e with
  | ok x => exact ⟨x, rfl, by simpa [okVal] using h⟩
  | error _ => simp [okVal] at h

/-- What holds of each listed value, checked value by value. -/
theorem all_of {α : Type} {l : List α} {p : α → Prop} [DecidablePred p] (h : l.all (fun x => decide (p x)) = true) : ∀ x ∈ l, p x := by
  simpa using h

/-- The next state of an outcome, the given one where it stops. -/
def nextOf (s : State) : Host.Outcome State Fault Refusal → State
  | .next t => t
  | .fault _ => s
  | .refused _ => s

/-- The outcome is a next state. -/
def isNext : Host.Outcome State Fault Refusal → Bool
  | .next _ => true
  | .fault _ => false
  | .refused _ => false

/-! ### Small states -/

/-- A thread of 63 locals and 16 tile registers, member 0 of family 1, with these registers full. -/
def thr (regs : List (Nat × Word)) : Thread :=
  { Thread.free with
    status := .ready, uid := 5, fam := 1, genP := 1, pc := 0x100
    hdr := { Header.zero with l := 63, tiles := 16 }
    regs := fullRegs (regs ++ ((List.range 64).filter (fun i => i ≠ 0 ∧ ¬ regs.any (fun p => p.1 == i))).map (fun i => (i, (0 : Word)))) }

/-- Core 0 with an allocation of context 0 at 0x400. -/
def core0 : Core := { Core.init with launch := 1, allocs := [⟨0, 0, 0x400, 0x1000⟩] }

/-- A live context at rest. -/
def ctx0 : Context :=
  { cfg := 0, pendCfg := none, troot := 0x100000, rootNow := 0x100000, rootAt := [], seedP := 1, seedQ := 0, epochP := 1, epochQ := 0, threads := 0, coreTbl := 0
    routeTbl := 0, expTbl := 0, caddy := [], scratch := [], portVa := 0, portKey := 0, portBy := 0, taskSeq := 0, taskMax := 0, images := 0
    spares := [] }

/-- A device with that core, that context and a thread in slot 0. -/
def st (th : Thread) : State :=
  { State.reset with cores := [(0, core0)], contexts := [(0, ctx0)], threads := [(0, th)], nextId := 10 }

/-- The same with registers only. -/
def sr (regs : List (Nat × Word)) : State := st (thr regs)

/-- What a thread's plain operands hold: one decidable check of everything `Ready` asks. -/
def plainCheck (s : State) (srcs : List RegNo) (vs : List Word) : Bool :=
  (cur s).status.canIssue && srcs.all (plainSource (cur s)) && !srcs.any (depOwed s) && srcs.map (fun n => (getReg (cur s) n).val) == vs

theorem readyFor_of {s : State} {srcs : List RegNo} {vs : List Word} (h : plainCheck s srcs vs = true) :
    ReadyFor s srcs vs (cur s) := by
  simp only [plainCheck, Bool.and_eq_true, beq_iff_eq, Bool.not_eq_true'] at h
  exact ⟨h.1.1.1, h.2 ▸ readOnlyForm_plain h.1.1.2 h.1.2⟩

theorem ready_of {s : State} {srcs : List RegNo} {d : RegNo} {vs : List Word}
    (h : (plainCheck s srcs vs && plainDest (cur s) d) = true) : Ready s srcs d vs (cur s) := by
  simp only [plainCheck, Bool.and_eq_true, beq_iff_eq, Bool.not_eq_true'] at h
  exact ⟨h.1.1.1.1, h.1.2 ▸ readForm_plain h.1.1.1.2 h.1.1.2 h.2⟩

/-! ### Witnesses: integer, operand and control statements -/

/-- Registers 1 to 4 hold 7, 9, 0x2000 and 3. -/
def sInt : State := sr [(1, 7), (2, 9), (3, 0x2000), (4, 3)]

theorem wit_IntegerResults_binary : binaryTable.length = 31 ∧ Ready sInt [1, 2] 3 [7, 9] (cur sInt) :=
  ⟨by decide +kernel, ready_of (by decide +kernel)⟩
theorem wit_IntegerResults_unary : Ready sInt [1] 3 [7] (cur sInt) := ready_of (by decide +kernel)
theorem wit_IntegerResults_ternary : Ready sInt [1, 2, 3] 3 [7, 9, 0x2000] (cur sInt) := ready_of (by decide +kernel)
theorem wit_IntegerResults_constants : Ready sInt [] 63 [] (cur sInt) := ready_of (by decide +kernel)
theorem wit_SlowResults : divisionTable.length = 4 ∧ Ready sInt [1, 0] 0 [7, 0] (cur sInt) :=
  ⟨by decide +kernel, ready_of (by decide +kernel)⟩
theorem wit_ControlFlow_branches : branchTable.length = 6 ∧ ReadyFor sInt [1, 2] [7, 9] (cur sInt) :=
  ⟨by decide +kernel, readyFor_of (by decide +kernel)⟩
theorem wit_ControlFlow_jal : Ready sInt [] 1 [] (cur sInt) := ready_of (by decide +kernel)
theorem wit_ControlFlow_jalr : Ready sInt [3] 3 [0x2000] (cur sInt) ∧
    ((0x2000 : Word) + (0x3FFC : BitVec 14).signExtend 64).extractLsb' 32 32 = 0 ∧
    ((0x2000 : Word) + (0x3FFC : BitVec 14).signExtend 64).extractLsb' 0 2 = 0 :=
  ⟨ready_of (by decide +kernel), by decide +kernel⟩
theorem wit_ControlFlow_jalr_low : Ready sInt [3] 3 [0x2000] (cur sInt) ∧
    ((0x2000 : Word) + (1 : BitVec 14).signExtend 64).extractLsb' 0 2 ≠ 0 := ⟨ready_of (by decide +kernel), by decide +kernel⟩
theorem wit_ControlFlow_jalr_high : Ready (sr [(1, 0x100000000)]) [1] 2 [0x100000000] (cur (sr [(1, 0x100000000)])) ∧
    ((0x100000000 : Word) + (0 : BitVec 14).signExtend 64).extractLsb' 32 32 ≠ 0 := ⟨ready_of (by decide +kernel), by decide +kernel⟩

theorem wit_OperandForms_plain : Live sInt ∧ [1, 63].all (plainSource (cur sInt)) = true ∧ (∀ n ∈ ([1, 63] : List RegNo), depOwed sInt n = false) ∧ plainDest (cur sInt) 63 = true := by
  unfold Live; decide +kernel

/-- Register 1 empty, 2 poisoned, 3 indeterminate, 4 awaiting a result; five globals of which the thread names none to write. -/
def sStop : State :=
  st { thr [] with
    hdr := { Header.zero with g := 5, s := 1, l := 40 }
    regs := [(1, { Reg.empty with pend := true }), (2, { Reg.empty with full := true, poison := true }),
      (3, { Reg.empty with full := true, indet := true, indetAddr := 0x88 }), (4, fullReg 4), (5, fullReg 5), (10, fullReg 1),
      (11, { Reg.empty with pend := true })] }

theorem wit_OperandForms_noPorts : Live sStop ∧ ∀ n : RegNo, portOf (cur sStop) n = none := ⟨by unfold Live; decide +kernel, fun _ => rfl⟩
theorem wit_OperandForms_illegal : windowSize (cur sStop).hdr ≤ (48 : RegNo).toNat ∧ isReadOnly (cur sStop).hdr 5 = true ∧
    isReadOnly (cur sStop).hdr 7 = true := by decide +kernel
theorem wit_OperandForms_named : (47 : RegNo).toNat < windowSize (cur sStop).hdr ∧ isReadOnly (cur sStop).hdr 8 = false := by
  decide +kernel
theorem wit_OperandForms_empty : (getReg (cur sStop) 1).full = false := by decide +kernel
theorem wit_OperandForms_poisoned : (getReg (cur sStop) 2).full = true ∧ (getReg (cur sStop) 2).poison = true := by decide +kernel
theorem wit_OperandForms_indeterminate : (getReg (cur sStop) 3).full = true ∧ (getReg (cur sStop) 3).poison = false ∧
    (getReg (cur sStop) 3).indet = true ∧ (getReg (cur sStop) 4).indet = false := by decide +kernel
theorem wit_OperandForms_outstanding : (getReg (cur sStop) 11).pend = true ∧ (11 : RegNo) ≠ 0 ∧
    (getReg (cur sStop) 4).full = true ∧ (getReg (cur sStop) 4).poison = false ∧ (getReg (cur sStop) 10).indet = false := by
  decide +kernel

/-- A family of two members whose second runs on core 3. -/
def famTwo : Family :=
  { ctx := 0, home := 0, creator := 0, launch := 1, start := 0, limit := 2, step := 1, ext := [0], block := 0, place := 4, index := 0,
    scope := 3, lvl := 4, hdr := { Header.zero with s := 1, l := 40 }, count := 2, claimed := 2,
    chunks := [⟨0, 0, 1, 1, [], 1⟩, ⟨3, 1, 1, 0, [], 2⟩], back := [], again := [], granted := [0, 3], placed := true, folded := false
    outcome := .running, globals := [], deps := [], shareds := [], arrived := [], ended := 0, killed := [] }
def sFam : State :=
  { st { thr [] with hdr := { Header.zero with s := 1, l := 40 } } with families := [(1, famTwo)] }

/-- Both members stand on core 0, and the first awaits a result in its shared, which is the second's dependent. -/
def sDep : State :=
  let h := { Header.zero with s := 1, l := 40 }
  { sFam with threads := [(0, { thr [] with hdr := h, member := 1 }),
      (1, { thr [] with hdr := h, uid := 6, regs := [(1, { Reg.empty with pend := true })] })] }
theorem wit_OperandForms_owed : Live sDep ∧ depOwed sDep 2 = true ∧ depOwed sDep 1 = false ∧ portOf (cur sDep) 2 = none ∧
    (2 : RegNo).toNat < windowSize (cur sDep).hdr := by unfold Live; decide +kernel

theorem wit_OperandForms_local : (63 : RegNo) ≠ 0 ∧ portOf (thr []) 63 = none ∧ isShared (thr []).hdr 63 = false := by decide +kernel
theorem wit_OperandForms_shared : portOf (cur sFam) 1 = none ∧ isShared (cur sFam).hdr (1 : RegNo).toNat = true ∧
    (cur sFam).kind = .member ∧ (cur sFam).frames = [] ∧ getFam sFam 1 = some famTwo ∧ (cur sFam).fam = 1 ∧
    chunkCore famTwo ((cur sFam).member + 1) = some 3 ∧ (3 : Nat) ≠ sFam.core := by decide +kernel

/-- A shape of four 64-bit elements in the scratchpad. -/
def recFour : ShapeRec := ⟨0xF000000000400, 0xF000000000500, 1, 0, 0, 1, [4], [8]⟩
def thOut : Thread := { thr [] with ports := [⟨20, 7, 0xF000000000400, true, false, 0x80, recFour, 3, false, []⟩] }
theorem wit_OperandForms_output :
    portOf thOut 7 = some ⟨20, 7, 0xF000000000400, true, false, 0x80, recFour, 3, false, []⟩ ∧ (3 : Nat) < recCount recFour := by
  decide +kernel

theorem wit_RegisterResultsTouchNothingElse : plainDest (cur sInt) 63 = true ∧ isShared (cur sInt).hdr 63 = false ∧
    plainDest (cur sInt) 0 = true := by decide +kernel

/-- 1.0, a signalling NaN and the greatest number, as double-precision encodings. -/
def sFp : State := sr [(1, 0x3FF0000000000000), (2, 0x7FF0000000000001), (3, 0x7FEFFFFFFFFFFFFF), (4, 0x4000000000000000)]
/-- The same under a context that traps on every exception. -/
def sFpTrap : State := { sFp with contexts := [(0, { ctx0 with cfg := 0x7C })] }

theorem wit_FloatResults_retires : Ready sFp [1, 2] 5 [0x3FF0000000000000, 0x7FF0000000000001] (cur sFp) ∧
    flagsTrap (curCfg sFp) 0x1F = false := ⟨ready_of (by decide +kernel), by decide +kernel⟩
theorem wit_FloatResults_traps : Ready sFpTrap [1, 2] 5 [0x3FF0000000000000, 0x7FF0000000000001] (cur sFpTrap) ∧
    flagsTrap (curCfg sFpTrap) 1 = true := ⟨ready_of (by decide +kernel), by decide +kernel⟩
theorem wit_FloatResults_unary : Ready sFp [4] 5 [0x4000000000000000] (cur sFp) := ready_of (by decide +kernel)
theorem wit_FloatResults_fused : Ready sFp [1, 3, 4] 5 [0x3FF0000000000000, 0x7FEFFFFFFFFFFFFF, 0x4000000000000000] (cur sFp) :=
  ready_of (by decide +kernel)
theorem wit_FloatResults_nan : (operand .f64 (curEnv sFp .rne) 0x7FF0000000000001).isNan = true ∧
    (operand .bf16 (curEnv sFp .rne) 0x7FC0).isNan = true := by decide +kernel

/-! ### Witnesses: memory -/

theorem okVal_unit {e : Except Stop Unit} (h : (okVal e).isSome = true) : e = .ok () := by
  cases e with
  | ok x => rfl
  | error _ => simp [okVal] at h

/-- Why a check fails. -/
def errVal {ε α : Type} : Except ε α → Option ε
  | .ok _ => none
  | .error x => some x

theorem errVal_eq {ε α : Type} {e : Except ε α} {x : ε} (h : errVal e = some x) : e = .error x := by
  cases e with
  | ok _ => simp [errVal] at h
  | error y => simp [errVal] at h; rw [h]

/-- A place is reached, and has this property. -/
def reachCheck (s : State) (th : Thread) (va : Word) (align n : Nat) (rd wr : Bool) (acc : Win → Bool) (sets : BitVec 6)
    (p : Loc → Bool) : Bool :=
  !isHeld s (cur s) sets && (okVal (checkAddr (setCur s th) va align n rd wr acc)).any (fun x => p x.1)

theorem reaches_of {s : State} {th : Thread} {va : Word} {align n : Nat} {rd wr : Bool} {acc : Win → Bool} {sets : BitVec 6}
    {p : Loc → Bool} (h : reachCheck s th va align n rd wr acc sets p = true) :
    ∃ l s1, Reaches s th va align n rd wr acc sets l s1 ∧ p l = true := by
  simp only [reachCheck, Bool.and_eq_true, Bool.not_eq_true'] at h
  obtain ⟨x, hx, hp⟩ := okVal_any (fun x : Loc × State => p x.1) h.2
  exact ⟨x.1, x.2, ⟨h.1, hx⟩, hp⟩

theorem loadGoes_of {s : State} {th : Thread} {va : Word} {n : Nat} {b : Bool}
    (h : (decide (th.cntL < 15) && reachCheck s th va n n true false loadWin 1 (fun l =>
      l.win != .regWin && (okVal (specWindow s l.win)).isSome && l.drop == b)) = true) :
    ∃ l s1, LoadGoes s th va n l s1 ∧ l.drop = b := by
  simp only [Bool.and_eq_true, decide_eq_true_eq] at h
  obtain ⟨l, s1, hr, hp⟩ := reaches_of h.2
  simp only [Bool.and_eq_true, bne_iff_ne, ne_eq, beq_iff_eq] at hp
  exact ⟨l, s1, ⟨hr, hp.1.1, okVal_unit hp.1.2, h.1⟩, hp.2⟩

theorem storeGoes_of {s : State} {th : Thread} {va : Word} {n : Nat} {b : Bool}
    (h : (decide (th.cntS < 15) && (specTask s (cur s)).isNone && reachCheck s th va n n false true loadWin 2 (fun l =>
      l.win != .regWin && l.drop == b)) = true) : ∃ l s1, StoreGoes s th va n l s1 ∧ l.drop = b := by
  simp only [Bool.and_eq_true, decide_eq_true_eq, Option.isNone_iff_eq_none] at h
  obtain ⟨l, s1, hr, hp⟩ := reaches_of h.2
  simp only [Bool.and_eq_true, bne_iff_ne, ne_eq, beq_iff_eq] at hp
  exact ⟨l, s1, ⟨hr, hp.1, h.1.2, h.1.1⟩, hp.2⟩

theorem accessGoes_of {s : State} {th : Thread} {va : Word} {n : Nat} {rd wr : Bool} {acc : Win → Bool} {sets : BitVec 6}
    {far : Bool} (h : (decide (th.cntL < 15) && decide (th.cntS < 15) && (specTask s (cur s)).isNone &&
      reachCheck s th va n n rd wr acc sets (fun l => l.far == far && !l.drop)) = true) :
    ∃ l s1, AccessGoes s th va n rd wr acc sets l s1 ∧ l.drop = false ∧ l.far = far := by
  simp only [Bool.and_eq_true, decide_eq_true_eq, Option.isNone_iff_eq_none] at h
  obtain ⟨l, s1, hr, hp⟩ := reaches_of h.2
  simp only [Bool.and_eq_true, beq_iff_eq, Bool.not_eq_true'] at hp
  exact ⟨l, s1, ⟨hr, h.1.2, h.1.1.1, h.1.1.2⟩, hp.2, hp.1⟩

/-- Register 1 points at the start of the allocation, 2 below it at its guard granule, 3 at the register window, 4 outside every
window; 5 holds 8. The route table at 0 gives logical device 1 the number 1. Leaves map page 2 of the context onto the fabric's reduction window, page 3 onto its multicast one and page 4 onto
device 1. -/
def sMem : State :=
  let s := sr [(1, 0xF000000000400), (2, 0xF0000000003F8), (3, 0xF000010000018), (4, 0xF800000000000), (5, 8), (6, 0x20000), (7, 0x30000),
    (9, 0x40000)]
  let entry := fun (m : List Host.Cell) (k v : Nat) => memWrite m k 8 v
  { s with mem := entry (entry (entry (entry (entry (entry [] 0x100000 0x200001) 0x200000 0x300001) 0x300000 0x400001)
      0x400010 0xC00000000007) 0x400018 0xA0000000000B) 0x400020 0x80020000000F |> fun m => memWrite m 2 2 0x8001 }

theorem wit_MemoryAccessesIssue_load : Ready sMem [1] 8 [0xF000000000400] (cur sMem) ∧
    ∃ l s1, LoadGoes sMem (cur sMem) ((0xF000000000400 : Word) + (8 : BitVec 14).signExtend 64) 8 l s1 ∧ l.drop = false :=
  ⟨ready_of (by decide +kernel), loadGoes_of (by decide +kernel)⟩
theorem wit_MemoryAccessesIssue_load_dropped : Ready sMem [2] 0 [0xF0000000003F8] (cur sMem) ∧
    ∃ l s1, LoadGoes sMem (cur sMem) ((0xF0000000003F8 : Word) + (0 : BitVec 14).signExtend 64) 8 l s1 ∧ l.drop = true :=
  ⟨ready_of (by decide +kernel), loadGoes_of (by decide +kernel)⟩
theorem wit_MemoryAccessesIssue_ldx : Ready sMem [1, 5] 8 [0xF000000000400, 8] (cur sMem) ∧
    ∃ l s1, LoadGoes sMem (cur sMem) ((0xF000000000400 : Word) + 8) 1 l s1 ∧ l.drop = false :=
  ⟨ready_of (by decide +kernel), loadGoes_of (by decide +kernel)⟩
theorem wit_MemoryAccessesIssue_store : ReadyFor sMem [5, 1] [8, 0xF000000000400] (cur sMem) ∧
    (∃ l s1, StoreGoes sMem (cur sMem) ((0xF000000000400 : Word) + (4 : BitVec 14).signExtend 64) 4 l s1 ∧ l.drop = false) ∧
    ∃ l s1, StoreGoes sMem (cur sMem) ((0xF000000000400 : Word) + (0x3FF0 : BitVec 14).signExtend 64) 8 l s1 ∧ l.drop = true :=
  ⟨readyFor_of (by decide +kernel), storeGoes_of (by decide +kernel), storeGoes_of (by decide +kernel)⟩
theorem wit_MemoryAccessesIssue_mapped : Ready sMem [3] 8 [0xF000010000018] (cur sMem) ∧
    ReadyFor sMem [5, 3] [8, 0xF000010000018] (cur sMem) ∧
    (∃ l s1, Reaches sMem (cur sMem) ((0xF000010000018 : Word) + (0 : BitVec 14).signExtend 64) 8 8 true false loadWin 1 l s1 ∧
      decide (l.win = .regWin ∧ l.key = 3) = true) ∧
    (∃ l s1, Reaches sMem (cur sMem) ((0xF000010000018 : Word) + (0 : BitVec 14).signExtend 64) 8 8 false true loadWin 2 l s1 ∧
      decide (l.win = .regWin ∧ l.key = 3) = true) ∧
    plainSource (cur sMem) 3 = true ∧ plainDest (cur sMem) 3 = true ∧ portOf (cur sMem) 3 = none :=
  ⟨ready_of (by decide +kernel), readyFor_of (by decide +kernel), reaches_of (by decide +kernel), reaches_of (by decide +kernel),
    by decide +kernel⟩

theorem wit_AddressFaults_misaligned : Ready sMem [1] 8 [0xF000000000400] (cur sMem) ∧ isHeld sMem (cur sMem) 3 = false ∧
    ((0xF000000000400 : Word) + (4 : BitVec 14).signExtend 64).toNat % 8 ≠ 0 :=
  ⟨ready_of (by decide +kernel), by decide +kernel⟩
theorem wit_AddressFaults_unmapped : ReadyFor sMem [5, 4] [8, 0xF800000000000] (cur sMem) ∧
    (resolve (setCur sMem (cur sMem)) 0 0 0 (0xF800000000000 : Word) 8 true false).1 = .error true ∧
    (resolve (setCur sMem (cur sMem)) 0 0 0 (0xF800000000000 : Word) 8 false true).1 = .error true :=
  ⟨readyFor_of (by decide +kernel), errVal_eq (by decide +kernel), errVal_eq (by decide +kernel)⟩
theorem wit_AddressFaults_refused :
    (resolve (setCur sMem (cur sMem)) 0 0 0 ((0xF000000000400 : Word) + (0x1FF0 : BitVec 14).signExtend 64) 8 true false).1 =
      .error false ∧
    (resolve (setCur sMem (cur sMem)) 0 0 0 ((0xF000000000400 : Word) + (0x1FF8 : BitVec 14).signExtend 64) 8 false true).1 =
      .error false := ⟨errVal_eq (by decide +kernel), errVal_eq (by decide +kernel)⟩

theorem wit_FullEmptyIssue_loads : Ready sMem [1, 5] 8 [0xF000000000400, 8] (cur sMem) ∧
    (∃ l s1, AccessGoes sMem (cur sMem) ((0xF000000000400 : Word) + 8) 8 true false plainWin 1 l s1 ∧ l.drop = false ∧ l.far = false) ∧
    (∃ l s1, AccessGoes sMem (cur sMem) ((0xF000000000400 : Word) + 8) 8 true true stateWin 1 l s1 ∧ l.drop = false ∧ l.far = false) :=
  ⟨ready_of (by decide +kernel), accessGoes_of (by decide +kernel), accessGoes_of (by decide +kernel)⟩
theorem wit_FullEmptyIssue_ldrd : Ready sMem [6, 0] 8 [0x20000, 0] (cur sMem) ∧
    ∃ l s1, AccessGoes sMem (cur sMem) ((0x20000 : Word) + 0) 8 true false (fun w => w == .reduce) 1 l s1 ∧ l.drop = false ∧ l.far = false :=
  ⟨ready_of (by decide +kernel), accessGoes_of (by decide +kernel)⟩
theorem wit_FullEmptyIssue_stores : ReadyFor sMem [1, 5] [0xF000000000400, 8] (cur sMem) ∧
    (∃ l s1, AccessGoes sMem (cur sMem) 0xF000000000400 8 false true plainWin 2 l s1 ∧ l.drop = false ∧ l.far = false) ∧
    (∃ l s1, AccessGoes sMem (cur sMem) 0xF000000000400 (amoBytes .add) true true (amoWin (amoHostOk .add)) 3 l s1 ∧
      l.drop = false ∧ l.far = false) ∧
    ∃ l s1, AccessGoes sMem (cur sMem) 0xF000000000400 (amoBytes .fadd32) true true (amoWin (amoHostOk .fadd32)) 3 l s1 ∧
      l.drop = false ∧ l.far = false :=
  ⟨readyFor_of (by decide +kernel), accessGoes_of (by decide +kernel), accessGoes_of (by decide +kernel),
    accessGoes_of (by decide +kernel)⟩
theorem wit_FullEmptyIssue_stm : ReadyFor sMem [7, 5] [0x30000, 8] (cur sMem) ∧
    ∃ l s1, AccessGoes sMem (cur sMem) 0x30000 8 false true (fun w => w == .multicast) 2 l s1 ∧ l.drop = false ∧ l.far = false :=
  ⟨readyFor_of (by decide +kernel), accessGoes_of (by decide +kernel)⟩
theorem wit_FullEmptyIssue_ste : Ready sMem [1, 5] 8 [0xF000000000400, 8] (cur sMem) ∧
    ∃ l s1, AccessGoes sMem (cur sMem) 0xF000000000400 8 true true stateWin 3 l s1 ∧ l.drop = false ∧ l.far = false :=
  ⟨ready_of (by decide +kernel), accessGoes_of (by decide +kernel)⟩
theorem wit_FullEmptyIssue_far : Ready sMem [9, 5] 8 [0x40000, 8] (cur sMem) ∧
    (∃ l s1, AccessGoes sMem (cur sMem) ((0x40000 : Word) + 8) 8 true true stateWin 1 l s1 ∧ l.drop = false ∧ l.far = true) ∧
    ∃ l s1, AccessGoes sMem (cur sMem) 0x40000 8 true true stateWin 3 l s1 ∧ l.drop = false ∧ l.far = true :=
  ⟨ready_of (by decide +kernel), accessGoes_of (by decide +kernel), accessGoes_of (by decide +kernel)⟩
theorem wit_AddressFaults_lde : Ready sMem [1, 4] 8 [0xF000000000400, 0xF800000000000] (cur sMem) ∧
    Ready sMem [6, 5] 8 [0x20000, 8] (cur sMem) ∧ isHeld sMem (cur sMem) 1 = false ∧
    ((0xF000000000400 : Word) + 4).toNat % 8 ≠ 0 ∧
    (resolve (setCur sMem (cur sMem)) 0 0 0 ((0xF000000000400 : Word) + 0xF800000000000) 8 true true).1 = .error true ∧
    (resolve (setCur sMem (cur sMem)) 0 0 0 ((0x20000 : Word) + 8) 8 true true).1 = .error false :=
  ⟨ready_of (by decide +kernel), ready_of (by decide +kernel), by decide +kernel, by decide +kernel, errVal_eq (by decide +kernel),
    errVal_eq (by decide +kernel)⟩
theorem wit_FullEmptyIssue_cas : Ready sMem [1, 5, 5] 5 [0xF000000000400, 8, 8] (cur sMem) ∧
    ∃ l s1, AccessGoes sMem (cur sMem) 0xF000000000400 8 true true (amoWin true) 3 l s1 ∧ l.drop = false ∧ l.far = false :=
  ⟨ready_of (by decide +kernel), accessGoes_of (by decide +kernel)⟩

/-- A request of the thread in slot 0. -/
def req (kind : ReqKind) (key width : Nat) (b : Word) : Request :=
  { Request.zero with id := 4, uid := 5, kind := kind, key := key, width := width, d := 8, b := b, va := 0xF000000000400 }

/-- A state whose event is to be served, with these requests in flight and these bytes in memory. -/
def home (e : Event) (fl : List Request) (m : List Host.Cell) : State :=
  { sMem with event := e, flights := fl, mem := m }

/-- Key of the allocation's first word. -/
def k0 : Nat := 2 ^ 48 + 0x400

def sLoad : State := home (.resultArrival 4 0 false) [req (.load true) k0 4 0] [(k0, 0x80), (k0 + 3, 0xFF)]

theorem found_of {s : State} {r : Request} {k : Nat} (h : (!homeFaults s r.ctx r.key && hereKey s r.ctx r.key == k && !farKey s k) = true) :
    FoundAt s r k := by
  simp only [Bool.and_eq_true, Bool.not_eq_true', beq_iff_eq] at h
  exact ⟨h.1.1, h.1.2, h.2⟩

theorem awaited_of {s : State} {i : Nat} {r : Request} (h : (decide (getRequest s i = some r) &&
    decide ((getThread s r.core r.slot).uid = r.uid) && decide ((getThread s r.core r.slot).status ≠ .free) &&
    (portOf (getThread s r.core r.slot) r.d).isNone && !isShared (getThread s r.core r.slot).hdr r.d.toNat &&
    decide (r.d ≠ 0)) = true) : Awaited s i r := by
  simp only [Bool.and_eq_true, decide_eq_true_eq, Option.isNone_iff_eq_none, Bool.not_eq_true'] at h
  exact ⟨h.1.1.1.1.1, h.1.1.1.1.2, h.1.1.1.2, h.1.1.2, h.1.2, h.2⟩

theorem wit_ResultsArrive_load : Awaited sLoad 4 (req (.load true) k0 4 0) ∧ mayPerform sLoad (req (.load true) k0 4 0) = true ∧
    FoundAt sLoad (req (.load true) k0 4 0) k0 ∧ specTask sLoad (getThread sLoad 0 0) = none :=
  ⟨awaited_of (by decide +kernel), by decide +kernel, found_of (by decide +kernel), by decide +kernel⟩
theorem wit_ResultsArrive_load_marked : Awaited { sLoad with marks := [k0] } 4 (req (.load true) k0 4 0) ∧
    rangeMarked { sLoad with marks := [k0] } k0 4 = true := ⟨awaited_of (by decide +kernel), by decide +kernel⟩
theorem wit_ResultsArrive_delayed :
    Awaited (home (.resultArrival 4 0 false) [{ req .delayed 0 0 0 with resp := some 9 }] []) 4 { req .delayed 0 0 0 with resp := some 9 } :=
  awaited_of (by decide +kernel)
theorem wit_ResultsArrive_fstat : Awaited (home (.resultArrival 4 0 false) [req .fstat k0 8 0] []) 4 (req .fstat k0 8 0) ∧
    mayPerform (home (.resultArrival 4 0 false) [req .fstat k0 8 0] []) (req .fstat k0 8 0) = true ∧
    FoundAt (home (.resultArrival 4 0 false) [req .fstat k0 8 0] []) (req .fstat k0 8 0) k0 :=
  ⟨awaited_of (by decide +kernel), by decide +kernel, found_of (by decide +kernel)⟩

def sStore : State := home (.writeAtHome 4) [req .store k0 4 0xFFFFFFFF12345678] [(k0 + 4, 1)]
theorem wit_AtHome_store : getRequest sStore 4 = some (req .store k0 4 0xFFFFFFFF12345678) ∧
    mayPerform sStore (req .store k0 4 0xFFFFFFFF12345678) = true ∧ FoundAt sStore (req .store k0 4 0xFFFFFFFF12345678) k0 ∧
    tagRoom sStore (req .store k0 4 0xFFFFFFFF12345678) = true ∧ tagResult sStore (req .store k0 4 0xFFFFFFFF12345678) = none ∧
    rangeMarked sStore k0 4 = false :=
  ⟨by decide +kernel, by decide +kernel, found_of (by decide +kernel), by decide +kernel⟩
theorem wit_AtHome_store_marked : mayPerform { sStore with marks := [k0] } (req .store k0 4 0) = true ∧
    rangeMarked { sStore with marks := [k0] } k0 4 = true ∧ coversUnit k0 4 = false ∧ coversUnit k0 8 = true := by decide +kernel
def sAmo (kind : ReqKind) : State := home (.atomicAtHome 4 none) [{ req kind k0 8 3 with e := 7 }] [(k0, 7)]
theorem wit_AtHome_atomics : (∀ p ∈ wordOps, mayPerform (sAmo (.amo p.1)) { req (.amo p.1) k0 8 3 with e := 7 } = true ∧
      mayPerform (sAmo (.red p.1)) { req (.red p.1) k0 8 3 with e := 7 } = true) ∧
    getRequest (sAmo .cas) 4 = some { req .cas k0 8 3 with e := 7 } ∧ mayPerform (sAmo .cas) { req .cas k0 8 3 with e := 7 } = true ∧
    rangeMarked (sAmo .cas) k0 8 = false ∧ word (memRead (sAmo .cas).mem k0 8) = 7 := by decide +kernel
theorem wit_AtHome_atomics_found : FoundAt (sAmo .cas) { req .cas k0 8 3 with e := 7 } k0 ∧ farKey (sAmo .cas) k0 = false ∧
    tagRoom (sAmo .cas) { req .cas k0 8 3 with e := 7 } = true ∧ tagResult (sAmo .cas) { req .cas k0 8 3 with e := 7 } = none :=
  ⟨found_of (by decide +kernel), by decide +kernel⟩
/-- The same compare-and-swap from device 1, under a tag. -/
theorem wit_AtHome_tagged : tagRoom (sAmo .cas) { req .cas k0 8 3 with core := remoteCore 1 0, tag := 3 } = true ∧
    tagResult (sAmo .cas) { req .cas k0 8 3 with core := remoteCore 1 0, tag := 3 } = none := by decide +kernel

def sFe (kind : ReqKind) (empty : Bool) : State :=
  { home (.feAccessAtHome 4) [req kind k0 8 3] [(k0, 7)] with empties := if empty then [k0] else [] }
theorem wit_FullEmptyAtHome : ∀ kind ∈ [ReqKind.ldf, .lde, .stf, .ste], ∀ e ∈ [true, false],
    getRequest (sFe kind e) 4 = some (req kind k0 8 3) ∧ mayPerform (sFe kind e) (req kind k0 8 3) = true ∧
    (req kind k0 8 3).resp = none ∧ (req kind k0 8 3).arrived = 0 ∧ keyHasState k0 = true ∧ k0 % 8 = 0 ∧
    isMarked (sFe kind e) k0 = false ∧ isFull (sFe kind e) k0 = !e ∧
    (∀ q ∈ (sFe kind e).flights, q.id ≠ 4 → isFeWaiter q k0 = false) ∧ 0 < (sFe kind e).nextId ∧
    (req kind k0 8 3).rel = false := by decide +kernel
theorem wit_FullEmptyAtHome_found : FoundAt (sFe .ldf true) (req .ldf k0 8 3) k0 ∧ FoundAt (sFe .ste false) (req .ste k0 8 3) k0 ∧
    farKey (sFe .ldf true) k0 = false := ⟨found_of (by decide +kernel), found_of (by decide +kernel), by decide +kernel⟩
def ldeA : Request := { req .lde k0 8 0 with arrived := 1 }
def ldeB : Request := { req .lde k0 8 0 with id := 6, arrived := 2 }
theorem wit_FullEmptyAtHome_oneFill : keyHasState k0 = true ∧ isMarked (home .none [ldeB, ldeA] []) k0 = false ∧
    isFeWaiter ldeA k0 = true ∧ isFeWaiter ldeB k0 = true ∧ ldeA.id ≠ ldeB.id ∧ ldeA.arrived < ldeB.arrived ∧
    (home .none [ldeB, ldeA] []).flights = [ldeB, ldeA] ∧ (∀ i, i < 8 → recvOpen (home .none [ldeB, ldeA] []) (k0 + i) = false) := by decide +kernel
theorem wit_FullEmptyAtHome_bounce : getRequest (home (.feRequestBounce 4) [ldeA] []) 4 = some ldeA ∧ ldeA.resp = none ∧
    0 < ldeA.arrived := by decide +kernel

/-- A barrier word of generation 1, target 3 and n arrivals. -/
def sBar (tgt n : Nat) : State := home (.barArrivalAtHome 4) [{ req .bar k0 8 0 with pc := 0x100 }] (memWrite [] k0 8 (2 ^ 56 + tgt * 2 ^ 32 + n))
theorem wit_Barriers_arrival : ∀ p ∈ [(3, 1), (3, 2), (0, 0)],
    getRequest (sBar p.1 p.2) 4 = some { req .bar k0 8 0 with pc := 0x100 } ∧
    mayPerform (sBar p.1 p.2) { req .bar k0 8 0 with pc := 0x100 } = true ∧ isMarked (sBar p.1 p.2) k0 = false ∧
    memRead (sBar p.1 p.2).mem k0 8 = 1 * 2 ^ 56 + p.1 * 2 ^ 32 + p.2 ∧ (getThread (sBar p.1 p.2) 0 0).uid = 5 ∧
    (getThread (sBar p.1 p.2) 0 0).status = .ready ∧ (getThread (sBar p.1 p.2) 0 0).pc = 0x100 ∧
    (∀ q ∈ (sBar p.1 p.2).flights, q.kind = .bar → q = { req .bar k0 8 0 with pc := 0x100 }) := by decide +kernel
theorem wit_Barriers_found : FoundAt (sBar 3 1) { req .bar k0 8 0 with pc := 0x100 } k0 ∧
    FoundAt (sBar 0 0) { req .bar k0 8 0 with pc := 0x100 } k0 := ⟨found_of (by decide +kernel), found_of (by decide +kernel)⟩
theorem wit_Barriers_bar : ReadyFor sMem [1] [0xF000000000400] (cur sMem) ∧
    atBarrier sMem (cur sMem) = false ∧ isHeld sMem (cur sMem) 3 = false ∧
    (cur sMem).cntL = 0 ∧ (cur sMem).cntS = 0 ∧ checkPending (cur sMem) = .ok () ∧
    ((resolve (setCur sMem (cur sMem)) 0 0 0 (0xF000000000400 : Word) 8 true true).1 = .ok ⟨.localSp, k0, false, false, false, 0⟩) :=
  ⟨readyFor_of (by decide +kernel), by decide +kernel, by decide +kernel, by decide +kernel, by decide +kernel,
    okVal_unit (by decide +kernel), by rfl⟩
theorem wit_Barriers_bar_waits : ReadyFor (st { thr [(1, 0xF000000000401)] with cntL := 1 }) [1] [0xF000000000401]
    (cur (st { thr [(1, 0xF000000000401)] with cntL := 1 })) ∧ (0xF000000000401 : Word).toNat % 8 ≠ 0 :=
  ⟨readyFor_of (by decide +kernel), by decide +kernel⟩
theorem wit_Fences : Live sStore ∧ (cur sStore).indetOps = none ∧ (2 : BitVec 6) ≠ 0 ∧ (2 : BitVec 6).getLsbD 1 = true ∧
    (∃ r ∈ sStore.flights, r.uid = (cur sStore).uid ∧ r.resp = none ∧ ReqKind.writes r.kind = true) ∧ 4 ≤ scopeNum .fab ∧
    scopeNum .core < 4 := by unfold Live; decide +kernel
theorem wit_Fences_reads : (∃ r ∈ sLoad.flights, r.uid = (cur sLoad).uid ∧ r.resp = none ∧ ReqKind.reads r.kind = true) ∧
    (1 : BitVec 6).getLsbD 0 = true ∧ Live sLoad := by unfold Live; decide +kernel
theorem wit_Waits : (∃ l : BitVec 4, (cur sMem).cntL ≤ l.toNat ∧ (cur sMem).cntM ≤ l.toNat) ∧
    ¬((cur (st { thr [] with cntC := 31 })).cntC ≤ (30 : BitVec 5).toNat) := ⟨⟨0, by decide +kernel⟩, by decide +kernel⟩

/-- A collective of one 64-bit element whose result, at the allocation's first word, no signal has announced. -/
def collOpen : Coll := ⟨30, 0, 0, 5, 0, 0x40, 0, 15, 0, 1, 1, 0xF000000000500, 0xF000000000400, 0, 0, 0, 0, []⟩
theorem wit_ResultsArrive_load_open : recvOpen { sLoad with colls := [collOpen] } k0 = true ∧
    rangeMarked { sLoad with colls := [collOpen] } k0 4 = false ∧ (∀ i, i < 4 → recvOpen sLoad (k0 + i) = false) ∧
    mayPerform { sLoad with colls := [collOpen] } (req (.load true) k0 4 0) = true := by decide +kernel
theorem wit_ResultsArrive_load_tagged :
    tagResult { sLoad with tags := [(homeOf k0, [⟨remoteCore 1 0, 3, 9, true, false⟩])] } { req (.load true) k0 4 0 with core := remoteCore 1 0, tag := 3 } =
      some (9, true) := by decide +kernel
theorem wit_AtHome_store_watch :
    let m : Monitor := ⟨k0, 0xF000000000400, 1, 6, 0⟩
    let s := putCore sStore 0 { getCore sStore 0 with mons := [m] }
    m ∈ (getCore s 0).mons ∧ m.uid ≠ 5 ∧ m.key < k0 + 4 ∧ k0 < m.key + 8 ∧ 0 < s.nextId ∧
      mayPerform s (req .store k0 4 0xFFFFFFFF12345678) = true := by decide +kernel

/-- This device exports its page 0 of the fabric window, as this page. -/
def sExport (k : Nat) (e : Event) (r : Request) : State :=
  { home e [r] (memWrite [] 0x100000 8 (k + 1)) with contexts := [(0, { ctx0 with expTbl := 0x100000 })] }
def kFab : Nat := 2 ^ 47 + State.reset.dev.devNum * 2 ^ 33 + 8
theorem wit_FullEmptyAtHome_fabric : ∀ p ∈ [(0x600000, false), (urnBase, true)],
    let r := req .lde kFab 8 0
    let s := sExport p.1 (.feAccessAtHome 4) r
    getRequest s 4 = some r ∧ mayPerform s r = true ∧ fabricKey r.key = true ∧ farKey s r.key = false ∧
      hereKey s 0 r.key = p.1 + 8 ∧ homeFaults s 0 r.key = false ∧ keyHasState (p.1 + 8) = p.2 ∧
      (getThread s 0 0).uid = r.uid ∧ (getThread s 0 0).status = .ready ∧ portOf (getThread s 0 0) 0 = none ∧ r.d ≠ 0 := by
  decide +kernel
theorem wit_FullEmptyAtHome_held :
    let s := { sFe .ste true with contexts := [(0, { ctx0 with portKey := k0 })] }
    portHeld { s with dev := { s.dev with handover := some (0, 1) } } k0 = true ∧ portHeld s k0 = false := by decide +kernel
theorem wit_FullEmptyAtHome_bounce_fabric : fabricKey ldeA.key = false ∧
    fabricKey ({ ldeA with key := kFab } : Request).key = true := by decide +kernel
theorem wit_AtHome_float_atomics : ∀ p ∈ floatAtomics,
    mayPerform (sAmo (.amo p.1)) { req (.amo p.1) k0 p.2.1 3 with e := 7 } = true ∧ rangeMarked (sAmo (.amo p.1)) k0 p.2.1 = false ∧
    tagRoom (sAmo (.amo p.1)) { req (.amo p.1) k0 p.2.1 3 with e := 7 } = true := by decide +kernel

/-! ### Witnesses: tiles -/

/-- A shape register of two rows of three elements. -/
def shapeOf (f : Fmt) : BitVec 128 :=
  BitVec.ofNat 128 (3 + 2 * 2 ^ 32 + 3 * 2 ^ 64 + 2 * 2 ^ 80 + f.code.toNat * 2 ^ 88 + 2 ^ 93)

/-- Shapes 0 and 1 of format f, tile registers 2 to 4 with some bytes set, tile register 5 a mask of one element. -/
def sTile (f : Fmt) : State :=
  st { thr [(1, 0x101000200030001), (2, 7)] with
    shapes := [(0, shapeOf f), (1, shapeOf f)], point := some 0x100
    tiles := [(2050, 0x3F), (2051, 0x40), (3072, 0x81), (4096, 2), (5120, 1)] }

/-- The checks pass with this thread. -/
def tileCheck (s : State) (sh : ShapeNo) (acc : Accepts) (srcs writes : List TileNo) (mask : TileNo) (regs : List RegNo) : Bool :=
  (cur s).status.canIssue && (okVal (tileChecks s sh acc true srcs writes mask regs)).isSome

theorem tileReady_of {s : State} {sh : ShapeNo} {acc : Accepts} {srcs writes : List TileNo} {mask : TileNo} {regs : List RegNo}
    (h : tileCheck s sh acc srcs writes mask regs = true) : TileReady s sh acc srcs writes mask regs := by
  simp only [tileCheck, Bool.and_eq_true] at h
  exact ⟨h.1, okVal_unit h.2⟩

theorem wit_TileIntegerResults_two : TileReady (sTile .i16) 0 .ints [2, 3] [1] 5 [] := tileReady_of (by decide +kernel)
theorem wit_TileIntegerResults_one : TileReady (sTile .z8) 0 .ints [2] [1] 0 [] := tileReady_of (by decide +kernel)
theorem wit_TileIntegerResults_vmac : TileReady (sTile .i4) 0 .ints [2, 3, 1] [1] 0 [] := tileReady_of (by decide +kernel)
theorem wit_OnlyLiveElements : (∀ v ∈ [(7, 127, 255), (0, 0, 1)], v.1 < 8 ∧ v.2.1 < capOf .z8 ∧ v.2.2 < 2 ^ (Fmt.z8).width) ∧
    ([(7, 127, 255), (0, 0, 1)].map (fun v : Nat × Nat × Nat => (v.1, v.2.1))).Nodup ∧
    (7, 126) ∉ [(7, 127, 255), (0, 0, 1)].map (fun v : Nat × Nat × Nat => (v.1, v.2.1)) := by decide +kernel

theorem wit_TileFloatResults_two : TileReady (sTile .f32) 0 .floats [2, 3] [1] 0 [] ∧
    flagsTrap (curCfg (sTile .f32)) 0x1F = false := ⟨tileReady_of (by decide +kernel), by decide +kernel⟩
theorem wit_TileFloatResults_vmac : TileReady (sTile .f64) 0 .floats [2, 3, 1] [1] 0 [] := tileReady_of (by decide +kernel)
theorem wit_TileFloatResults_one : TileReady (sTile .bf16) 0 .floats [2] [1] 0 [] ∧
    TileReady (sTile .f16) 0 .floats [2] [1] 5 [] ∧ TileReady (sTile .f16) 0 .special [2] [1] 5 [] ∧ tileSpecialTable.length = 4 :=
  ⟨tileReady_of (by decide +kernel), tileReady_of (by decide +kernel), tileReady_of (by decide +kernel), by decide +kernel⟩
theorem wit_TileFloatResults_vcvt : TileReady (sTile .e4m3) 0 .any [2] [1] 0 [] := tileReady_of (by decide +kernel)

theorem wit_TileBitsAndMasks_bits : TileReady (sTile .e2m1) 0 .any [2, 3] [1] 0 [] ∧ TileReady (sTile .f64) 0 .floats [2] [1] 5 [] ∧
    TileReady (sTile .i64) 0 .ints [2, 3] [1] 0 [] ∧ TileReady (sTile .z4) 0 .any [2] [1] 0 [] :=
  ⟨tileReady_of (by decide +kernel), tileReady_of (by decide +kernel), tileReady_of (by decide +kernel), tileReady_of (by decide +kernel)⟩
theorem wit_TileBitsAndMasks_compare : TileReady (sTile .f16) 0 .both [2, 3] [1] 0 [] ∧
    flagsTrap (curCfg (sTile .f16)) 0x1F = false := ⟨tileReady_of (by decide +kernel), by decide +kernel⟩
theorem wit_TileBitsAndMasks_vmsk : TileReady (sTile .i8) 0 .any [] [1] 0 [1] ∧
    tileSources (sTile .i8) 0 [1] = .ok ([0x101000200030001], cur (sTile .i8)) ∧
    shapeRows (cur (sTile .i8)) 0 ≤ 8 ∧ shapeLen (cur (sTile .i8)) 0 ≤ 1024 ∧ 1 < shapeRows (cur (sTile .i8)) 0 ∧
    2 < shapeLen (cur (sTile .i8)) 0 :=
  ⟨tileReady_of (by decide +kernel), okVal_eq (by decide +kernel), by decide +kernel⟩
theorem wit_ShapesAndFills : TileReady (sTile .z16) 0 .any [] [1] 5 [] ∧ Ready (sTile .z16) [1] 2 [0x101000200030001] (cur (sTile .z16)) ∧
    Ready (sTile .z16) [] 2 [] (cur (sTile .z16)) ∧ liveElems (cur (sTile .z16)) 0 5 = [(0, 0)] ∧
    liveElems (cur (sTile .z16)) 0 6 = [] :=
  ⟨tileReady_of (by decide +kernel), ready_of (by decide +kernel), ready_of (by decide +kernel), by decide +kernel⟩
theorem wit_TileScalar : TileReady (sTile .f32) 0 .both [2] [1] 0 [2] ∧ (shapeFmt (cur (sTile .f32)) 0).isInt = false ∧
    tileSources (sTile .f32) 0 [2] = .ok ([7], cur (sTile .f32)) ∧ TileReady (sTile .f32) 0 .any [] [1] 0 [2] :=
  ⟨tileReady_of (by decide +kernel), by decide +kernel, okVal_eq (by decide +kernel), tileReady_of (by decide +kernel)⟩
theorem wit_TileScalar_vext : TileReady (sTile .i4) 0 .any [2] [] 0 [63] ∧ checkDst (cur (sTile .i4)) 63 = .ok () ∧
    dstReady (sTile .i4) (cur (sTile .i4)) 63 = .ok () :=
  ⟨tileReady_of (by decide +kernel), okVal_unit (by decide +kernel), okVal_unit (by decide +kernel)⟩
theorem wit_TileMovement : TileReady (sTile .z64) 0 .any [2] [1] 5 [] ∧ TileReady (sTile .f32) 0 .wide [2, 3] [1] 0 [] ∧
    TileReady (sTile .e2m1) 0 .any [2, 4] [1] 0 [] ∧ (2 : Nat) < shapeLen (cur (sTile .f32)) 0 :=
  ⟨tileReady_of (by decide +kernel), tileReady_of (by decide +kernel), tileReady_of (by decide +kernel), by decide +kernel⟩
theorem wit_ScanAndReductions : TileReady (sTile .i32) 0 .both [2] [1] 0 [] ∧ flagsTrap (curCfg (sTile .i32)) 0 = false :=
  ⟨tileReady_of (by decide +kernel), by decide +kernel⟩

/-- The same under a context that traps on every exception. -/
def sTileTrap (f : Fmt) : State := { sTile f with contexts := [(0, { ctx0 with cfg := 0x7C })] }
theorem wit_Tile_traps : TileReady (sTileTrap .f32) 0 .both [2] [1] 0 [2] ∧ TileReady (sTileTrap .f32) 0 .both [2, 3] [1] 0 [] ∧
    TileReady (sTileTrap .f32) 0 .both [2] [1] 5 [] ∧ flagsTrap (curCfg (sTileTrap .f32)) 1 = true ∧
    tileSources (sTileTrap .f32) 0 [2] = .ok ([7], cur (sTileTrap .f32)) :=
  ⟨tileReady_of (by decide +kernel), tileReady_of (by decide +kernel), tileReady_of (by decide +kernel), by decide +kernel,
    okVal_eq (by decide +kernel)⟩
theorem wit_ShapesAndFills_rows : shapeRows (cur (sTile .e2m3)) 0 ≤ 8 ∧ shapeLen (cur (sTile .e2m3)) 0 ≤ capOf .e2m3 ∧
    (((liveElems (cur (sTile .e2m3)) 0 0).filter (fun q => q.1 == 1)).map (·.2))[2]? = some 2 ∧
    (1, 3) ∉ liveElems (cur (sTile .e2m3)) 0 0 := by decide +kernel

/-! ### Witnesses: families and the lives of threads -/

/-- A thread whose family table names family 1 under handle 77, and the family as the statement wants it. -/
def sHandle (f : Family) (ths : List (Nat × Thread)) : State :=
  { st { thr [(1, 77), (2, 0x8000000000000008), (3, 5)] with kind := .kernel, famTable := [⟨77, 1, false, 0⟩] } with
    families := [(1, f)], threads := (0, { thr [(1, 77), (2, 0x8000000000000008), (3, 5)] with
      kind := .kernel, famTable := [⟨77, 1, false, 0⟩] }) :: ths }
/-- The family of two members after it ended, of two globals and one shared. -/
def famDone (o : Outcome) : Family :=
  { famTwo with hdr := { famTwo.hdr with g := 2 }, outcome := o, ended := 2, shareds := [(0, fullReg 3), (64, fullReg 9)], globals := [(1, 4)] }

theorem handleReady_of {s : State} {d a : RegNo} {h : Word}
    (g : (plainCheck s [a] [h] && plainDest (cur s) d && !isHeld s (cur s) 0) = true) : HandleReady s d a h (cur s) := by
  simp only [Bool.and_eq_true, Bool.not_eq_true'] at g
  exact ⟨ready_of (by simp [g.1.1, g.1.2]), g.2⟩

/-- Two checks that pass in turn. -/
theorem okVal_two {α β : Type} {e : Except Stop α} (g : α → Except Stop β) (p : α → β → Bool)
    (h : ((okVal e).any (fun v => (okVal (g v)).any (p v))) = true) : ∃ v, e = .ok v ∧ ∃ w, g v = .ok w ∧ p v w = true := by
  obtain ⟨v, hv, hp⟩ := okVal_any (fun v => (okVal (g v)).any (p v)) h
  obtain ⟨w, hw, hq⟩ := okVal_any (p v) hp
  exact ⟨v, hv, w, hw, hq⟩

theorem wit_FamiliesAreCreated_crt :
    let s := { sMem with mem := memWrite (memWrite (memWrite [] (k0 + 8) 8 5) (k0 + 48) 8 0xF000000000440) (k0 + 0x44) 4 0x05000000 }
    Ready s [1] 8 [0xF000000000400] (cur s) ∧ (cur s).kind ≠ .rowHandler ∧ (cur s).kind ≠ .edgeHandler ∧
    isHeld s (cur s) 1 = false ∧ (0xF000000000400 : Word).toNat % 64 = 0 ∧ specTask s (cur s) = none ∧ (cur s).cntL < 15 ∧
    ∃ v, descRead (setCur s (cur s)) 0xF000000000400 64 0x06 = .ok v ∧ ∃ w, descRead v.2 (wordAt v.1 48) 64 0x06 = .ok w ∧
      decide ((wordAt v.1 48).toNat % 64 = 0 ∧ crtCode w.2 (cur w.2) v.1 w.1 = 0) = true :=
  ⟨ready_of (by decide +kernel), by decide +kernel, by decide +kernel, by decide +kernel, by decide +kernel, by decide +kernel,
    by decide +kernel, okVal_two _ _ (by decide +kernel)⟩

theorem wit_SyncReturns : HandleReady (sHandle famTwo []) 8 1 77 (cur (sHandle famTwo [])) ∧ (cur (sHandle famTwo [])).cntS = 0 ∧
    checkPending (cur (sHandle famTwo [])) = .ok () ∧ NamesFamily (cur (sHandle famTwo [])) 77 1 ∧
    getFam (sHandle famTwo []) 1 = some famTwo ∧ famTwo.outcome = .running ∧ famTwo.placed = true :=
  ⟨handleReady_of (by decide +kernel), by decide +kernel, okVal_unit (by decide +kernel), by unfold NamesFamily; decide +kernel, by decide +kernel⟩
theorem wit_SyncReturns_ended : ∀ o ∈ [Outcome.completed, .broke 1 5, .failed 2], HasEnded (sHandle (famDone o) []) 1 (famDone o) ∧
    (∀ n, n < (famDone o).hdr.s → (mapFind (famDone o).shareds (((famDone o).count - 1) * 64 + n)).isSome = true) ∧
    mapFind (famDone o).shareds (((famDone o).count - 1) * 64) = some (fullReg 9) := by unfold HasEnded; decide +kernel
theorem wit_SyncReturns_failure : HandleReady (sHandle famTwo []) 8 2 0x8000000000000008 (cur (sHandle famTwo [])) ∧
    NamesFailure 0x8000000000000008 8 ∧ NamesFailure 0x8000000000000001 1 :=
  ⟨handleReady_of (by decide +kernel), by unfold NamesFailure; decide +kernel, by unfold NamesFailure; decide +kernel⟩
theorem wit_SyncReturns_none : HandleReady (sHandle famTwo []) 8 3 5 (cur (sHandle famTwo [])) ∧ failCode 5 = none ∧
    (cur (sHandle famTwo [])).famTable.find? (fun e => e.handle == 5) = none :=
  ⟨handleReady_of (by decide +kernel), by decide +kernel⟩

/-- The running family of two globals and one shared. -/
def famG : Family := { famDone .running with ended := 0 }
theorem wit_FamilyValues_fput : ReadyFor (sHandle famG []) [1, 3] [77, 5] (cur (sHandle famG [])) ∧
    isHeld (sHandle famG []) (cur (sHandle famG [])) 0 = false ∧ NamesFamily (cur (sHandle famG [])) 77 1 ∧
    getFam (sHandle famG []) 1 = some famG ∧ (1 : BitVec 6).toNat < famG.hdr.g ∧ famG.hdr.g ≤ (2 : BitVec 6).toNat ∧
    (0 : BitVec 6).toNat < famG.hdr.s ∧ famG.hdr.s ≤ (1 : BitVec 6).toNat ∧ famG.outcome = .running ∧
    (cur (sHandle famG [])).cntS < 15 :=
  ⟨readyFor_of (by decide +kernel), by decide +kernel, by unfold NamesFamily; decide +kernel, by decide +kernel⟩
theorem wit_FamilyValues_fput_failure : ReadyFor (sHandle famG []) [2, 3] [0x8000000000000008, 5] (cur (sHandle famG [])) :=
  readyFor_of (by decide +kernel)
theorem wit_FamilyValues_fget : HandleReady (sHandle famG []) 8 1 77 (cur (sHandle famG [])) ∧
    mapFind famG.globals 1 = some 4 ∧ mapFind famG.globals 0 = none :=
  ⟨handleReady_of (by decide +kernel), by decide +kernel⟩
theorem wit_FamilyValues_fgetS : HasEnded (sHandle (famDone .completed) []) 1 (famDone .completed) ∧
    (0 : BitVec 6).toNat < (famDone .completed).hdr.s ∧ 0 < (famDone .completed).count ∧
    mapFind (famDone .completed).shareds (((famDone .completed).count - 1) * 64 + 0) = some (fullReg 9) := by unfold HasEnded; decide +kernel

theorem mayEnd_of {s : State} (h : ((cur s).status.canIssue && decide (s.slot ≠ 31 ∧ (cur s).cntL = 0 ∧ (cur s).cntS = 0 ∧
    (cur s).cntC = 0 ∧ (cur s).cntM = 0 ∧ (∀ p ∈ s.families, p.2.creator ≠ (cur s).uid ∨ famEnded s p.1 = true) ∧
    (∀ x ∈ s.tasks, x.root ≠ (cur s).uid) ∧ tenqOwed s = false) && (okVal (checkPending (cur s))).isSome) = true) : MayEnd s := by
  simp only [Bool.and_eq_true, decide_eq_true_eq] at h
  exact ⟨h.1.1, h.1.2.1, h.1.2.2.1, h.1.2.2.2.1, h.1.2.2.2.2.1, h.1.2.2.2.2.2.1, h.1.2.2.2.2.2.2.1, h.1.2.2.2.2.2.2.2.1,
    h.1.2.2.2.2.2.2.2.2, okVal_unit h.2⟩

theorem wit_ThreadsEnd_member : MayEnd sFam ∧ (cur sFam).kind = .member ∧ (cur sFam).frames = [] ∧
    getFam sFam (cur sFam).fam = some famTwo ∧ ReadyFor sFam [8] [0] (cur sFam) :=
  ⟨mayEnd_of (by decide +kernel), by decide +kernel, by decide +kernel, by decide +kernel, readyFor_of (by decide +kernel)⟩
theorem wit_ThreadsEnd_row : MayEnd (st { thr [] with kind := .rowHandler, item := 127 }) ∧
    (cur (st { thr [] with kind := .rowHandler, item := 127 })).item < 128 := ⟨mayEnd_of (by decide +kernel), by decide +kernel⟩
theorem wit_ThreadsEnd_others : MayEnd (st { thr [] with kind := .kernel }) ∧ MayEnd (st { thr [] with kind := .task }) :=
  ⟨mayEnd_of (by decide +kernel), mayEnd_of (by decide +kernel)⟩
theorem wit_YieldAndQry : Live sFam ∧ Ready sFam [] 8 [] (cur sFam) ∧ (cur sFam).kind = .member ∧
    getFam sFam (cur sFam).fam = some famTwo ∧ (14 : BitVec 6).toNat ≤ 0x0E ∧ isHeld sFam (cur sFam) 0 = false ∧ 0x0E < (15 : BitVec 6).toNat :=
  ⟨by unfold Live; decide +kernel, ready_of (by decide +kernel), by decide +kernel⟩

/-- The family with three members more to hand out over the cores of its place, under this event. -/
def sClaim (e : Event) (back : List (Nat × Nat)) : State :=
  { sFam with event := e, families := [(1, { famTwo with
      limit := 5, count := 5, back := back, chunks := [⟨3, 1, 1, 1, [], 2⟩], hdr := { famTwo.hdr with g := 0, s := 0 }, place := 1 })] }
theorem wit_MembersComeToRun_claim : ∀ b ∈ [[], [(0, 1)]], ∀ f, getFam (sClaim (.chunkClaim 0 1) b) 1 = some f →
    mayClaim (sClaim (.chunkClaim 0 1) b) 1 f 0 = true ∧ claimTurn (sClaim (.chunkClaim 0 1) b) 1 f 0 = true ∧
    (coresOf (sClaim (.chunkClaim 0 1) b) f.ctx f.home ⟨f.place, f.index, f.scope, f.lvl⟩).length = 1 := by
  intro b hb f hf
  obtain rfl : f = _ := (Option.some.inj hf).symm
  revert b; decide +kernel
/-- A family whose first member is still to start on core 0. -/
def famOpen : Family := { famTwo with chunks := [⟨0, 0, 2, 0, [], 1⟩], hdr := { Header.zero with l := 40, stack := 64, entry := 0x80 } }
def sStart : State := { sFam with event := .memberStart 0 1 1024, families := [(1, famOpen)], cores := [(0, { core0 with allocs := [], saveBase := 0x10000 })] }
theorem wit_MembersComeToRun_start : getFam sStart 1 = some famOpen ∧ famOpen.folded = false ∧
    openChunk sStart famOpen 0 = some ⟨0, 0, 2, 0, [], 1⟩ ∧ freeSlot sStart 0 = some 1 ∧ firstClaim sStart 0 ⟨0, 0, 2, 0, [], 1⟩ = true ∧
    hasRoom sStart 0 famOpen.hdr 1 1024 = true ∧ (getCore sStart 0).killed = false ∧ famOpen.globals = [] ∧ famOpen.deps = [] ∧
    famOpen.arrived = [] ∧ famOpen.ext.head? = some 0 ∧ 0 < famOpen.hdr.l ∧ windowSize famOpen.hdr ≤ 64 := by decide +kernel
/-- A thread that waits to fold its family, of which no member was placed. -/
def famFold : Family :=
  { famOpen with creator := 5, placed := false, claimed := 0, chunks := [], hdr := { famOpen.hdr with flags := 4, stack := 0 } }
def thFold : Thread := { thr [] with status := .waitFamily, wantFold := 1, kind := .kernel }
def sFold : State := { st thFold with event := .fold 0 0 0, families := [(1, famFold)] }
theorem wit_MembersComeToRun_fold : getThread sFold 0 0 = thFold ∧ getFam sFold thFold.wantFold = some famFold ∧
    thFold.wantFold ≠ 0 ∧ thFold.status = .waitFamily ∧ mayFold thFold famFold = true ∧ quiet thFold = true ∧ thFold.frames = [] ∧
    foldResources sFold 0 thFold famFold.hdr = .found ⟨0, 0, 0, false, false⟩ ∧
    stackFits (getCore sFold 0) famFold.hdr.stack 0 = true ∧
    stacksFit (withStack (getCore sFold 0) famFold.hdr.stack 0) ((placeHolders sFold 0 0).map (·.hdr.stack)) = true := by decide +kernel

/-- A message of family 1 in flight. -/
def sMsg (e : Event) (r : Request) (f : Family) : State := { sFam with event := e, flights := [r], families := [(1, f)] }
theorem wit_ValuesReach_shared : let r := { req (.shared 1 0 0) 0 0 9 with d := 0 }; let s := sMsg (.sharedDelivery 4) r famTwo
    getRequest s 4 = some r ∧ messageFirst s r = true ∧ sharedSealed s 1 0 = false ∧ getFam s 1 = some famTwo ∧
    runsAgain famTwo 0 = false := by decide +kernel
theorem wit_ValuesReach_global : let r := req (.famGive 1 0 true [0, 3]) 0 0 9; let s := sMsg (.globalDelivery 4 3) r famTwo
    getRequest s 4 = some r ∧ messageFirst s r = true ∧ getFam s 1 = some famTwo ∧ 3 ∈ [0, 3] ∧ (getThread s 0 0).uid = 5 := by decide +kernel
theorem wit_ValuesReach_break : let r := req (.brk 1 1) 0 0 9; let s := sMsg (.breakAtHome 4) r famTwo
    getRequest s 4 = some r ∧ getFam s 1 = some famTwo ∧ famTwo.outcome = .running ∧ (famDone (.broke 0 0)).outcome ≠ .running := by
  decide +kernel
theorem wit_ValuesReach_epoch : let x := { ctx0 with threads := 2 ^ 20 }
    getCtx { sFam with event := .epochAdvance 0, contexts := [(0, x)] } 0 = some x ∧ 2 ^ 20 ≤ x.threads := by decide +kernel

/-- A member that awaits a result in its shared. -/
def sOwed : State := st { thr [] with hdr := { Header.zero with s := 1, l := 40 }, regs := [(1, { Reg.empty with pend := true })] }
theorem wit_ThreadsEnd_owed : MayEnd sOwed ∧ sharedOwed (cur sOwed) = true ∧ sharedOwed (cur sFam) = false :=
  ⟨mayEnd_of (by decide +kernel), by decide +kernel⟩
theorem wit_ThreadsEnd_guard : let s := st { thr [] with kind := .task, guard0 := 2 ^ 47 }
    Live s ∧ s.slot ≠ 31 ∧ bits (cur s).guard0 47 47 = 1 := by unfold Live; decide +kernel
theorem wit_ThreadsEnd_brk : let s := { st (thr []) with slot := 30, threads := [(30, { thr [] with kind := .rowHandler })] }
    Live s ∧ s.slot = 30 := by unfold Live; decide +kernel
theorem wit_Qry_others : ∀ k ∈ [Kind.task, .rowHandler, .edgeHandler, .trapHandler, .kernel],
    plainCheck (st { thr [] with kind := k }) [] [] = true ∧ plainDest (cur (st { thr [] with kind := k })) 8 = true ∧
    isHeld (st { thr [] with kind := k }) (cur (st { thr [] with kind := k })) 0 = false ∧
    (cur (st { thr [] with kind := k })).kind ≠ .member := by decide +kernel

/-! ### Witnesses: tasks, keyed sends and watches -/

/-- A task of context 0 on core 0's place, with this number and parent, running in slot 0 where it is number 3. -/
def taskOf (id parent q : Nat) (spec : Bool) : Task :=
  { id := id, addr := 0xF000000000400, ctx := 0, t := 7, q := q, record := List.replicate 16 0 ++ (5 : Byte) :: List.replicate 47 0,
    hdr := { Header.zero with l := 40, entry := 0x80 }, place := 1, index := 0, scope := 3, lvl := 1, launch := 1, root := 8,
    parent := parent, core := if id = 3 then some (0, 0) else none, uid := if id = 3 then 5 else 0, spec := spec, exited := false, abort := false, reads := 0,
    writes := 0, buf := if id = 3 then [(k0, 9)] else [] }
/-- A task's thread in slot 0, under this event, with these tasks. -/
def sTask (e : Event) (ts : List Task) : State :=
  { st { thr [(1, 0xF000000000400), (2, 11)] with kind := .task, fam := 0, work := 3 } with event := e, tasks := ts }

theorem wit_TaskInstructions_tenq :
    let s := { sTask .none [taskOf 3 0 0 false] with mem := memWrite (memWrite [] k0 8 0xF000000000440) (k0 + 0x44) 4 0x280000 }
    ReadyFor s [1, 2] [0xF000000000400, 11] (cur s) ∧ s.slot < 29 ∧ (cur s).kind ≠ .edgeHandler ∧ isHeld s (cur s) 0 = false ∧
    (0xF000000000400 : Word).toNat % 64 = 0 ∧ (cur s).cntS < 15 ∧
    ∃ v, descRead (setCur s (cur s)) 0xF000000000400 64 0x04 = .ok v ∧
      ∃ w, descRead v.2 (word (fieldAt v.1 0 8 % 2 ^ 52 / 64 * 64)) 64 0x04 = .ok w ∧
        decide (recordOk v.1 = true ∧ headerOk w.1 = true ∧ fieldAt w.1 4 1 = 0 ∧ fieldAt w.1 5 1 = 0 ∧ fieldAt w.1 6 1 = 40) = true :=
  ⟨readyFor_of (by decide +kernel), by decide +kernel, by decide +kernel, by decide +kernel, by decide +kernel, by decide +kernel,
    okVal_two _ _ (by decide +kernel)⟩
theorem wit_TaskInstructions_stops : Live { st { thr [] with kind := .edgeHandler } with slot := 0 } ∧
    Live { (st (thr [])) with slot := 29, threads := [(29, thr [])] } ∧ Live (st (thr [])) ∧ (cur (st (thr []))).kind ≠ .task ∧
    (∀ x ∈ (st (thr [])).tasks, x.root ≠ (cur (st (thr []))).uid) ∧ tenqOwed (st (thr [])) = false ∧
    isHeld (st (thr [])) (cur (st (thr []))) 0 = false := by unfold Live; decide +kernel
theorem wit_TaskInstructions_texit : let s := sTask .none [taskOf 3 0 0 true]
    Live s ∧ (cur s).kind = .task ∧ (cur s).cntL = 0 ∧ (cur s).cntS = 0 ∧ (cur s).cntC = 0 ∧ (cur s).cntM = 0 ∧
    (cur s).indetOps = none := by unfold Live; decide +kernel
theorem wit_TaskInstructions_tirr : specTask (sTask .none [taskOf 3 0 0 false]) (cur (sTask .none [taskOf 3 0 0 false])) = none ∧
    specTask (sTask .none [taskOf 3 0 0 true]) (cur (sTask .none [taskOf 3 0 0 true])) = some (taskOf 3 0 0 true) := by decide +kernel

theorem wit_Tasks_accept : let r := req (.tenq (taskOf 0 3 0 false)) 0 0 0
    let s := { sTask (.taskAccept 4) [taskOf 3 0 0 false] with flights := [r] }
    getRequest s 4 = some r ∧ getCtx s r.ctx = some ctx0 := by decide +kernel
theorem wit_Tasks_start : let s := sTask (.taskStart 0 6 0) [taskOf 3 0 0 false, taskOf 6 3 1 false, taskOf 7 3 2 false]
    getTask s 6 = some (taskOf 6 3 1 false) ∧ freeSlot s 0 = some 1 ∧ reachable s 0 (taskOf 6 3 1 false) = true ∧
    (getCore s 0).killed = false ∧ hasRoom s 0 (taskOf 6 3 1 false).hdr 0 0 = true ∧
    (s.tasks.filter (fun y => y.core.map (·.1) == some 0)).length < 16 ∧
    (∀ y ∈ s.tasks, reachable s 0 y = true → y.id = 6 ∨ keyLess (taskOf 6 3 1 false) y = true) ∧
    0 < (taskOf 6 3 1 false).hdr.l ∧ windowSize (taskOf 6 3 1 false).hdr ≤ 64 := by decide +kernel
theorem wit_Tasks_abort : let x := { taskOf 3 0 0 true with abort := true }; let s := sTask (.taskAbort 3) [x, taskOf 6 3 1 false]
    getTask s 3 = some x ∧ x.spec = true ∧ x.abort = true := by decide +kernel
theorem wit_Tasks_nonspeculative : let x := taskOf 3 0 0 true; let s := sTask (.taskNonspeculative 3) [taskOf 6 3 1 false, x]
    getTask s 3 = some x ∧ x.spec = true ∧ x.abort = false ∧ s.marks = [] ∧ s.dev.moved = [] ∧ x.buf = [(k0, 9)] ∧
    (∀ p ∈ x.buf, homeFaults s x.ctx p.1 = false) ∧
    (∀ y ∈ s.tasks, y.ctx = x.ctx → y.id ≠ 3 → keyLess x y = true) := by decide +kernel
theorem wit_Tasks_commit : let x := { taskOf 3 0 0 false with exited := true }; let s := sTask (.taskCommit 3) [x, taskOf 6 3 1 false]
    getTask s 3 = some x ∧ x.exited = true ∧ x.spec = false ∧ taskOwes s x = false ∧ getCtx s x.ctx = some ctx0 ∧
    (∀ y ∈ s.tasks, y.ctx = x.ctx → y.id ≠ 3 → keyLess x y = true) := by decide +kernel

/-- Core 0 with a table of four bins at offset 0x800; a descriptor of such a table stands at 0x400. -/
def sBin (op : Nat) (e : Event) (fl : List Request) : State :=
  { sMem with event := e, flights := fl, cores := [(0, { core0 with bins := [(2, ⟨0, 0x800, 4, op, 0⟩)] })],
              mem := memWrite (memWrite (memWrite [] k0 8 0x800) (k0 + 8) 4 4) (k0 + 12) 1 1 }
theorem wit_KeyedSends_ksend : ReadyFor (sBin 1 .none []) [5, 1] [8, 0xF000000000400] (cur (sBin 1 .none [])) ∧
    isHeld (sBin 1 .none []) (cur (sBin 1 .none [])) 3 = false ∧ specTask (sBin 1 .none []) (cur (sBin 1 .none [])) = none ∧
    (cur (sBin 1 .none [])).cntS < 15 := ⟨readyFor_of (by decide +kernel), by decide +kernel⟩
theorem wit_KeyedSends_rxa : ReadyFor (sBin 1 .none []) [1] [0xF000000000400] (cur (sBin 1 .none [])) ∧
    (∃ v, descWords (setCur (sBin 1 .none []) (cur (sBin 1 .none []))) 0xF000000000400 0x06 4 = .ok v ∧
      decide (binTableOf 0 v.1 = some ⟨0, 0x800, 4, 1, 0⟩) = true) ∧
    inAllocation (getCore (sBin 1 .none []) 0) 0 0x800 (8 * 4 + 8) = true ∧
    ∃ v, descWords (setCur (sBin 1 .none []) (cur (sBin 1 .none []))) 0xF000000000440 0x06 4 = .ok v ∧
      decide (binTableOf 0 v.1 = none) = true :=
  ⟨readyFor_of (by decide +kernel), okVal_any _ (by decide +kernel), by decide +kernel, okVal_any _ (by decide +kernel)⟩
theorem wit_KeyedSends_step : ∀ op, op ≤ 5 → let r := { req (.ksend 2 1 1 0) 0 0 9 with e := 6 }
    let s := sBin op (.ksendBinStep 4 none) [r]
    getRequest s 4 = some r ∧ sendTarget s r 1 0 = some (0, 6) ∧ (getCore s 0).sealed = false ∧
    mayPerform s r = true ∧ coreTable s 0 r.ctx 2 = some ⟨0, 0x800, 4, op, 0⟩ ∧ s.marks = [] ∧ (op ∈ binSteps.map (·.1)) := by decide +kernel
theorem wit_KeyedSends_take : let r := req (.rxa 1 ⟨0, 0x800, 4, 1, 0⟩ [0, 3]) 0 0 0; let s := sBin 1 (.rxaConfigTake 4 3) [r]
    getRequest s 4 = some r ∧ 3 ∈ [0, 3] ∧ (getCore s 3).killed = false := by decide +kernel

/-- A watch of the thread, or of another, on the word at k0. -/
def watch (uid n fired : Nat) : Monitor := ⟨k0 + 8 * n, 0xF000000000400 + word (8 * n), 0, uid, fired⟩
/-- Core 0 with these watches. -/
def sWatch (m : List Monitor) : State := { sMem with cores := [(0, { core0 with mons := m })] }
theorem wit_Watches_wta : ∀ m ∈ [[], [watch 5 0 0], (List.range 64).map (fun i => watch 6 i 0)],
    plainCheck (sWatch m) [1] [0xF000000000400] = true ∧ plainDest (cur (sWatch m)) 8 = true ∧
    isHeld (sWatch m) (cur (sWatch m)) 0 = false ∧ specTask (sWatch m) (cur (sWatch m)) = none ∧
    ((okVal (checkAddr (setCur (sWatch m) (cur (sWatch m))) 0xF000000000400 8 8 true false watchWin)).any (fun x => !x.1.drop &&
      x.1.key == k0 && (getCore x.2 x.2.core).mons == m)) = true := by decide +kernel
theorem wit_Watches_wtw : Ready (sWatch [watch 5 0 0]) [] 8 [] (cur (sWatch [watch 5 0 0])) ∧
    (∀ m ∈ [watch 5 0 0], m.fired = 0) ∧ (∀ m ∈ [watch 6 0 3], m.uid ≠ 5) ∧
    (∀ y ∈ [watch 5 0 4, watch 5 1 3, watch 5 2 0], y.uid = 5 → 0 < y.fired → y = watch 5 1 3 ∨ (watch 5 1 3).fired < y.fired) :=
  ⟨ready_of (by decide +kernel), by decide +kernel⟩
theorem wit_Watches_fires : watch 5 0 0 ∈ (getCore (sWatch [watch 5 0 0]) 0).mons ∧ (5 : Nat) ≠ 6 ∧ (watch 5 0 0).key < k0 + 7 + 1 ∧
    k0 + 7 < (watch 5 0 0).key + 8 ∧ 0 < (sWatch [watch 5 0 0]).nextId ∧ (sWatch [watch 5 0 0]).marks = [] := by decide +kernel
theorem wit_KeyedSends_step_float : ∀ p ∈ floatBinSteps, let r := { req (.ksend 2 1 1 0) 0 0 0x3FF0000000000000 with e := 6 }
    let s := { sBin p.1 (.ksendBinStep 4 none) [r] with cores := [(0, { core0 with bins := [(2, ⟨0, 0x800, 4, p.1, 1⟩)] })] }
    getRequest s 4 = some r ∧ sendTarget s r 1 0 = some (0, 6) ∧ (getCore s 0).sealed = false ∧ sendSealed s r 1 0 = false ∧
    mayPerform s r = true ∧ coreTable s 0 r.ctx 2 = some ⟨0, 0x800, 4, p.1, 1⟩ ∧ s.marks = [] := by decide +kernel

/-! ### Witnesses: tile memory, the copy engine, streams and overlays -/

/-- Register 1 holds an address of the scratchpad and 2 a stride, of shape 0 of format f. -/
def sVld (f : Fmt) (a : Word) : State :=
  st { thr [(1, a), (2, 16)] with
    shapes := [(0, shapeOf f)], tiles := [(2048, 8)]
    ports := [] }

theorem tileAccess_of {s : State} {sh : ShapeNo} {acc : Accepts} {srcs writes : List TileNo} {b : RegNo} {wr : Bool} {x y : Word}
    {ps : List Part}
    (h : (tileCheck s sh acc srcs writes 0 [b, b + 1] && decide (b ≠ 63 ∧ zeroGrant (cur s) sh = false ∧
      isHeld s (cur s) (if wr then 2 else 1) = false ∧ (cur s).cntM < 15 ∧ (wr = true → specTask s (cur s) = none)) &&
      (okVal (readFrom s [b, b + 1])).any (fun v => decide (v = ([x, y], cur s))) &&
      (okVal (checkParts (setCur s (cur s)) wr ps)).any (fun v => v.1.all (fun p => !p.2.drop))) = true) :
    ∃ ls s1, TileAccess s sh acc srcs writes b wr (cur s) x y ps ls s1 := by
  simp only [Bool.and_eq_true, decide_eq_true_eq] at h
  obtain ⟨⟨⟨h1, h2⟩, h3⟩, h4⟩ := h
  obtain ⟨v, hv, rfl⟩ : ∃ v, readFrom s [b, b + 1] = .ok v ∧ v = ([x, y], cur s) := by
    obtain ⟨v, hv, hp⟩ := okVal_any _ h3
    exact ⟨v, hv, of_decide_eq_true hp⟩
  obtain ⟨v, hw, hp⟩ := okVal_any _ h4
  simp only [List.all_eq_true, Bool.not_eq_true'] at hp
  exact ⟨v.1, v.2, h2.1, (tileReady_of h1).1, (tileReady_of h1).2, hv, h2.2.1, h2.2.2.1, h2.2.2.2.1, h2.2.2.2.2, hw, hp⟩

theorem wit_TileAccesses_plain : (∃ ls s1, TileAccess (sVld .i32 0xF000000000400) 0 .any [] [1] 1 false (cur (sVld .i32 0xF000000000400))
      0xF000000000400 16 (shapeParts (cur (sVld .i32 0xF000000000400)) 0 false 0xF000000000400 16).1 ls s1) ∧
    (∃ ls s1, TileAccess (sVld .i32 0xF000000000400) 0 .any [1] [] 1 true (cur (sVld .i32 0xF000000000400))
      0xF000000000400 16 (shapeParts (cur (sVld .i32 0xF000000000400)) 0 true 0xF000000000400 16).1 ls s1) ∧
    (∀ w, (shapeParts (cur (sVld .i32 0xF000000000400)) 0 w 0xF000000000400 16).2 = none) :=
  ⟨tileAccess_of (by decide +kernel), tileAccess_of (by decide +kernel), by decide +kernel⟩
theorem wit_TileAccesses_gather :
    (∃ ls s1, TileAccess (sVld .i64 0xF000000000400) 0 .gather [2] [1] 1 false (cur (sVld .i64 0xF000000000400))
      0xF000000000400 16 (gatherParts (cur (sVld .i64 0xF000000000400)) 2 0 0xF000000000400 16).1 ls s1) ∧
    (∃ ls s1, TileAccess (sVld .i64 0xF000000000400) 0 .gather [1, 2] [] 1 true (cur (sVld .i64 0xF000000000400))
      0xF000000000400 16 (gatherParts (cur (sVld .i64 0xF000000000400)) 2 0 0xF000000000400 16).1 ls s1) ∧
    (gatherParts (cur (sVld .i64 0xF000000000400)) 2 0 0xF000000000400 16).2 = none :=
  ⟨tileAccess_of (by decide +kernel), tileAccess_of (by decide +kernel), by decide +kernel⟩
theorem wit_TileAccesses_zero : TileReady (sVld .i32 0xF000000000401) 1 .any [] [1] 0 [1, 1 + 1] ∧
    tileSources (sVld .i32 0xF000000000401) 1 [1, 1 + 1] = .ok ([0, 0], cur (sVld .i32 0xF000000000401)) ∧
    zeroGrant (cur (sVld .i32 0xF000000000401)) 1 = true :=
  ⟨tileReady_of (by decide +kernel), okVal_eq (by decide +kernel), by decide +kernel⟩
theorem wit_TileAccesses_misaligned : TileReady (sVld .i32 0xF000000000401) 0 .any [] [1] 0 [1, 1 + 1] ∧
    zeroGrant (cur (sVld .i32 0xF000000000401)) 0 = false ∧ (shapeFmt (cur (sVld .i32 0xF000000000401)) 0).isNibble = false ∧
    (shapeFmt (cur (sVld .i32 0xF000000000401)) 0).isSix = false ∧
    isHeld (sVld .i32 0xF000000000401) (cur (sVld .i32 0xF000000000401)) 1 = false ∧
    (shapeParts (cur (sVld .i32 0xF000000000401)) 0 false 0xF000000000401 16).2 = some 0xF000000000401 :=
  ⟨tileReady_of (by decide +kernel), by decide +kernel⟩

theorem wit_EngineRegisters : ReadyFor sInt [1] [7] (cur sInt) ∧ Ready sInt [] 8 [] (cur sInt) ∧ Live sInt ∧
    (∀ e ∈ [(0 : BitVec 6), 11, 16, 27], engExists e.toNat = true) ∧
    (∀ e ∈ [(12 : BitVec 6), 15, 28, 31], e.toNat < 32 ∧ engExists e.toNat = false) ∧ 32 ≤ (32 : BitVec 6).toNat :=
  ⟨readyFor_of (by decide +kernel), ready_of (by decide +kernel), by unfold Live; decide +kernel, by decide +kernel⟩

/-- Records of four 64-bit integers at 0x400, 0x440 and 0x480 of the scratchpad, and a fifth of none. -/
def recMem : List Host.Cell :=
  let rec_ := fun (m : List Host.Cell) (at_ base n : Nat) => memWrite (memWrite (memWrite m (k0 + at_) 8 (0xF000000000000 + base))
    (k0 + at_ + 8) 8 (6 + 2 ^ 24 + n * 2 ^ 32)) (k0 + at_ + 28) 8 8
  rec_ (rec_ (rec_ (rec_ [] 0 0x500 4) 0x40 0x600 4) 0x80 0x700 4) 0xC0 0x700 0
/-- Registers 1, 2, 4 and 6 name them; e25 the third. -/
def sCopy (e25 : Word) : State :=
  { st { thr [(1, 0xF000000000400), (2, 0xF000000000440), (4, 0xF0000000004C0), (6, 0xF000000000441)] with
      eng := if e25 = 0 then [] else [(25, e25)] } with mem := recMem }

/-- The records of a copy are read one after the other. -/
def copyCheck (s : State) (chain : Bool) (a b : RegNo) (x y : Word) (n : Nat) : Bool :=
  plainCheck s [a, b] [x, y] && !isHeld s (cur s) 12 && (specTask s (cur s)).isNone && !copyRegsBad (cur s) &&
    (okVal (readRecord s x 0 (if chain then 1 else 0) false scaleOk)).any (fun v1 =>
      (okVal (readRecord v1.2 y 1 (if chain then 1 else 0) true (copyDst chain))).any (fun v2 =>
        decide (recCount v1.1 = n ∧ recCount v2.1 = n) &&
          (if chain && mapGet 0 (cur s).eng 25 != 0 then
            (okVal (readRecord v2.2 (mapGet 0 (cur s).eng 25) 2 1 false (fun d => d.scale == 0))).any (fun v3 =>
              decide (recCount v3.1 = n) && !copyWindowBad v3.2 v2.1.base)
          else !copyWindowBad v2.2 v2.1.base)))

theorem copyReady_of {s : State} {chain : Bool} {a b : RegNo} {x y : Word} {n : Nat} (h : copyCheck s chain a b x y n = true)
    (ho : chain = true → ∀ f h, opsInvalid (mapGet 0 (cur s).eng 24) f h = false) :
    ∃ src dst yr s3, CopyReady s chain a b x y (cur s) src dst yr s3 ∧ recCount dst = n := by
  simp only [copyCheck, Bool.and_eq_true, Bool.not_eq_true', Option.isNone_iff_eq_none] at h
  obtain ⟨⟨⟨⟨h1, h2⟩, h3⟩, h4⟩, h5⟩ := h
  obtain ⟨v1, e1, h5⟩ := okVal_any _ h5
  obtain ⟨v2, e2, h5⟩ := okVal_any _ h5
  simp only [Bool.and_eq_true, decide_eq_true_eq] at h5
  obtain ⟨⟨n1, n2⟩, h5⟩ := h5
  split at h5
  · rename_i hc
    simp only [bne_iff_ne, ne_eq] at hc
    obtain ⟨v3, e3, h5⟩ := okVal_any _ h5
    simp only [Bool.and_eq_true, decide_eq_true_eq, Bool.not_eq_true'] at h5
    refine ⟨v1.1, v2.1, some v3.1, v3.2, ⟨readyFor_of h1, h2, h3, ⟨v1.2, v2.2, e1, e2, ?_, ?_⟩, n1.trans n2.symm, ?_, h4, h5.2⟩, n2⟩
    · rintro (hh | hh)
      · rw [hc.1] at hh; cases hh
      · exact absurd hh hc.2
    · intro _ _; exact ⟨v3.1, e3, rfl, h5.1.trans n2.symm⟩
    · intro hh k _ _ _; exact ho hh _ _
  · rename_i hc
    simp only [Bool.not_eq_true'] at h5
    refine ⟨v1.1, v2.1, none, v2.2, ⟨readyFor_of h1, h2, h3, ⟨v1.2, v2.2, e1, e2, ?_, ?_⟩, n1.trans n2.symm, ?_, h4, h5⟩, n2⟩
    · intro _; exact ⟨rfl, rfl⟩
    · intro h6 h7; simp only [h6, bne_iff_ne, ne_eq, true_and, Decidable.not_not] at hc; exact absurd hc h7
    · intro hh k _ _ _; exact ho hh _ _

theorem wit_CopiesIssue_cpy : (∃ src dst yr s3, CopyReady (sCopy 0) false 1 2 0xF000000000400 0xF000000000440 (cur (sCopy 0)) src dst yr
      s3 ∧ recCount dst = 4) ∧ (cur (sCopy 0)).cntC < 31 ∧ (mapGet 0 (cur (sCopy 0)).eng 16).getLsbD 6 = false :=
  ⟨copyReady_of (by decide +kernel) (by intro h; cases h), by decide +kernel⟩
theorem wit_CopiesIssue_chn : ∃ src dst yr s3, CopyReady (sCopy 0xF000000000480) true 1 2 0xF000000000400 0xF000000000440
    (cur (sCopy 0xF000000000480)) src dst yr s3 ∧ recCount dst = 4 :=
  copyReady_of (by decide +kernel) (by intro _; decide +kernel)
theorem wit_CopiesIssue_none : ∃ src dst yr s3, CopyReady (sCopy 0) false 4 4 0xF0000000004C0 0xF0000000004C0 (cur (sCopy 0)) src dst yr
    s3 ∧ recCount dst = 0 := copyReady_of (by decide +kernel) (by intro h; cases h)

/-- A record of n 64-bit integers at this base. -/
def recAt (base : Word) (n : Nat) : ShapeRec := ⟨0xF000000000400, base, 6, 0, 0, 1, [n], [8]⟩
/-- A copy of slot 0 from one base to another, with these elements done. -/
def copyOf (from_ : Word) (done : List Nat) : CopyCmd :=
  { id := 4, slot := 0, uid := 5, ctx := 0, chain := false, pc := 0x100, a := 0, b := 0, src := recAt from_ 2,
    dst := recAt 0xF000000000600 2, y := none, regs := [], cfg := 0, start := 0, done := done, bad := [], sigs := 0 }
/-- The engine of core 0 holds these commands. -/
def sRun (e : Event) (ks : List CopyCmd) : State :=
  { st { thr [] with cntC := ks.length } with event := e, cores := [(0, { core0 with copies := ks })], mem := recMem }

theorem wit_CopiesRun_write : let k := copyOf 0xF000000000500 [0]; let s := sRun (.copyElementWrite 0 0 1) [k]
    firstCopy s 0 0 = some k ∧ copyDue k 1 = true ∧ (errVal (copyStep 0 k 1 s)).isNone = true := by decide +kernel
theorem wit_CopiesRun_complete : let k := copyOf 0xF000000000500 [0, 1]; let s := sRun (.copyComplete 0 0) [k]
    firstCopy s 0 0 = some k ∧ copyLowest k = none ∧ (getThread s 0 0).uid = k.uid ∧ (getThread s 0 0).status ≠ .free := by
  decide +kernel
/-- A later command of the slot is the thread's own, or that of a creator spilled beneath a fold. -/
theorem wit_CopiesRun_stop_fold : let k := copyOf 0xF800000000000 []
    let s := { sRun (.engineFaultStop 0 0 0) [k, { k with id := 6 }, { k with id := 7, uid := 6 }] with spilled := [(3, { thr [] with uid := 6, cntC := 1 })] }
    firstCopy s 0 0 = some k ∧ errVal (copyStep 0 k 0 s) = some (0x04, 0xF800000000000) ∧ (getThread s 0 0).uid = k.uid ∧
    (mapFind s.spilled 3).map (·.uid) ≠ some k.uid ∧
    (((getCore s 0).copies.filter (fun x => x.slot == 0 && x.id != k.id)).filter (fun x => x.uid == 6)).length = 1 := by decide +kernel
theorem wit_CopiesRun_stop : let k := copyOf 0xF800000000000 []; let s := sRun (.engineFaultStop 0 0 0) [k, { k with id := 6 }]
    firstCopy s 0 0 = some k ∧ copyDue k 0 = true ∧ errVal (copyStep 0 k 0 s) = some (0x04, 0xF800000000000) ∧
    failedWrites s 0 k 0 = s ∧ (getThread s 0 0).uid = k.uid ∧ (getThread s 0 0).status ≠ .free ∧
    (getThread s 0 0).pending = none := by decide +kernel

/-- Register 8 bound to a stream of four elements, in or out. -/
def sPort (e : Event) (output stopped : Bool) : State :=
  { sCopy 0 with event := e, threads := [(0, { thr [(1, 0xF000000000400), (2, 0xF000000000441)] with
      ports := [⟨21, 8, 0xF000000000400, output, false, 0x100, recAt 0xF000000000500 4, 0, stopped, []⟩] })] }
theorem wit_Streams_sbind : ∀ p ∈ [((1 : RegNo), (0xF000000000400 : Word)), (6, 0xF000000000441)],
    Live (sCopy 0) ∧ p.1.toNat < windowSize (cur (sCopy 0)).hdr ∧ isLocal (cur (sCopy 0)).hdr (63 : RegNo).toNat = true ∧
    portOf (cur (sCopy 0)) 63 = none ∧ (cur (sCopy 0)).ports.length < 4 ∧
    okVal (readFrom (sCopy 0) [p.1]) = some ([p.2], cur (sCopy 0)) ∧ okVal (dstReady (sCopy 0) (cur (sCopy 0)) 63) = some () ∧
    isHeld (sCopy 0) (cur (sCopy 0)) (if p.2.getLsbD 0 then 8 else 4) = false ∧ specTask (sCopy 0) (cur (sCopy 0)) = none ∧
    p.2.extractLsb' 2 4 = 0 ∧ (cur (sCopy 0)).cntC < 31 ∧
    (okVal (readRecord (sCopy 0) (word (p.2.toNat / 64 * 64)) (if p.2.getLsbD 0 then 1 else 0) 2 (p.2.getLsbD 0)
      (fun q => q.scale == 0))).isSome = true := by unfold Live; exact all_of (by decide +kernel)
theorem wit_Streams_sunb : ∀ p ∈ [(false, false), (true, true), (true, false)], let s := sPort .none p.1 p.2
    Live s ∧ (8 : RegNo).toNat < windowSize (cur s).hdr ∧
    portOf (cur s) 8 = some ⟨21, 8, 0xF000000000400, p.1, false, 0x100, recAt 0xF000000000500 4, 0, p.2, []⟩ ∧
    isHeld s (cur s) 0 = false ∧ specTask s (cur s) = none ∧ okVal (dstReady s (cur s) 8) = some () ∧
    portOf (cur s) 9 = none := by unfold Live; exact all_of (by decide +kernel)
theorem wit_Streams_arrival : let s := sPort (.streamElementArrival 0 0 0) false false; let th := getThread s 0 0
    let p : Port := ⟨21, 8, 0xF000000000400, false, false, 0x100, recAt 0xF000000000500 4, 0, false, []⟩
    th.ports[0]? = some p ∧ p.fetched.length < 16 ∧ p.pos + p.fetched.length < recCount p.shape ∧
    (fetchElem ⟨0, 0, th.uid, th.ctx, p.pc, 2, p.id, 0⟩ p s).any (fun x => decide ((getThread x.2 0 0).uid = th.uid ∧
      (getThread x.2 0 0).status ≠ .free)) = true := by decide +kernel

/-- Overlay 9 of the context's caddy, with its true hash or not; instruction memory slots in these states. -/
def sOvl (e : Event) (good bad : Bool) (a b : ImemState) : State :=
  { sr [(1, 9), (2, 1), (3, 0x10000)] with
    event := e
    contexts := [(0, { ctx0 with caddy := [⟨9, 1, if good then sha256 [1, 2, 3, 4] else 0, [1, 2, 3, 4], bad⟩] })]
    cores := [(0, { core0 with
      im0 := { core0.im0 with state := a, overlay := if a = .valid then 9 else 0 }
      im1 := { core0.im1 with state := b, overlay := 9, loadBy := 5, loadReg := some 8 } })] }
theorem wit_Overlays_ovl : Ready (sOvl .none true false .invalid .invalid) [1, 2] 8 [9, 1] (cur (sOvl .none true false .invalid .invalid)) ∧
    Ready (sOvl .none true false .invalid .invalid) [3, 2] 8 [0x10000, 1] (cur (sOvl .none true false .invalid .invalid)) ∧
    isHeld (sOvl .none true false .invalid .invalid) (cur (sOvl .none true false .invalid .invalid)) 4 = false ∧
    specTask (sOvl .none true false .invalid .invalid) (cur (sOvl .none true false .invalid .invalid)) = none ∧
    (∀ bad, (caddyFind (sOvl .none true bad .invalid .invalid) 0 9).map (·.bad) = some bad) ∧
    caddyFind (sOvl .none true false .invalid .invalid) 0 8 = none ∧
    (getCore (sOvl .none true false .valid .loading) 0).im1.state = .loading ∧
    (getCore (sOvl .none true false .valid .invalid) 0).im0.overlay = 9 :=
  ⟨ready_of (by decide +kernel), ready_of (by decide +kernel), by decide +kernel⟩
theorem wit_Overlays_load : ∀ good, let s := sOvl (.overlayLoadComplete 0 1) good false .invalid .loading
    (imemSlot (getCore s 0) 1).state = .loading ∧ (imemSlot (getCore s 0) 1).drop = false ∧
    (caddyFind s (imemSlot (getCore s 0) 1).ctx (imemSlot (getCore s 0) 1).overlay).map (·.bytes) = some [1, 2, 3, 4] := by
  decide +kernel
/-- The thread that asked stands spilled beneath a fold. -/
theorem wit_Overlays_spilled : let s := { sOvl (.overlayLoadComplete 0 1) true false .invalid .loading with
      threads := [(0, { thr [] with uid := 6 })], spilled := [(3, { thr [] with cntC := 1 })] }
    (getThread s 0 (imemSlot (getCore s 0) 1).loadSlot).uid ≠ (imemSlot (getCore s 0) 1).loadBy ∧
    (mapFind s.spilled 3).map (·.uid) = some (imemSlot (getCore s 0) 1).loadBy := by decide +kernel
theorem wit_Overlays_hash : sha256 [1, 2, 3, 4] ≠ 0 := by decide +kernel

/-! ### Witnesses: the matrix unit -/

/-- Engine registers of a command of 2 rows, 2 columns and depth 32: A at 0x400, B at 0x500 of the scratchpad, e8 at 0x600, e9 as
given. -/
def matRegs (e9 : Word) : SMap Word :=
  [(0, 0xF000000000400), (1, 32), (2, 0xF000000000500), (3, 32), (4, 0x200202), (7, 0xF000000000440),
    (8, 0xF000000000600), (9, e9)].filter (fun p => p.2 ≠ 0)
/-- Registers 1 to 4 hold an address of a block directory, 0, a gang mask and a core's number. -/
def sMat (regs : SMap Word) : State :=
  { st { thr [(1, 0xF000000000400), (3, 3), (4, 1)] with eng := regs } with
    cores := [(0, core0), (1, core0)], mem := memWrite [] (k0 + 16) 4 4 }

theorem matrixReady_of {s : State} {srcs : List RegNo} {vs : List Word}
    (h : (plainCheck s srcs vs && decide (s.slot ≠ 29 ∧ s.slot ≠ 30 ∧ isHeld s (cur s) 48 = false ∧ specTask s (cur s) = none ∧
      (cur s).cntM < 15)) = true) : MatrixReady s srcs vs (cur s) := by
  simp only [Bool.and_eq_true, decide_eq_true_eq] at h
  exact ⟨readyFor_of h.1, h.2⟩

theorem wit_MatrixCommandsQueue : ∀ p ∈ [(MatOp.mma, (0 : Word), (0 : Word)), (.s24, 0, 0), (.s48, 0, 0), (.mbs, 0xF000000000400, 0),
      (.mss, 0xF000000000400, 0xF000000000400)],
    let s := sMat ([(4, 0x200202)])
    ((okVal (matChecks s (newCmd s (cur s) p.1 ProductFmt.i8.code.toNat p.2.1 p.2.2))).any (fun v =>
      (okVal (sparseChecks v.2 v.1)).any (fun w => decide ((getCore w.2 0).mq.length + (getCore w.2 0).drains.length < 8)))) = true := by
  decide +kernel
theorem wit_MatrixCommandsQueue_ready : MatrixReady (sMat []) [1, 2] [0xF000000000400, 0] (cur (sMat [])) ∧
    MatrixReady (sMat []) [3] [3] (cur (sMat [])) ∧ Live (sMat []) ∧ (63 : RegNo).toNat < windowSize (cur (sMat [])).hdr ∧
    (∃ v, matChecks (sMat []) (newCmd (sMat []) (cur (sMat [])) .mdrn DrainFmt.f32.code.toNat
      0xF000000000400 0) = .ok v ∧ decide ((getCore v.2 0).mq.length = 0) = true) :=
  ⟨matrixReady_of (by decide +kernel), matrixReady_of (by decide +kernel), by unfold Live; decide +kernel, by decide +kernel,
    okVal_any _ (by decide +kernel)⟩
theorem wit_MatrixCommandsQueue_slots : ∀ n ∈ [29, 30], Live { st (thr []) with slot := n, threads := [(n, thr [])] } := by
  unfold Live; decide +kernel

theorem wit_MatrixCommandsTravel_mmag : let s := sMat []
    MatrixReady s [3, 1] [3, 0xF000000000400] (cur s) ∧ (3 : Word) ≠ 0 ∧ (3 : Word).toNat < 16 ∧ (0xF000000000400 : Word).toNat % 8 = 0 ∧
    ∃ v, matChecks s (newCmd s (cur s) .mmag ProductFmt.f16.code.toNat 3 0xF000000000400) = .ok v ∧
      decide (gangCores v.2 v.1 3 = some [(0, 0), (1, 1)] ∧ v.1.a = 3 ∧ v.1.b = 0xF000000000400 ∧
        (∀ p ∈ ([(0, 0), (1, 1)] : List (Nat × Nat)), (gangWord v.2 v.1 p.2).isSome = true ∧ (getCore v.2 p.2).killed = false)) = true :=
  ⟨matrixReady_of (by decide +kernel), by decide +kernel, by decide +kernel, by decide +kernel, okVal_any _ (by decide +kernel)⟩
theorem wit_MatrixCommandsTravel_mrc : let s := sMat []
    Ready s [4, 2] 8 [1, 0] (cur s) ∧ s.slot ≠ 29 ∧ s.slot ≠ 30 ∧ isHeld s (cur s) 48 = false ∧ specTask s (cur s) = none ∧
    (cur s).cntM < 15 ∧ physCore s (cur s).ctx ((1 : Word).extractLsb' 0 10).toNat = some 1 ∧
    ∃ v, matChecks s (newCmd s (cur s) .mrc ProductFmt.bf16.code.toNat 1 0) = .ok v ∧
      decide (v.1.op = .mrc) = true :=
  ⟨ready_of (by decide +kernel), by decide +kernel, by decide +kernel, by decide +kernel, by decide +kernel, by decide +kernel,
    by decide +kernel, okVal_any _ (by decide +kernel)⟩
theorem wit_MatrixCommandsTravel_macc : MatrixReady (sMat []) [3, 2] [3, 0] (cur (sMat [])) ∧
    (15 : BitVec 6).toNat < 16 ∧ checkTiles (cur (sMat [])) [(15 : BitVec 6).setWidth 4] = .ok () ∧
    tileBusy (sMat []) (cur (sMat [])) ((15 : BitVec 6).setWidth 4) = false ∧ isHeld (sMat []) (cur (sMat [])) 0 = false ∧
    16 ≤ (16 : BitVec 6).toNat :=
  ⟨matrixReady_of (by decide +kernel), by decide +kernel, okVal_unit (by decide +kernel), by decide +kernel⟩

/-- A command of the thread in slot 0 with these registers. -/
def matCmd (op : MatOp) (regs : SMap Word) : MatCmd :=
  { id := 4, op := op, fmt := 0, a := 0, b := 0, regs := regs, cfg := 0, ctx := 0, core := 0, slot := 0, uid := 5, pc := 0x100, d := 8,
    p := 0, q := 0, mask := 0, whole := 0, gang := 0, row := 0, drn := 0, ended := false, flags := 0, header := { Header.zero with l := 4, tiles := 1 },
    fam := 1, dirA := ⟨0, 0, 0, 0⟩, dirB := ⟨0, 0, 0, 0⟩, ents := none, dirVals := [], hands := [], held := [], kept := 0, bad := 0, int := false }
/-- A launch of context 0, in this state, whose image lies at the start of page 1. -/
def launchOf (st : LaunchState) (saved : List SavedCore) : Launch :=
  { id := 7, ctx := 0, prio := 0, gang := false, noPreempt := false, owner := 0, level := 1, index := 0, header := 0xF000000000440
    family := 0, awaits := [], tick := 0, handler := 0, saveBase := 0x10000, saveSize := 0x1000, spillBase := 0, spillSize := 0
    binds := [], status := 0, done := 0, group := 0, recAddr := 0, state := st, cores := if st = .running then [0] else []
    rootFam := 1, missed := false, preempt := false, closing := none, defSave := false, defSpill := false
    saved := saved, savedReqs := [], savedRuns := [] }
/-- Core 0 holds this command at the head of its queue. -/
def sQueue (e : Event) (k : MatCmd) : State :=
  { st (thr []) with event := e, cores := [(0, { core0 with mq := [k] })], mem := [(k0, 3), (k0 + 0x100, 4)] }

theorem wit_MatrixRowsAdvance_accept : let k := matCmd .mma (matRegs 1); let s := { st (thr []) with
      event := .matrixCommandAccept 4, mesh := [(0, k)] }
    s.mesh.find? (fun m => m.2.id == 4) = some (0, k) ∧ s.mesh.find? (fun m => m.1 == 0) = some (0, k) ∧ meshHeld s (0, k) = false ∧
    (getCore s 0).sealed = false ∧ k.op ≠ .mrc ∧ badKind (getCore s 0) k = false ∧ (getCore s 0).mq.length + (getCore s 0).drains.length < 8 ∧ k.rows ≤ 32 ∧
    k.hasRows = true := by decide +kernel
/-- The target's launch is pre-empted and no other of its context runs there; or the issuer's is. -/
theorem wit_MatrixRowsAdvance_held : ∀ l ∈ [launchOf .preempted [⟨0, 0, core0, [], []⟩], launchOf .preempted [⟨0, 1, core0, [(0, thr [])], []⟩]],
    let k := matCmd .mma (matRegs 1); let s := { st (thr []) with event := .matrixCommandAccept 4, mesh := [(0, k)], launches := [l] }
    s.mesh.find? (fun m => m.2.id == 4) = some (0, k) ∧ (∀ m ∈ s.mesh, m.2.id = 4 → m = (0, k)) ∧ meshHeld s (0, k) = true := by
  decide +kernel
theorem wit_MatrixRowsAdvance_dir : let k := matCmd .mma (matRegs 1); let s := sQueue (.matrixRowCommit 0) k
    (getCore s 0).mq = [k] ∧ k.hasRows = true ∧ dirStep 0 k s = some (.ok ({ k with ents := some ([], []) }, s)) := by
  intro k s; exact ⟨rfl, by decide +kernel, rfl⟩
theorem wit_MatrixRowsAdvance_commit : let k := { matCmd .mma (matRegs 1) with ents := some ([], []) }
    let s := sQueue (.matrixRowCommit 0) k
    (getCore s 0).mq = [k] ∧ k.hasRows = true ∧ k.row < 32 ∧ (dirStep 0 k s).isNone = true ∧
    (match rowCompute 0 k s with
      | .ok v => decide (v.1 = ([12, 0], 0) ∧ (getCore v.2 0).rowPend.getLsbD (k.acc * 32 + k.row) = false)
      | .error _ => false) = true := by decide +kernel
/-- e9 of a command that drains tile 1 as 32-bit integers, rows 8 bytes apart. -/
def drainE9 : Word := 1 + 8 + 4 * 32 + 8 * 2 ^ 32
theorem wit_MatrixRowsAdvance_drain : let k := { matCmd .mma (matRegs drainE9) with row := 1 }; let s := sQueue (.matrixRowDrain 0 4) k
    activeCmd (getCore s 0) 4 = some k ∧ drainDue (getCore s 0) k = true ∧ drawsDue s k = true ∧ drawThread s k = (thr [], s) ∧
    (match drainWrite 0 k k.drn (thr []) s with
      | .ok v => decide (activeCmd (getCore v.2 0) 4 = some k)
      | .error _ => false) = true := by decide +kernel
theorem wit_MatrixRowsAdvance_handler : let k := { matCmd .mma (matRegs 0x11) with row := 1 }
    let s := sQueue (.rowHandlerStart 0 4) k
    activeCmd (getCore s 0) 4 = some k ∧ rowSlot s 0 = some 29 ∧ k.op.computes = true ∧ k.drain = 2 ∧ k.drn < k.row ∧ 0 < k.cols ∧ k.drn < 32 ∧
    k.header.g = 0 ∧ k.header.s = 0 ∧ 4 ≤ k.header.l ∧ k.header.l ≤ 63 := by decide +kernel

theorem wit_MatrixRowsEnd_complete : let k := { matCmd .mma (matRegs 0) with row := 2, drn := 2 }
    let s := sQueue (.matrixCommandComplete 0 4) k
    activeCmd (getCore s 0) 4 = some k ∧ issuerAway s k = false ∧ k.op ≠ .mclr ∧ k.op ≠ .mrc ∧ k.hasRows = false ∧ k.rows ≤ k.drn ∧ (∀ p ∈ liveThreads s, p.2.2.uid ∉ k.hands) ∧ uidsOwe s k.hands = false ∧ k.gang = 0 ∧
    k.ended = false ∧ k.p < 4 ∧ (getThread s k.core k.slot).uid = k.uid ∧ (getThread s k.core k.slot).status ≠ .free := by
  decide +kernel
/-- Core 0 clears the tiles of `a` from tile `row` on; a row of tile 2 waits for its handler where `busy`. -/
def sClear (a : Word) (row : Nat) (busy : Bool) : State :=
  let s := sQueue (.matrixCommandComplete 0 4) { matCmd .mclr [] with a := a, row := row }
  if busy then putCore s 0 { getCore s 0 with rowPend := rowBit 2 31 } else s
/-- All four tiles from tile 0; the last one; a tile in between whose rows are free, or wait. -/
theorem wit_MatrixRowsEnd_mclr : ∀ p ∈ [((0xF : Word), (0 : Nat), (0 : Nat), false), (0xF, 3, 3, false), (4, 0, 2, false), (4, 0, 2, true)],
    let s := sClear p.1 p.2.1 p.2.2.2; let k := { matCmd .mclr [] with a := p.1, row := p.2.1 }
    activeCmd (getCore s 0) 4 = some k ∧ issuerAway s k = false ∧ k.op = .mclr ∧ k.gang = 0 ∧ k.ended = false ∧ p.2.2.1 < 4 ∧ k.row ≤ p.2.2.1 ∧
    k.a.getLsbD p.2.2.1 = true ∧ (∀ i, i < 4 → k.row ≤ i → i < p.2.2.1 → k.a.getLsbD i = false) ∧
    tilePending (getCore s 0) p.2.2.1 = p.2.2.2 := by
  exact all_of (by decide +kernel)
/-- The issuer is saved with its launch. -/
theorem wit_MatrixRowsEnd_away : ∀ e ∈ [Event.matrixCommandComplete 0 4, .matrixCommandStop 0 4],
    let k := matCmd .mma (matRegs 0); let s := { sQueue e k with launches := [launchOf .preempted [⟨0, 0, core0, [(0, thr [])], []⟩]] }
    activeCmd (getCore s 0) 4 = some k ∧ issuerAway s k = true := by decide +kernel
theorem wit_MatrixRowsEnd_stop : let k := { matCmd .mma ((0, 0xF800000000000) :: (matRegs 0).drop 1) with ents := some ([], []) }
    let s := sQueue (.matrixCommandStop 0 4) k
    activeCmd (getCore s 0) 4 = some k ∧ issuerAway s k = false ∧ matFault s 0 k = some (0x04, 0xF800000000000) ∧ k.gang = 0 ∧ k.op ≠ .mrc ∧ k.p < 4 ∧
    s.gangs = [] ∧
    (∀ p ∈ s.cores, ∀ m ∈ p.2.mq, m.uid = k.uid → m.ended = false) ∧ (∀ m ∈ s.mesh, m.2.uid = k.uid → m.2.ended = false) ∧
    (getThread s k.core k.slot).uid = k.uid ∧ (getThread s k.core k.slot).status ≠ .free ∧
    (getThread s k.core k.slot).pending = none := by decide +kernel
/-- CAPTRAP stood in the command's CTXCFG at its issue. -/
theorem wit_MatrixRowsEnd_mrc : let k := { matCmd .mrc (matRegs 0) with cfg := 0x100 }; let s := { sMat [] with event := .matrixCommandAccept 4, mesh := [(1, k)] }
    s.mesh.find? (fun m => m.2.id == 4) = some (1, k) ∧ s.mesh.find? (fun m => m.1 == 1) = some (1, k) ∧ meshHeld s (1, k) = false ∧ (getCore s 1).sealed = false ∧
    k.cfg.getLsbD 8 = true ∧ (getThread s k.core k.slot).pending = none ∧ k.gang = 0 ∧ k.ended = false ∧ admitted (getCore s 1) k = false ∧ (getThread s k.core k.slot).uid = k.uid ∧
    (getThread s k.core k.slot).status ≠ .free ∧ k.d ≠ 0 ∧ portOf (getThread s k.core k.slot) k.d = none ∧
    isShared (getThread s k.core k.slot).hdr k.d.toNat = false := by decide +kernel

/-! ### Witnesses: edge runs and collectives -/

/-- Core 0's place, as the family of thread 5 has it; an edge descriptor of two vertices at 0x800 of the scratchpad, its headers at
0x440 and 0x480, its work area at 0x900. -/
def famOne : Family := { famTwo with place := 1, chunks := [⟨0, 0, 2, 2, [], 1⟩], granted := [0] }
def edgeMem : List Host.Cell :=
  let w := fun (m : List Host.Cell) (p : Nat × Nat) => memWrite m (k0 + p.1) 8 p.2
  [(0x400, 2 + 2 ^ 32 + 2 ^ 40), (0x408, 0xF000000000B00), (0x410, 0xF000000000B80), (0x438, 0xF000000000C00),
    (0x440, 0xF000000000D00), (0x448, 0xF000000000D08), (0x450, 0xF000000000D10), (0x460, 0xF000000000440),
    (0x470, 0xF000000000480), (0x480, 0x900), (0x40, 2 ^ 48 * 6), (0x80, 2 ^ 48 * 5)].foldl w []
def sEdge (e : Event) (runs : List EdgeRun) : State :=
  { st { thr [(1, 0xF000000000800)] with cntC := runs.length } with
    event := e, families := [(1, famOne)], runs := runs, mem := edgeMem }

theorem engineReady_of {s : State} {a : RegNo} {va : Word}
    (h : (plainCheck s [a] [va] && decide (isHeld s (cur s) 12 = false ∧ specTask s (cur s) = none ∧ va.toNat % 64 = 0)) = true) :
    EngineReady s a va (cur s) := by
  simp only [Bool.and_eq_true, decide_eq_true_eq] at h
  exact ⟨readyFor_of h.1, h.2⟩

theorem wit_EdgeRunsGoOn_edge : let s := sEdge .none []
    EngineReady s 1 0xF000000000800 (cur s) ∧ (cur s).kind ≠ .edgeHandler ∧ (cur s).cntC < 31 ∧
    ∃ v, edgeRead s 0xF000000000800 = .ok v ∧ ∃ w, edgeHeader v.2 0xF000000000800 (wordAt v.1 96) 12 6 = .ok w ∧
      ((okVal (edgeHeader w.2 0xF000000000800 (wordAt v.1 112) 14 5)).any (fun u =>
        let p := corePlace u.2 u.2.core (cur s).ctx (threadPlace u.2 u.2.core (cur s))
        let x := edgeDescOf 0xF000000000800 v.1
        decide (edgeFieldsBad x v.1 = none ∧ x.hcomb = false ∧ wordAt v.1 104 = 0 ∧
          edgeTailBad x v.1 (workFits u.2 (cur s).ctx (coresOf u.2 (cur s).ctx u.2.core p) x) = none))) = true :=
  ⟨engineReady_of (by decide +kernel), by decide +kernel, by decide +kernel, okVal_two _ _ (by decide +kernel)⟩
theorem wit_EdgeRunsGoOn_handler : Live (st { thr [] with kind := .edgeHandler }) ∧
    (cur (st { thr [] with kind := .edgeHandler })).kind = .edgeHandler := by unfold Live; decide +kernel

/-- A run of that descriptor, issued by the thread in slot 0. -/
def runOf (started : Bool) (applyPhase : Bool) (work : List EdgeWork) : EdgeRun :=
  { id := 4, core := 0, slot := 0, uid := 5, ctx := 0, fam := 1, place := 1, index := 0, scope := 0, lvl := 1, pc := 0x100
    desc := { edgeDescOf 0xF000000000800 (memRead edgeMem (k0 + 0x400) 192) with
      scatter := { Header.zero with l := 6 }, apply := { Header.zero with l := 5, entry := 0x80 } }
    started := started, push := true, curA := true, rounds := 0, applyPhase := applyPhase, stage := 0, work := work, scans := [], applied := []
    snap := [], fail := none }
def stands (s : State) : Bool := (getThread s 0 0).uid == 5 && decide ((getThread s 0 0).status ≠ .free)

theorem wit_EdgeRunsGoOn_start : let r := runOf false false []; let s := sEdge (.edgeRunStart 4) [r]
    getRun s 4 = some r ∧ r.started = false ∧ (∀ x ∈ s.runs, x.id < 4 → runsMeet s x r = false) ∧ workClear s r = true ∧
    (match measure { r with started := true } (curFront r) (setRun s { r with started := true }) with
      | .ok v => v.1.1 == 0 && stands v.2
      | .error _ => false) = true := by decide +kernel
theorem wit_EdgeRunsGoOn_handlerStart : let r := runOf true true [⟨6, .apply 1, 0⟩]; let s := sEdge (.edgeHandlerStart 4 6 0) [r]
    getRun s 4 = some r ∧ r.work.find? (fun w => w.id == 6) = some ⟨6, .apply 1, 0⟩ ∧ r.started = true ∧ r.fail = none ∧
    itemNeedsThread s r ⟨6, .apply 1, 0⟩ = true ∧
    (match itemStart r (.apply 1) s with
      | .ok v => decide (routeVertex v.2 r v.1.1 = some (0, 1) ∧ freeSlot v.2 0 = some 1 ∧ (getCore v.2 0).killed = false ∧
          hasRoom v.2 0 v.1.2.1 0 0 = true ∧ v.1.2.1.g = 0 ∧ v.1.2.1.s = 0 ∧ v.1.2.1.l ≤ 63 ∧ v.1.2.2.length = 3)
      | .error _ => false) = true := by decide +kernel
theorem wit_EdgeRunsGoOn_combine : let r := runOf true false [⟨6, .combine 1 9, 0⟩]; let s := sEdge (.edgeCombine 4 6) [r]
    getRun s 4 = some r ∧ r.work.find? (fun w => w.id == 6) = some ⟨6, .combine 1 9, 0⟩ ∧ r.started = true ∧ r.fail = none ∧ workBad s r 1 = false ∧
    received s r 1 = false ∧ received (setRecv (setAcc s r 1 9) r 1) r 1 = true ∧ r.desc.hcomb = false ∧ r.desc.cop = 1 := by
  decide +kernel
theorem wit_EdgeRunsGoOn_applyPhase : let r := runOf true false []; let s := sEdge (.edgeApplyPhase 4) [r]
    getRun s 4 = some r ∧ r.started = true ∧ r.stage = 0 ∧ r.applyPhase = false ∧ r.fail = none ∧ r.work = [] ∧ (∀ v, v < r.desc.n → workBad s r v = false) ∧ r.desc.n = 2 := by
  decide +kernel
theorem wit_EdgeRunsGoOn_roundEnd : let r := runOf true true []; let s := sEdge (.edgeRoundEnd 4) [r]
    getRun s 4 = some r ∧ r.started = true ∧ r.stage = 0 ∧ r.applyPhase = true ∧ r.fail = none ∧ r.work = [] ∧ r.desc.log = 0 ∧
    (match storeApplied r s with
      | .ok v =>
        (match measure { r with rounds := r.rounds + 1, curA := !r.curA, applyPhase := false, applied := [], stage := 1 } (nextFront r) v.2 with
          | .ok w => w.1.1 == 0 && stands w.2
          | .error _ => false)
      | .error _ => false) = true := by decide +kernel
/-- The new frontier lies at an unmapped address. -/
theorem wit_EdgeRunsGoOn_roundEnd_fails : let r0 := runOf true true []
    let r := { r0 with desc := { r0.desc with frontB := 0xF800000000000 } }; let s := sEdge (.edgeRoundEnd 4) [r]
    getRun s 4 = some r ∧ r.started = true ∧ r.stage = 0 ∧ r.applyPhase = true ∧ r.fail = none ∧ r.work = [] ∧
    (match storeApplied r s with
      | .ok v => decide (v.2.runs = s.runs) &&
        (match measure { r with rounds := r.rounds + 1, curA := !r.curA, applyPhase := false, applied := [], stage := 1 } (nextFront r) v.2 with
          | .ok _ => false
          | .error e => e.1 != 0)
      | .error _ => false) = true := by decide +kernel
theorem wit_EdgeRunsGoOn_stop : let r := { runOf true false [] with fail := some (0x06, 0xF000000000B80) }
    let s := sEdge (.edgeRunStop 4) [r]
    getRun s 4 = some r ∧ (0xF000000000B80 : Word) ≠ 0 ∧ (∀ p ∈ liveThreads s, p.2.2.kind = .edgeHandler → p.2.2.work ≠ 4) ∧
    uidsOwe s (r.work.map (·.uid)) = false ∧ stands s = true ∧ (getThread s 0 0).pending = none := by decide +kernel

/-- A collective that scatters one 64-bit element over a group of this device alone. The status word stands in memory of the
whole device, which page 1 of the context maps. -/
def sColl (e : Event) (ks : List Coll) : State :=
  { sMem with
    event := e, colls := ks, dev := { sMem.dev with groups := [(3, [sMem.dev.devNum])] }
    mem := [(0x400008, 0x2000000000F), (k0, 0x010602), (k0 + 4, 3), (k0 + 8, 1), (k0 + 16, 0xF000000000500), (k0 + 24, 0xF000000000600),
      (k0 + 40, 1), (k0 + 48, 0x10008)].foldl (fun m p => memWrite m p.1 8 p.2) sMem.mem }
def collK : Coll :=
  { id := 4, core := 0, slot := 0, uid := 5, ctx := 0, pc := 0x100, op := 2, fmt := 6, rop := 1, group := 3, count := 1,
    send := 0xF000000000500, recv := 0xF000000000600, signals := 0, tile := 1, root := 0, status := 0x10008, done := [] }

theorem wit_CollectivesRun_coll : let s := sColl .none []
    EngineReady s 1 0xF000000000400 (cur s) ∧ (cur s).cntC < 31 ∧
    ∃ v, descRead (setCur s (cur s)) 0xF000000000400 64 0x04 = .ok v ∧
      decide (collFmtOk (fieldAt v.1 1 1) = true ∧ (wordAt v.1 16).toNat % elemBytes (collFmt (collOf v.2 (cur s) v.1)) = 0 ∧
        (wordAt v.1 24).toNat % elemBytes (collFmt (collOf v.2 (cur s) v.1)) = 0 ∧ collFieldsOk v.2 (collOf v.2 (cur s) v.1) v.1 = true) =
        true := ⟨engineReady_of (by decide +kernel), by decide +kernel, okVal_any _ (by decide +kernel)⟩
/-- What a step over one element is given of the other members: none is in the group. -/
def alone : List (List Word × List (Nat × Nat)) := [([], [])]
/-- The element is copied, or formed from the contributions of the whole group. -/
theorem wit_CollectivesRun_signal : ∀ op ∈ [(1 : Nat), 2], let k := { collK with op := op, signals := 0x10010 }
    let s := sColl (.collSignal 4 0 alone) [k]
    s.colls.find? (fun x => x.id == 4) = some k ∧ k.signals ≠ 0 ∧ 0 * k.tile < k.count ∧ 0 ∉ k.done ∧
    collGiven s k (collTile k 0) alone = true ∧
    (match (do collPerform s k (collTile k 0) alone
               writeSignal (collAgent k) (k.signals + word (8 * 0)) (collTile k 0).length : Eng Unit) s with
      | .ok _ => true
      | .error _ => false) = true := by decide +kernel
theorem wit_CollectivesRun_complete : let s := sColl (.collComplete 4 0 alone) [collK]
    s.colls.find? (fun x => x.id == 4) = some collK ∧ collK.signals = 0 ∧ collGiven s collK (collRest collK) alone = true ∧
    (match collPerform s collK (collRest collK) alone s with
      | .ok v => stands v.2 &&
        (match engFind (collAgent collK) collK.status 8 false true v.2 with
          | .ok w => decide (w.1.lost = false ∧ w.1.loc.win = .urn ∧ w.1.loc.drop = false ∧ w.2.marks = [] ∧ w.2.flights = v.2.flights ∧
              w.1.loc.key % 8 = 0 ∧ ∀ q ∈ v.2.flights, isFeWaiter q w.1.loc.key = false)
          | .error _ => false)
      | .error _ => false) = true := by decide +kernel

/-! ### Witnesses: traps, the system registers and the kernel's instructions -/

/-- Instruction memory that holds one instruction at 0x100 of overlay 0. -/
def imOf (i : Instr) : ImemSlot :=
  { ImemSlot.init with state := .valid, overlay := 0, bytes := ((List.range 4).zip (encodeBytes i)).map (fun p => (0x100 + p.1, p.2)) }

theorem wit_Traps : specTask sInt (getThread sInt 0 0) = none ∧ (30 : Nat) < 31 ∧ (255 : Nat) < 256 ∧
    specTask (sTask .none [taskOf 3 0 0 true]) (getThread (sTask .none [taskOf 3 0 0 true]) 0 0) = some (taskOf 3 0 0 true) ∧
    specTask sInt (getThread sInt 0 31) = none ∧ Live sInt := by unfold Live; decide +kernel
/-- A word of no instruction stands at the PC; an overlay in no slot; an invalid slot, of a sound or a quarantined image. -/
def sFetch (e : Event) (im : ImemSlot) (bad : Bool) : State :=
  { sInt with event := e, cores := [(0, { core0 with im0 := im })], contexts := [(0, { ctx0 with caddy := [⟨0, 1, 0, [], bad⟩] })] }
theorem wit_Traps_fetches :
    (match fetchAt (getCore (sFetch (.illegalInstruction 0xFFFFFFFF) { imOf (.trap 0) with bytes := [(0x100, 0xFF), (0x101, 0xFF),
          (0x102, 0xFF), (0x103, 0xFF)] } false) 0) 0x100 with
      | .word w => w == 0xFFFFFFFF && (errVal (decodeWord w)).isSome
      | .wait | .invalid | .miss => false) = true ∧
    (match fetchAt (getCore (sFetch .overlayMiss ImemSlot.init false) 0) 0x100 with
      | .miss => true
      | .word _ | .wait | .invalid => false) = true ∧
    (∀ bad, (match fetchAt (getCore (sFetch .overlayMiss { imOf (.trap 0) with state := .invalid } bad) 0) 0x100 with
      | .invalid => quarantined (sFetch .overlayMiss { imOf (.trap 0) with state := .invalid } bad) 0 0 == bad
      | .word _ | .wait | .miss => false) = true) ∧ (cur (sFetch .overlayMiss ImemSlot.init true)).kind = .member ∧
    (cur (sFetch .overlayMiss ImemSlot.init true)).pc = 0x100 := by decide +kernel

/-- A delivery of the thread in slot 2, and the state that holds it: the handler is overlay 9 at 0x40. -/
def dlv : Delivery := ⟨2, 6, 0x13, 0x100, 1, 0, 0⟩
def held : Thread := { thr [(1, 7)] with status := .trapped, uid := 6 }
def sDeliver (handler : Nat) (im : ImemState) (uid : Nat) : State :=
  { sr [] with
    event := .trapDelivery 0, threads := [(0, thr []), (2, { held with uid := uid })]
    contexts := [(0, { ctx0 with caddy := [⟨9, 1, 0, [], false⟩] })]
    cores := [(0, { core0 with handler := handler, queue := [dlv], im0 := { ImemSlot.init with state := im, overlay := 9 } })] }
theorem wit_HandlersStart : ∀ p ∈ [(0x90040, ImemState.valid, 6), (0x90040, .empty, 6), (0, .empty, 6), (0, .empty, 8)],
    let s := sDeliver p.1 p.2.1 p.2.2
    MayDeliver s 0 dlv [] { held with uid := p.2.2 } ∧ ({ held with uid := p.2.2 } : Thread).status = .trapped ∧
    (imemMatches (getCore s 0).im0 9 = decide (p.2.1 = .valid)) ∧ imemMatches (getCore s 0).im1 9 = false ∧
    caddyFind s 0 9 = some ⟨9, 1, 0, [], false⟩ ∧ (getCore s 0).handler / 2 ^ 16 % 2 ^ 16 = (if p.1 = 0 then 0 else 9) ∧
    (getCore s 0).im0.fetched ≤ (getCore s 0).im1.fetched ∧ (getCore s 0).im0.state ≠ .loading := by
  unfold MayDeliver; decide +kernel

/-- The handler of that delivery in slot 31; the record's first word and its PC. -/
def sHandler (w0 pc : Nat) : State :=
  let s := { sr [] with
    slot := 31, threads := [(2, held), (31, { thr [(1, 0xABC)] with kind := .trapHandler })], families := [(1, famTwo)]
    cores := [(0, { core0 with handler := 0x90040, current := some dlv })] }
  let k := trapRecordKey s 0 2
  { s with mem := memWrite (memWrite (memWrite [] k 8 w0) (k + 16) 8 pc) (k + 48) 8 0x300 }
theorem wit_HandlersReturn : ∀ p ∈ [(1, 0x104), (1, 2 ^ 32), (1, 0x106), (1, 2 ^ 64 - 1), (2, 0)], let s := sHandler p.1 p.2
    MayReturn s dlv held ∧ peek s (trapRecordKey s 0 2) 8 % 64 = p.1 ∧ peek s (trapRecordKey s 0 2 + 16) 8 = p.2 ∧
    held.kind = .member ∧ getFam s held.fam = some famTwo ∧ famTwo.outcome = .running := by
  unfold MayReturn Live; decide +kernel
theorem wit_HandlersReturn_other : Live (sHandler 1 0) ∧ (sHandler 1 0).slot = 31 ∧ sInt.slot ≠ 31 := by unfold Live; decide +kernel

/-- Slot 0 of the first control core. -/
def sKern (regs : List (Nat × Word)) (e : Event) (i : Instr) : State :=
  { sr [] with
    core := 1088, event := e, cores := [(1088, { Core.init with im0 := imOf i })]
    threads := [(1088 * 32, { thr regs with kind := .kernel }), (0, thr [])] }
theorem kernelReady_of {s : State} {srcs : List RegNo} {d : RegNo} {vs : List Word}
    (h : (plainCheck s srcs vs && plainDest (cur s) d && isKernel s && (specTask s (cur s)).isNone) = true) :
    KernelReady s srcs d vs (cur s) := by
  simp only [Bool.and_eq_true, Option.isNone_iff_eq_none] at h
  exact ⟨ready_of (by simp [h.1.1.1, h.1.1.2]), h.1.2, h.2⟩
theorem kernelReadyFor_of {s : State} {srcs : List RegNo} {vs : List Word}
    (h : (plainCheck s srcs vs && isKernel s && (specTask s (cur s)).isNone) = true) : KernelReadyFor s srcs vs (cur s) := by
  simp only [Bool.and_eq_true, Option.isNone_iff_eq_none] at h
  exact ⟨readyFor_of h.1.1, h.1.2, h.2⟩

theorem wit_SystemRegistersRead_kernel : let s := sKern [] .none .halt
    KernelReady s [] 8 [] (cur s) ∧ (0 : Nat) < 18 ∧
    getCtx s (cur s).ctxSel.toNat = some ctx0 ∧ heldThread s s.core = none :=
  ⟨kernelReady_of (by decide +kernel), by decide +kernel⟩
/-- The selected context is not live; a kernel thread of slot 0 while its core's handler has a delivery. -/
theorem wit_SystemRegistersRead_notLive : let s := { sKern [] .none .halt with contexts := [] }
    KernelReady s [] 8 [] (cur s) ∧ getCtx s (cur s).ctxSel.toNat = none := ⟨kernelReady_of (by decide +kernel), by decide +kernel⟩
theorem wit_SystemRegistersRead_kernelHeld : let s0 := sKern [] .none .halt
    let s := { s0 with cores := [(1088, { Core.init with current := some dlv })], threads := s0.threads ++ [(1088 * 32 + 2, held)] }
    Ready s [] 8 [] (cur s) ∧ specTask s (cur s) = none ∧ isKernel s = true ∧ heldThread s s.core = some (dlv, held) :=
  ⟨ready_of (by decide +kernel), by decide +kernel⟩
theorem wit_SystemRegistersRead_handler : let s := sHandler 1 0
    Ready s [] 8 [] (cur s) ∧ specTask s (cur s) = none ∧ s.slot = 31 ∧ heldThread s 0 = some (dlv, held) ∧
    heldThread { s with cores := [] } 0 = none ∧ Ready { s with cores := [] } [] 8 [] (cur { s with cores := [] }) :=
  ⟨ready_of (by decide +kernel), by decide +kernel, by decide +kernel, by decide +kernel, by decide +kernel, ready_of (by decide +kernel)⟩
theorem wit_SystemRegistersRead_numbers : (∀ n ∈ [(7 : BitVec 12), 0x00F, 0x022, 0x02F, 0x038, 0x0FF, 0x142, 0x17F, 0x1A4, 0xFFF], ¬allocated n) ∧
    (∀ n ∈ [(0 : BitVec 12), 6, 0x010, 0x021, 0x030, 0x037, 0x100, 0x141, 0x180, 0x19F, 0x1A0, 0x1A3], allocated n) ∧
    isKernel sInt = false ∧ sInt.slot ≠ 31 ∧ Live sInt := by
  unfold Live allocated
  exact ⟨all_of (by decide +kernel), all_of (by decide +kernel), by decide +kernel, by decide +kernel, by decide +kernel⟩

theorem wit_SystemRegistersWritten_kernel : let s := sKern [(1, 3600), (2, 3601), (3, 1)] .none .halt
    KernelReadyFor s [1] [3600] (cur s) ∧ KernelReadyFor s [2] [3601] (cur s) ∧ KernelReadyFor s [3] [1] (cur s) ∧
    KernelReadyFor s [0] [0] (cur s) ∧ (3600 : Word).toNat / 4096 = 0 ∧ getCtx s (cur s).ctxSel.toNat = some ctx0 ∧
    (∀ l ∈ s.launches, l.ctx = (cur s).ctxSel.toNat → l.state ≠ .running) ∧ ctx0.pendCfg = none ∧ (cur s).cfgWait = false :=
  ⟨kernelReadyFor_of (by decide +kernel), kernelReadyFor_of (by decide +kernel), kernelReadyFor_of (by decide +kernel),
    kernelReadyFor_of (by decide +kernel), by decide +kernel⟩
theorem wit_SystemRegistersWritten_pending : let s := { sKern [(3, 1)] .none .halt with
      contexts := [(0, { ctx0 with pendCfg := some 1 })] }
    KernelReadyFor s [3] [1] (cur s) ∧ (getCtx s (cur s).ctxSel.toNat).map (·.pendCfg) = some (some 1) :=
  ⟨kernelReadyFor_of (by decide +kernel), by decide +kernel⟩
theorem wit_SystemRegistersWritten_cfgWait : let s := { sKern [] .none .halt with
      threads := [(1088 * 32, { thr [(3, 1)] with kind := .kernel, cfgWait := true })] }
    KernelReadyFor s [3] [1] (cur s) ∧ (cur s).cfgWait = true := ⟨kernelReadyFor_of (by decide +kernel), by decide +kernel⟩
theorem wit_SystemRegistersWritten_held : let s := sHandler 1 0
    ReadyFor s [1] [0xABC] (cur s) ∧ dlv.slot < 31 ∧ 0 < (63 : RegNo).toNat ∧ (63 : RegNo).toNat < windowSize held.hdr ∧
    isShared held.hdr 63 = false ∧ engReserved (27 : BitVec 5).toNat = false ∧ engReserved (28 : BitVec 5).toNat = true :=
  ⟨readyFor_of (by decide +kernel), by decide +kernel⟩

theorem wit_WritesAsSteps_errwin : let s := sKern [(1, 3600)] (.errwinWrite 3600) (.sysw 1 0x004)
    kernelSlots.find? (fun p => (aboutToWrite s p.1 p.2 0x004 3600).isSome) = some (1088, 0) ∧
    aboutToWrite s 1088 0 0x004 3600 = some 1 ∧ plainSource (getThread s 1088 0) 1 = true ∧
    specTask s (getThread s 1088 0) = none := by decide +kernel
theorem wit_WritesAsSteps_seed : ∀ half ∈ [(0 : BitVec 1), 1], let s := sKern [(1, 36)] (.seedWrite 0 half 36) (.sysw 1 (0x033 + half.setWidth 12))
    (getThread s 1088 0).ctxSel.toNat = 0 ∧
    (kernelSlots.filter (fun p => (getThread s p.1 p.2).ctxSel.toNat == 0)).find?
      (fun p => (aboutToWrite s p.1 p.2 (0x033 + half.toNat) 36).isSome) = some (1088, 0) ∧
    aboutToWrite s 1088 0 (0x033 + half.toNat) 36 = some 1 ∧ getCtx s 0 = some ctx0 := by decide +kernel
theorem wit_WritesAsSteps_held : ∀ p ∈ [((0x13F : BitVec 12), Event.heldWindowWrite 0 63 0xABC), (0x180, .heldEngineWrite 0 0 0xABC)],
    let s := { sHandler 1 0 with
      event := p.2, cores := [(0, { core0 with current := some dlv, im0 := imOf (.sysw 1 p.1) })] }
    aboutToWrite s 0 31 p.1.toNat 0xABC = some 1 ∧ plainSource (getThread s 0 31) 1 = true ∧ specTask s (getThread s 0 31) = none ∧
    heldThread s 0 = some (dlv, held) := by decide +kernel
theorem wit_WritesAsSteps_ctxcfg : let s := { sInt with event := .ctxcfgWrite 0 (some 0), contexts := [(0, { ctx0 with pendCfg := some 3 })] }
    (getCtx s 0).map (·.pendCfg) = some (some 3) ∧ 0 ∈ cfgOwed s 0 3 ∧ cfgOwed { s with threads := [] } 0 3 = [] := by decide +kernel

theorem wit_KernelInstructions : let s := sKern [(1, 1087), (2, 1088), (3, 1087 * 16), (4, 1088 * 16)] .none .halt
    Live s ∧ isKernel s = true ∧ KernelReadyFor s [1] [1087] (cur s) ∧ KernelReadyFor s [2] [1088] (cur s) ∧
    KernelReadyFor s [3, 1] [1087 * 16, 1087] (cur s) ∧ KernelReadyFor s [4, 1] [1088 * 16, 1087] (cur s) ∧
    KernelReady s [3] 8 [1087 * 16] (cur s) ∧ (getCore s s.core).events = [] ∧
    (getCore { s with cores := [(1088, { Core.init with halted := true })] } 1088).halted = true :=
  ⟨by unfold Live; decide +kernel, by decide +kernel, kernelReadyFor_of (by decide +kernel), kernelReadyFor_of (by decide +kernel),
    kernelReadyFor_of (by decide +kernel), kernelReadyFor_of (by decide +kernel), kernelReady_of (by decide +kernel), by decide +kernel⟩

/-- One address of a context, all of one or everything, with a TROOT that is in force and one that is not yet. -/
theorem wit_KernelInstructions_tlbi : ∀ p ∈ [((0x100000 : Word), (0 : Word)), (0x200000, 0), (0x200000, 1), (0x200000, 0x200),
      (0x200000, 0x201), (0x200000, 0x400)],
    let s := { sKern [(5, 0x10000), (6, p.2)] .none .halt with contexts := [(0, { ctx0 with rootNow := p.1 })] }
    plainCheck s [5, 6] [0x10000, p.2] = true ∧ isKernel s = true ∧ specTask s (cur s) = none ∧ (getCtx s 0).isSome = true := by
  exact all_of (by decide +kernel)

/-- The kernel's thread with that launch; the image of a launch without cores, or these marks in its place. -/
def sLaunch (l : Launch) (image : Bool) (marks : List Nat) : State :=
  let w := fun (m : List Host.Cell) (p : Nat × Nat) => memWrite m p.1 8 p.2
  let m := ([(0x100000, 0x200001), (0x200000, 0x300001), (0x300000, 0x400001), (0x400008, 0x2000000000F)].foldl w [])
  { sKern [(1, 0)] .none .halt with
    launches := [l], marks := marks
    mem := if image then [(2 ^ 41, 0x31495356), (2 ^ 41 + 8, 256), (2 ^ 41 + 24, 0x800008)].foldl w m else m }
theorem wit_ContextsStop_ctxs : KernelReadyFor (sLaunch (launchOf .running []) false []) [1] [0] (cur (sLaunch (launchOf .running []) false [])) ∧
    (launchOf .running []).preempt = false ∧ (launchOf .running []).ctx = (0 : Word).toNat % 512 ∧
    ({ launchOf .running [] with preempt := true } : Launch).preempt = true ∧ (launchOf .queued []).state ≠ .running :=
  ⟨kernelReadyFor_of (by decide +kernel), by decide +kernel⟩
def restoredAs (s : State) (l : Launch) : Nat :=
  match restoreLaunch (setCur s (cur s)) l with
  | .resumed _ bad => if bad then 9 else 0
  | .damaged _ => 1
  | .malformed => 3
  | .busy => 4
theorem wit_ContextsStop_ctxr : ∀ p ∈ [(launchOf .preempted [], true, [], 0), (launchOf .preempted [], true, [2 ^ 41], 1),
      (launchOf .preempted [], false, [], 3), (launchOf .preempted [⟨0, 0, core0, [], []⟩], false, [], 4)],
    let s := if p.2.2.2 = 4 then { sLaunch p.1 p.2.1 p.2.2.1 with cores := [(0, core0)] } else sLaunch p.1 p.2.1 p.2.2.1
    plainCheck s [1] [0] = true ∧ plainDest (cur s) 8 = true ∧ isKernel s = true ∧ specTask s (cur s) = none ∧
    s.launches.filter (fun l => l.ctx == (0 : Word).toNat % 512 && l.state == .preempted) = [p.1] ∧
    getLaunch s p.1.id = some p.1 ∧ restoredAs s p.1 = p.2.2.2 := by decide +kernel

theorem wit_TimeOverlaysAndHints : Ready sInt [] 8 [] (cur sInt) ∧ specTask sInt (cur sInt) = none ∧ Live sInt ∧ isKernel sInt = false ∧
    ReadyFor (sHandler 1 0) [1] [0xABC] (cur (sHandler 1 0)) ∧
    (let s := sOvl .none true false .empty .invalid
     hintSlot s 0 0 9 = some 0 ∧ hintSlot s 0 0 8 = none) ∧ isLocal (cur sInt).hdr (63 : RegNo).toNat = true ∧
    okVal (dstReady sInt (cur sInt) 63) = some () ∧ okVal (dstReady sStop (cur sStop) 6) = some () ∧ isLocal (cur sStop).hdr (1 : RegNo).toNat = false ∧ isShared (cur sStop).hdr 1 = false ∧
    isShared (cur sStop).hdr 6 = true :=
  ⟨ready_of (by decide +kernel), by decide +kernel, by unfold Live; decide +kernel, by decide +kernel, readyFor_of (by decide +kernel),
    by decide +kernel⟩

/-! ### Witnesses: launches -/

/-- A launch of context 0 that waits for core 0's place; its root family's descriptor lies at `fam` and its header at `hdr`. Page 1
of the context lies in the urn: it holds a descriptor of three members at 0x10000 with its header at 0x10040, a malformed one at
0x10080, a launch record at 0x10100, and at 0x10400 the launch port. -/
def urnMem : List Host.Cell :=
  let w := fun (m : List Host.Cell) (p : Nat × Nat) => memWrite m p.1 8 p.2
  [(0x100000, 0x200001), (0x200000, 0x300001), (0x300000, 0x400001), (0x400008, 0x2000000000F), (2 ^ 41 + 8, 3),
    (2 ^ 41 + 48, 0x10040), (2 ^ 41 + 0x80 + 56, 1), (2 ^ 41 + 0x100, 2 ^ 33), (2 ^ 41 + 0x108, 0x10040), (2 ^ 41 + 0x110, 0x10000),
    (2 ^ 41 + 0x178, 0x10200), (2 ^ 41 + 0x180, 0x10208), (2 ^ 41 + 0x400, 0x10100), (2 ^ 41 + 0x800, 0x8000)].foldl w []
def lq (fam hdr : Word) : Launch := { launchOf .queued [] with family := fam, header := hdr, done := 0x10208, rootFam := 0 }
def sArb (e : Event) (l : Launch) : State :=
  { State.reset with event := e, contexts := [(0, { ctx0 with portKey := 2 ^ 41 + 0x400, coreTbl := 0x20000000800 })], launches := [l], mem := urnMem, nextId := 10 }

/-- The launch starts, and this holds of it and of the state with its cores taken. -/
def startCheck (s : State) (id : Nat) (areas : List Nat) (p : Launch → State → Bool) : Bool :=
  match getLaunch s id with
  | none => false
  | some l =>
    let s0 := mapSpares s l.ctx
    l.state == .queued && served s0 l &&
      (match startIndex s0 l, getCtx s0 l.ctx, giveAreas s0 l areas with
       | some i, some x, some (s1, l1) =>
         let l2 := { l1 with state := .running, index := i, cores := launchCores s0 l i }
         p l2 ((launchCores s0 l i).foldl (fun st c => takeCore st l2 x c)
           (settleDeficits (setLaunch (chargeVisit s1 l) l2)))
       | _, _, _ => false)

theorem startsAt_of {s : State} {id : Nat} {areas : List Nat} {p : Launch → State → Bool} (he : s.event = .launchStart id areas)
    (h : startCheck s id areas p = true) : ∃ l l2 x s2, StartsAt s id areas l l2 x s2 ∧ p l2 s2 = true := by
  unfold startCheck at h
  split at h
  · cases h
  · rename_i l hl
    simp only [Bool.and_eq_true, beq_iff_eq] at h
    obtain ⟨⟨h1, h2⟩, h3⟩ := h
    split at h3
    · rename_i i x s1 l1 e1 e2 e3
      exact ⟨l, _, x, _, ⟨he, hl, h1, _, s1, l1, i, rfl, h2, e1, e2, e3, rfl, rfl⟩, h3⟩
    · cases h3

theorem wit_LaunchRecords : (∀ p ∈ [(0x10100, 0, (0 : Nat)), (0x10100, 24 * 2 ^ 16, 2), (0x10100, 4 * 2 ^ 24, 1), (0x10101, 0, 1), (0x10100, 1, 3)],
      let d := p.2.1 + 2 ^ 33 + 0x10040 * 2 ^ 64 + 0x10000 * 2 ^ 128; let s := sArb .none (lq 0 0)
      RecordRead s d (fieldAt (memRead urnMem (2 ^ 41) 64) 0 64) (fieldAt (memRead urnMem (2 ^ 41 + 64) 64) 0 64) 1 0 (· == 0) ∧
      recordStatus s p.1 (some d) 1 0 (· == 0) = p.2.2) := by unfold RecordRead; decide +kernel
/-- The device kernel's own records: a priority of 20 and NOPREEMPT pass from it, 24 does not. -/
theorem wit_LaunchRecords_kernel : ∀ p ∈ [(20 * 2 ^ 16 + 2 * 2 ^ 24, (0 : Nat)), (24 * 2 ^ 16, 2)],
    let d := p.1 + 2 ^ 33 + 0x10040 * 2 ^ 64 + 0x10000 * 2 ^ 128; let s := sArb .none (lq 0 0)
    RecordRead s d (fieldAt (memRead urnMem (2 ^ 41) 64) 0 64) (fieldAt (memRead urnMem (2 ^ 41 + 64) 64) 0 64) 2 0 (· == 0) ∧
    recordStatus s 0x10100 (some d) 2 0 (· == 0) = p.2 ∧ (cleanTwo d 2 ↔ p.2 = 0) := by
  unfold RecordRead cleanTwo; decide +kernel
theorem wit_LaunchRecords_port : let s := sArb (.launchRecordCopy 0) (lq 0 0)
    let x := { ctx0 with portKey := 2 ^ 41 + 0x400, coreTbl := 0x20000000800 }
    getCtx s 0 = some x ∧ x.portKey ≠ 0 ∧ isFull s x.portKey = true ∧ s.dev.handover = none ∧ peek s x.portKey 8 = 0x10100 ∧
    keyHasState x.portKey = true ∧ s.marks = [] ∧ s.flights = [] ∧
    (match hubRead s 0 0x10100 256 with
      | none => false
      | some d => decide (recordStatus s 0x10100 (some d) 1 0 (· == 0) = 0 ∧
          recordContext (Machine.launchOf d 1 0) 0 (· == 0) = 0 ∧ wordAt d 120 = 0x10200)) = true ∧
    (match resolve s hubCore 0 0 0x10200 8 true true with
      | (.ok p, _) => decide (p.win = .urn ∧ p.drop = false ∧ p.park = false ∧ p.key = 2 ^ 41 + 0x200 ∧ p.key % 8 = 0 ∧
          wordOf x.portKey ≠ p.key ∧ p.key + 8 ≤ hostBase ∧ keyHasState p.key = true)
      | _ => false) = true := by decide +kernel

theorem wit_LaunchesStart : ∃ l l2 x s2, StartsAt (sArb (.launchStart 7 []) (lq 0x10000 0x10040)) 7 [] l l2 x s2 ∧
    (match hubRecord s2 l2.ctx l2.family, hubRecord s2 l2.ctx l2.header with
      | some d, some h => !descBad d && headerOk h && (rootPlace l2 l2.index d).isSome && decide (descCount d = 3)
      | _, _ => false) = true := startsAt_of (p := fun l2 s2 => match hubRecord s2 l2.ctx l2.family, hubRecord s2 l2.ctx l2.header with
      | some d, some h => !descBad d && headerOk h && (rootPlace l2 l2.index d).isSome && decide (descCount d = 3)
      | _, _ => false) (by decide +kernel) (by decide +kernel)
theorem wit_LaunchesStart_none : ∃ l l2 x s2, StartsAt (sArb (.launchStart 7 []) (lq 0 0x10040)) 7 [] l l2 x s2 ∧
    (hubRecord s2 l2.ctx l2.family).isNone = true :=
  startsAt_of (p := fun l2 s2 => (hubRecord s2 l2.ctx l2.family).isNone) (by decide +kernel) (by decide +kernel)
theorem wit_LaunchesStart_bad : ∃ l l2 x s2, StartsAt (sArb (.launchStart 7 []) (lq 0x10080 0x10040)) 7 [] l l2 x s2 ∧
    (hubRecord s2 l2.ctx l2.family).any descBad = true :=
  startsAt_of (p := fun l2 s2 => (hubRecord s2 l2.ctx l2.family).any descBad) (by decide +kernel) (by decide +kernel)
theorem wit_LaunchesStart_noHeader : ∃ l l2 x s2, StartsAt (sArb (.launchStart 7 []) (lq 0x10000 0)) 7 [] l l2 x s2 ∧
    ((hubRecord s2 l2.ctx l2.family).any (fun d => !descBad d) && (hubRecord s2 l2.ctx l2.header).isNone) = true :=
  startsAt_of (p := fun l2 s2 => (hubRecord s2 l2.ctx l2.family).any (fun d => !descBad d) && (hubRecord s2 l2.ctx l2.header).isNone)
    (by decide +kernel) (by decide +kernel)

theorem wit_LaunchesEnd : let l := { launchOf .running [] with done := 0x10208 }
    let s := { sArb (.launchEnd 7) l with families := [(1, famDone .completed)] }
    getLaunch s 7 = some l ∧ l.state = .running ∧ launchOwes s l = false ∧ l.rootFam ≠ 0 ∧ getFam s l.rootFam = some (famDone .completed) ∧ famEnded s l.rootFam = true := by
  decide +kernel
/-- An ended launch that owes its done word, while a thread of its core still has a load in flight, and when none has. -/
theorem wit_LaunchesEnd_owes : ∀ owes ∈ [true, false],
    let l := { launchOf .ended [] with cores := [0], closing := some 0x102, done := 0x10208 }
    let s := { sArb (.launchEnd 7) l with cores := [(0, { core0 with launch := 7 })], flights := if owes then [req .store k0 8 0] else [] }
    getLaunch s l.id = some l ∧ l.state = .ended ∧ l.closing = some 0x102 ∧ launchOwes s l = owes := by
  decide +kernel
theorem wit_LaunchesEnd_gang : let l := { lq 0x10000 0x10040 with gang := true, awaits := [0x10600], group := 3 }
    let s := { sArb (.gangStartTick 7) l with empties := [2 ^ 41 + 0x600] }
    getLaunch s 7 = some l ∧ l.gang = true ∧ l.state = .queued ∧ l.missed = false ∧ l.tick ≤ s.dev.timebase.toNat ∧ awaitsFull s l = false ∧
    (match resolve s hubCore 0 l.ctx l.done 8 true true with
      | (.ok p, _) => decide (p.win = .urn ∧ p.drop = false ∧ p.park = false ∧ p.key % 8 = 0 ∧ keyHasState p.key = true ∧ p.key + 8 ≤ hostBase)
      | _ => false) = true ∧ l.done ≠ 0 ∧ s.marks = [] ∧ s.flights = [] := by decide +kernel
theorem wit_LaunchesEnd_miss : ∀ st ∈ [LaunchState.running, .queued, .preempted], let l := { launchOf st [] with gang := true }
    getLaunch (sArb (.gangMiss 7) l) 7 = some l ∧ l.state = st := by decide +kernel
theorem wit_LaunchesEnd_lost : (sInt.spilled.all (fun p => decide (p.2.status ≠ .free))) = true ∧ (getThread sInt 0 0).ctx = 0 := by
  decide +kernel

theorem wit_LaunchesStop : let l := { launchOf .running [] with preempt := true }; let s := { sArb (.launchPreempt 7) l with
      cores := [(0, { core0 with launch := 7 })], threads := [(0, thr [])] }
    getLaunch s 7 = some l ∧ mustPreempt s l = true ∧ launchQuiet s l = true ∧ l.cores = [0] := by decide +kernel
/-- A pre-empted launch that holds one saved core, its image at the start of page 1, with these marks. -/
def lSaved : Launch := { launchOf .preempted [⟨0, 0, core0, [], []⟩] with saveSize := 0x10000 }
def sImage (e : Event) (marks : List Nat) : State :=
  let s := sLaunch lSaved false marks
  { s with
    event := e, cores := []
    mem := [(2 ^ 41, 0x31495356 + 2 ^ 48), (2 ^ 41 + 8, 0x200 + sectionSize ⟨0, 0, core0, [], []⟩ 0), (2 ^ 41 + 24, 0x800008),
      (2 ^ 41 + 0x108, 0x200)].foldl (fun m p => memWrite m p.1 8 p.2) s.mem }
theorem wit_LaunchesStop_restore : ∀ marks ∈ [[], [2 ^ 41]], let s := sImage (.launchRestore 7) marks
    getLaunch s 7 = some lSaved ∧ lSaved.state = .preempted ∧ lSaved.cores = [] ∧ served s lSaved = true ∧
    (match restoreLaunch (chargeVisit s lSaved) lSaved with
      | .resumed _ _ => marks.isEmpty
      | .damaged _ => !marks.isEmpty
      | .malformed => false
      | .busy => false) = true := by decide +kernel

/-! ### Witnesses: containment -/

theorem wit_Checkers : (getThread sInt 0 0).status.canIssue = true ∧
    (let k := matCmd .mma (matRegs 1)
     let s := sQueue (.checkerMismatch (.matrix 0)) k
     (getCore s 0).mq = [k] ∧ k.hasRows = true ∧ issuerAway s k = false ∧
     issuerAway { s with launches := [launchOf .preempted [⟨0, 0, core0, [(0, thr [])], []⟩]] } k = true) ∧
    (let r := req (.streamOut 8 recFour 3) k0 4 9
     getRequest (home (.checkerMismatch (.stream 4)) [r] []) 4 = some r) ∧
    (let k := copyOf 0xF000000000500 []
     firstCopy (sRun (.checkerMismatch (.copy 0 0 1)) [k]) 0 0 = some k ∧ copyDue k 1 = true) ∧
    (let r := runOf true false []
     getRun (sEdge (.checkerMismatch (.edge 4)) [r]) 4 = some r ∧ r.started = true ∧ r.fail = none) ∧
    (∀ again, let s := { sAmo .cas with event := .checkerMismatch (.bank 4 again) }
      getRequest s 4 = some { req .cas k0 8 3 with e := 7 } ∧ bankDue s { req .cas k0 8 3 with e := 7 } = true ∧ keyIsHost k0 = false) ∧
    ({ sInt with event := .checkerMismatch (.control 15 true) } : State).event = .checkerMismatch (.control 15 true) ∧
    (1087 : Nat) < 1088 := by decide +kernel

/-- A message of an edge run is combined in its accumulator word by core 0. -/
theorem wit_Checkers_combine : ∀ again, let r := runOf true false [⟨6, .combine 1 9, 0⟩]
    let s0 := sEdge (.checkerMismatch (.combine 4 6 again)) [r]; let s := setRecv (setAcc s0 r 1 9) r 1
    s.event = .checkerMismatch (.combine 4 6 again) ∧ getRun s 4 = some r ∧
    r.work.find? (fun x => x.id == 6) = some ⟨6, .combine 1 9, 0⟩ ∧
    combinePlace s r ⟨6, .combine 1 9, 0⟩ = some (0, 2 ^ 48 + 0x908) := by decide +kernel
/-- The state with error events counted at this site. -/
def sSite (e : Event) (n : SiteCount) : State := { sOvl e true false .valid .invalid with dev := { State.reset.dev with sites := [(4351, n)] } }
theorem wit_Errors_event : let x : Site := ⟨0, 4351⟩
    siteKey x.kind.toNat x.index.toNat = some 4351 ∧ (getThread sInt 0 0).status ≠ .free ∧ (getReg (getThread sInt 0 0) 1).full = true ∧
    (1 : RegNo) ≠ 0 ∧ keyIsHost k0 = false ∧ keyIsHost 0x400000000000 = true ∧ markUnit k0 ≠ markUnit (k0 + 64) ∧
    (imemSlot (getCore (sSite (.errorEvent x (.imem 0 0)) ⟨3, false, 3, false, []⟩) 0) 0).state = .valid := by decide +kernel
/-- Every kind of event at the site where it can arise, and one that cannot: a scratchpad's word at a port. -/
theorem wit_Errors_sites : (∀ p ∈ [((⟨3, 4⟩ : Site), ErrorKind.memory 0x400000), (⟨3, 4⟩, .correctable (some 0x400000)), (⟨2, 0⟩, .memory k0),
      (⟨2, 1⟩, .register 0 0 1), (⟨2, 2⟩, .tile 0 0 1), (⟨2, 3⟩, .accRow 0 1 2), (⟨2, 3⟩, .imem 0 0), (⟨2, 4351⟩, .control 1087),
      (⟨5, 17⟩, .correctable none)],
      (siteKey p.1.kind.toNat p.1.index.toNat).any (fun k => errorAt k p.2) = true) ∧
    (siteKey 5 17).any (fun k => !errorAt k (.memory k0)) = true ∧ errorCounts 16384 (.memory k0) = false ∧
    errorCounts 24580 (.memory 0x400000) = true := by decide +kernel
/-- A module memory site that has acted remembers a page it has not seen, or has seen. -/
theorem wit_Errors_pages : ∀ seen ∈ [[], [64]], let s := { sInt with dev := { State.reset.dev with sites := [(24580, ⟨3, true, 4, true, seen⟩)] } }
    (24580 / 8192 = 3 ∨ 24580 / 8192 = 4) ∧ mapGet SiteCount.zero s.dev.sites 24580 = ⟨3, true, 4, true, seen⟩ ∧ 0x400000 / 2 ^ 16 = 64 := by
  decide +kernel
theorem wit_Errors_lasting : let x : Site := ⟨0, 4351⟩
    (mapGet SiteCount.zero (sSite (.lastingFault x) ⟨3, true, 4, false, []⟩).dev.sites 4351).lasting = true ∧
    (mapGet SiteCount.zero (sSite (.lastingFault x) ⟨3, true, 4, false, []⟩).dev.sites 4351).acted = false ∧
    (mapGet SiteCount.zero (sSite (.lastingFault x) ⟨3, true, 4, true, []⟩).dev.sites 4351).acted = true ∧
    (mapGet SiteCount.zero (sSite (.lastingFault x) ⟨2, false, 2, false, []⟩).dev.sites 4351).lasting = false := by decide +kernel
theorem wit_Errors_lastingPages : let s := { sInt with event := .lastingFault ⟨3, 4⟩, dev := { State.reset.dev with
      sites := [(24580, ⟨3, true, 4, false, [64]⟩)] } }
    siteKey 3 4 = some 24580 ∧ (mapGet SiteCount.zero s.dev.sites 24580).lasting = true ∧
    (mapGet SiteCount.zero s.dev.sites 24580).acted = false ∧ (mapGet SiteCount.zero s.dev.sites 24580).pages = [64] := by decide +kernel
theorem wit_Killed : (getCore { sInt with event := .coreKill 1087 } 1087).killed = false ∧
    (getCore { sInt with event := .coreKill 0, cores := [(0, { core0 with killed := true })] } 0).killed = true ∧
    getFam sFam 1 = some famTwo ∧ famTwo.home = 0 ∧ famTwo.launch = (getCore sFam 0).launch ∧ famTwo.hdr.restartable = false := by decide +kernel

theorem pending_of {s : State} {id : Nat} {r : Request} (h : (decide (getRequest s id = some r) &&
    decide ((getThread s r.core r.slot).uid = r.uid) && decide ((getThread s r.core r.slot).status ≠ .free) &&
    (getThread s r.core r.slot).indetOps.isNone && (portOf (getThread s r.core r.slot) r.d).isNone &&
    !isShared (getThread s r.core r.slot).hdr r.d.toNat) = true) : Pending s id r (getThread s r.core r.slot) := by
  simp only [Bool.and_eq_true, decide_eq_true_eq, Option.isNone_iff_eq_none, Bool.not_eq_true'] at h
  exact ⟨h.1.1.1.1.1, rfl, h.1.1.1.1.2, h.1.1.1.2, h.1.1.2, h.1.2, h.2⟩

/-- A request to core 1, which is sealed. -/
def sSeal (kind : ReqKind) : State :=
  { home (.sealedMailboxReply 4) [req kind (spKey 1 + 0x400) 8 3] [] with cores := [(0, core0), (1, { core0 with sealed := true })] }
theorem wit_Sealed : (Pending (sSeal .cas) 4 (req .cas (spKey 1 + 0x400) 8 3) (getThread (sSeal .cas) 0 0)) ∧
    meetsSeal (sSeal .cas) (req .cas (spKey 1 + 0x400) 8 3) = true ∧ returnsValue .cas = true :=
  ⟨pending_of (by decide +kernel), by decide +kernel⟩
theorem wit_Sealed_stores : Pending (sSeal (.red .add)) 4 (req (.red .add) (spKey 1 + 0x400) 8 3) (getThread (sSeal (.red .add)) 0 0) ∧
    meetsSeal (sSeal (.red .add)) (req (.red .add) (spKey 1 + 0x400) 8 3) = true :=
  ⟨pending_of (by decide +kernel), by decide +kernel⟩
theorem wit_Sealed_shared : let s := { sFam with
      event := .sealedMailboxReply 4, flights := [req (.shared 1 0 0) 0 0 9], cores := [(0, core0), (3, { core0 with sealed := true })] }
    getRequest s 4 = some (req (.shared 1 0 0) 0 0 9) ∧ sharedSealed s 1 0 = true := by decide +kernel

/-- A request parked for a page that this device's export table, at the start of the urn, has or lacks. -/
def sPark (e : Event) (kind : ReqKind) (entry : Nat) : State :=
  { home e [{ req kind (2 ^ 47 + 8) 8 3 with parked := true }] (memWrite [] (2 ^ 41) 8 entry) with
    contexts := [(0, { ctx0 with expTbl := 0x20000000000 })] }
theorem wit_Parked_replay : let s := sPark (.parkedQueueReplay (homeOf (2 ^ 47 + 8))) (.load false) 0x20000010001
    exported s 0 (nbits (2 ^ 47 + 8) 32 0) = some 0x20000010008 ∧ ∀ r ∈ s.flights, r.parked = true ∧ homeOf r.key = homeOf (2 ^ 47 + 8) ∧
      r.kind ≠ .stm := by decide +kernel
theorem wit_Parked_discard : ∀ kind ∈ [ReqKind.amo .add, .load false, .fstat, .red .add], let r := { req kind (2 ^ 47 + 8) 8 3 with parked := true }
    getRequest (sPark (.parkedRequestDiscard 4) kind 0) 4 = some r ∧ r.parked = true ∧
    (getThread (sPark (.parkedRequestDiscard 4) kind 0) 0 0).uid = r.uid ∧
    (getThread (sPark (.parkedRequestDiscard 4) kind 0) 0 0).status ≠ .free ∧
    (getThread (sPark (.parkedRequestDiscard 4) kind 0) 0 0).indetOps = none ∧
    portOf (getThread (sPark (.parkedRequestDiscard 4) kind 0) 0 0) r.d = none ∧
    isShared (getThread (sPark (.parkedRequestDiscard 4) kind 0) 0 0).hdr r.d.toNat = false := by decide +kernel
theorem wit_Tagged : ∀ n ∈ [0, 7, 8], let r := { req (.amo .add) (2 ^ 41) 8 3 with tag := 3, tries := n }
    let s := home (.retryTimeout 4) [r] []
    getRequest s 4 = some r ∧ r.tag ≠ 0 ∧ r.parked = false ∧ (getThread s 0 0).uid = r.uid ∧ (getThread s 0 0).status ≠ .free ∧
    (getThread s 0 0).indetOps = none ∧ portOf (getThread s 0 0) r.d = none ∧ isShared (getThread s 0 0).hdr r.d.toNat = false := by
  decide +kernel
/-- An access of an engine's command that its home has parked, once its page is there or while it is not. -/
theorem wit_Parked_engine : ∀ entry ∈ [(0x20000010001 : Nat), 0], let s := sPark (.parkedQueueReplay (homeOf (2 ^ 47 + 8))) (.engine 6) entry
    ∀ r ∈ s.flights, r.parked = true ∧ homeOf r.key = homeOf (2 ^ 47 + 8) ∧ r.kind = .engine 6 ∧ meetsFault s r = (entry == 0) := by
  decide +kernel
/-- The collective that makes the access is under way, or no more. -/
theorem wit_Parked_engineStands : ∀ ks ∈ [[{ collK with id := 6 }], []], let s := { sPark (.parkedQueueReplay (homeOf (2 ^ 47 + 8))) (.engine 6) 0x20000010001 with colls := ks }
    engineStands s 6 = !ks.isEmpty ∧ ∀ r ∈ s.flights, r.parked = true ∧ homeOf r.key = homeOf (2 ^ 47 + 8) ∧ r.kind = .engine 6 ∧ meetsFault s r = false := by
  decide +kernel
/-- The thread stands at an `lde` or `ste` of another device's memory; an engine's entry. -/
theorem wit_Parked_discard_far : ∀ kind ∈ [ReqKind.lde, .ste], let r := { req kind (kFab + 8) 8 3 with parked := true, e := 1 + 64 * 2 }
    let s := home (.parkedRequestDiscard 4) [r] []
    getRequest s 4 = some r ∧ r.parked = true ∧ farStanding r = true ∧ (getThread s 0 0).uid = r.uid ∧ (getThread s 0 0).status ≠ .free ∧
    (getThread s 0 0).indetOps = none ∧ portOf (getThread s 0 0) r.d = none ∧ isShared (getThread s 0 0).hdr r.d.toNat = false ∧
    (takeSources (getThread s 0 0) [BitVec.ofNat 6 (r.e.toNat % 64), BitVec.ofNat 6 (r.e.toNat / 64)]).isSome = true := by decide +kernel
theorem wit_Parked_discard_near : ∀ kind ∈ [ReqKind.load false, .fstat, .engine 6],
    farStanding { req kind (2 ^ 47 + 8) 8 3 with parked := true } = false := by decide +kernel
/-- A page of the caller itself faults at its home while the export table has no entry for it, and not once it has one. -/
theorem wit_Parked_fault : ∀ entry ∈ [(0x20000010001 : Nat), 0], let s := sPark (.parkedQueueReplay (homeOf (2 ^ 47 + 8))) (.load false) entry
    ∀ r ∈ s.flights, meetsFault s r = (entry == 0) := by decide +kernel
theorem wit_Tagged_expiry : ∀ tag ∈ [(3 : Nat), 4], let s := home (.tagEntryExpiry 0 tag) [{ req (.amo .add) (2 ^ 41) 8 3 with tag := 3 }] []
    s.event = .tagEntryExpiry 0 tag ∧ tagOpen s 0 tag = (tag == 3) := by decide +kernel

/-! ### Witnesses: ports, start-up and the host's commands -/

/-- The device after reset with changed fields. -/
def sDev (e : Event) (v : Device) : State := { State.reset with event := e, dev := v }
def dev0 : Device := State.reset.dev
/-- Port 17 standing as this. -/
def sLink (e : Event) (l : Link) : State := sDev e { dev0 with links := [(17, l)] }
/-- A port that is up on a rung. -/
def upOn (rung : Nat) : Link := { Link.init with up := true, rung := rung, next := 3, replays := 7 }

theorem wit_Ports : (let s := sLink (.flitReceive 17 3 true) (upOn 0); let l := mapGet Link.init s.dev.links 17
      l.up = true ∧ l.retrain = false ∧ l.next = 3 ∧ (17 : Nat) < 18) ∧
    (∀ ok, let s := sLink (.portRetrain 17 ok) { upOn 0 with retrain := true }
      (mapGet Link.init s.dev.links 17).retrain = true) ∧
    (∀ q ∈ [(600000 : Nat), 599999], let l := mapGet Link.init (sLink (.rateUpTimeout 17) { upOn 1 with quietMs := q }).dev.links 17
     l.up = true ∧ 0 < l.rung ∧ l.quietMs = q ∧ l.retrain = false) ∧
    (let s := sDev (.mgmtLinkRateUp true 17) { dev0 with links := [(17, upOn 4)], mgmtKey := true }; let l := mapGet Link.init s.dev.links 17
     s.dev.mgmtKey = true ∧ l.up = true ∧ 0 < l.rung) := by decide +kernel
theorem wit_Ports_margins : ∀ p ∈ [(3, 2), (4, 2), (4, 1)], let ms := [12, 12, 12, 12, 12, 12, 12, 11]
    let l := mapGet Link.init (sLink (.eyeMarginWindow 17 ms) { upOn p.1 with lowRuns := [0, 0, 0, 0, 0, 0, 0, p.2] }).dev.links 17
    l.up = true ∧ ms.length = 8 ∧ l.rung = p.1 ∧ (p.2 = 2 → ∃ i, i < 8 ∧ ms.getD i 100 < 12 ∧ 2 ≤ l.lowRuns.getD i 0) ∧
    (p.2 = 1 → ∀ i, i < 8 → ms.getD i 100 < 12 → l.lowRuns.getD i 0 < 2) := by
  intro p hp
  simp only [List.mem_cons, List.not_mem_nil, or_false] at hp
  rcases hp with rfl | rfl | rfl
  · exact ⟨rfl, rfl, rfl, fun _ => ⟨7, by decide⟩, by decide⟩
  · exact ⟨rfl, rfl, rfl, fun _ => ⟨7, by decide⟩, by decide⟩
  · exact ⟨rfl, rfl, rfl, by decide, by decide⟩

/-- A message from the master of a group, and one where there is none; a count behind, ahead and in agreement. -/
theorem wit_Time : hasMaster (sDev (.timebaseSync 109) { dev0 with timebase := 100, devNum := 2, groups := [(0, [1, 2])] }) = true ∧
    hasMaster (sDev (.timebaseSync 109) dev0) = false ∧
    (0 ≤ ({ dev0 with slewed := 5 } : Device).slewed ∧ min (5 : Int).natAbs (min ((0 + 20000) / 10000) 20000) = 2) ∧
    (({ dev0 with slewed := -5 } : Device).slewed < 0 ∧ min (-5 : Int).natAbs (min ((9999 + 1) / 10000) 1) = 1) ∧ 0 ≤ dev0.slewed ∧
    dev0.limit < 1701 ∧ 25 < dev0.mhz ∧ 1700 ≤ dev0.limit ∧ ({ dev0 with mhz := 1725 } : Device).mhz + 25 ≤ 1750 ∧
    ({ dev0 with mgmtKey := true } : Device).mgmtKey = true := by decide +kernel

/-- A file of 260 bytes as stage 1 and the kernel slots take it: its header has security version 7, its signature is right. -/
def img : List Byte := leBytes 260 0x130000000000000000000000000000000000000000000000000000000000000000000000000000000000000000000000000000000000000000000000000000000000000000000000000000000000000000000000000000000000000000000000000000000000000000000000000000000074372b8fd8242cf070833dcbf21a1b018ae8c0eab3fa2ac6330134c1a4797dc4c988ccc04aa8137c636994cde313597960e8cbbf29ebb951203b6f9046eeb30d07cb45769f1070e2c2470fe5b1bfe63133c0b0cdc64ea4bf3791a8ec2a07fd4f9fad84aeae08bbef7f010014d82cef6a09de2b0cf871b5ce0c4f1d13a59a593400000000000000040000000700003142
/-- The hash of its public key. -/
def imgKey : Nat := 0x1d5b9a877a80e254f2c5609267a1a97ac5f3712a8fff12d6c925c1929e911491
theorem img_signed : (decide (img.length = 260) && decide ((fileBytes img 256 (fileField img 8 8)).length = fileField img 8 8) &&
    decide (fileField img 4 4 = 7) && decide (sha256 (fileBytes img 16 64) = imgKey)) = true := by decide +kernel
/-- The file's key, signature and digest, as numbers. -/
def imgQx : Nat := 0x9fad84aeae08bbef7f010014d82cef6a09de2b0cf871b5ce0c4f1d13a59a5934
def imgQy : Nat := 0x7cb45769f1070e2c2470fe5b1bfe63133c0b0cdc64ea4bf3791a8ec2a07fd4f
def imgR : Nat := 0xc988ccc04aa8137c636994cde313597960e8cbbf29ebb951203b6f9046eeb30d
def imgS : Nat := 0x74372b8fd8242cf070833dcbf21a1b018ae8c0eab3fa2ac6330134c1a4797dc4
def imgDigest : Nat := 0x3251f0c319e59f4a0969ed598d2604d1bbe0703cc97e43d6fff332a285e1617b
theorem img_fields : (decide (fileField img 16 32 = imgQx) && decide (fileField img 48 32 = imgQy) && decide (fileField img 80 32 = imgR) &&
    decide (fileField img 112 32 = imgS) && decide (sha256 (fileBytes img 0 80 ++ fileBytes img 256 (fileField img 8 8)) = imgDigest)) = true := by
  decide +kernel
theorem img_verified : ecdsaVerify imgQx imgQy imgR imgS imgDigest = true := by decide +kernel
/-- It is accepted where the vendor's key is its key and no rollback has raised the counter beyond it. -/
theorem img_good (hk : Config.vendorKeyHash = imgKey) (hr : Config.rollbackCounter ≤ 7) : imageReason img = 0 := by
  have h := img_signed
  simp only [Bool.and_eq_true, decide_eq_true_eq] at h
  obtain ⟨⟨⟨h1, h2⟩, h3⟩, h4⟩ := h
  have g := img_fields
  simp only [Bool.and_eq_true, decide_eq_true_eq] at g
  obtain ⟨⟨⟨⟨g1, g2⟩, g3⟩, g4⟩, g5⟩ := g
  have h5 : ¬(img.length < 256 ∨ (fileBytes img 256 (fileField img 8 8)).length ≠ fileField img 8 8) := by omega
  simp only [imageReason]
  rw [if_neg h5, if_neg (by rw [h4, hk]; simp), if_neg (by rw [g1, g2, g3, g4, g5, img_verified]; simp), if_neg (by omega)]
/-- A file of zeros is refused, whatever the vendor's key is. -/
def zeros : List Byte := List.replicate 256 0
theorem zeros_fields : (decide (zeros.length = 256) && decide ((fileBytes zeros 256 (fileField zeros 8 8)).length = fileField zeros 8 8) &&
    decide (fileField zeros 16 32 = 0) && decide (fileField zeros 48 32 = 0) && decide (fileField zeros 80 32 = 0) &&
    decide (fileField zeros 112 32 = 0) && decide (sha256 (fileBytes zeros 0 80 ++ fileBytes zeros 256 (fileField zeros 8 8)) =
      0x5b6fb58e61fa475939767d68a446f97f1bff02c0e5935a3ea8bb51e6515783d8)) = true := by
  decide +kernel
theorem zeros_unsigned : ecdsaVerify 0 0 0 0
    0x5b6fb58e61fa475939767d68a446f97f1bff02c0e5935a3ea8bb51e6515783d8 = false := by decide +kernel
theorem zeros_refused : imageReason zeros = 2 := by
  have h := zeros_fields
  simp only [Bool.and_eq_true, decide_eq_true_eq] at h
  obtain ⟨⟨⟨⟨⟨⟨h1, h2⟩, h3⟩, h4⟩, h5⟩, h6⟩, h7⟩ := h
  have h8 : ¬(zeros.length < 256 ∨ (fileBytes zeros 256 (fileField zeros 8 8)).length ≠ fileField zeros 8 8) := by omega
  simp only [imageReason]
  rw [if_neg h8, h3, h4, h5, h6, h7]
  split
  · rfl
  · rw [if_pos zeros_unsigned]

/-- The bytes of the file stand at this key. -/
def imgAt (k : Nat) : List Host.Cell := memSetBytes [] k img
theorem imgAt_read (k : Nat) : memBytes (imgAt k) k 260 = img := by
  have h := memBytes_setBytes [] k img
  rwa [show img.length = 260 from leBytes_length _ _] at h
theorem imgAt_length : 260 = 256 + memRead (imgAt 0) 8 8 := by decide +kernel

theorem wit_StartUp : ({ dev0 with starts := 2 } : Device).starts < 3 ∧ 3 ≤ ({ dev0 with starts := 3 } : Device).starts ∧
    ({ dev0 with reason := 4 } : Device).reason ≠ 7 ∧ awaitsImage { dev0 with trained := true } = true ∧ awaitsImage dev0 = false ∧
    (256 : BitVec 32).toNat = 256 + memRead [] 8 8 ∧ memBytes [] 0 256 = zeros ∧
    ({ dev0 with stage := 2 } : Device).posted = false := by decide +kernel
theorem wit_StartUp_image (hk : Config.vendorKeyHash = imgKey) (hr : Config.rollbackCounter ≤ 7) :
    awaitsImage { dev0 with trained := true } = true ∧ (260 : BitVec 32).toNat = 256 + memRead (imgAt 0) 8 8 ∧
      imageReason (memBytes (imgAt 0) 0 260) = 0 := by
  rw [imgAt_read]
  exact ⟨by decide, imgAt_length, img_good hk hr⟩

/-- The kernel runs, its event ring has 16 places at the start of host memory, and page 3 of BAR 2 is mapped. -/
def served0 : Device := { dev0 with stage := 2, trained := true, evSize := 16, bar2 := [(3, 0x50000)] }
/-- Pages 64 and 65 of module memory: the first is to be retired, at the start of its range and at its end. -/
theorem wit_HostAccess_retired : let s := sDev .none { served0 with retiring := [64] }
    s.dev.retiring.contains 64 = true ∧ (64 : Nat) ≠ 65 ∧ s.dev.retiring.contains 65 = false ∧ s.dev.moved = [] ∧ OneWindow 65 ∧
    (64 * 2 ^ 16 ≤ 0x40FFFF ∧ 0x40FFFF < 64 * 2 ^ 16 + 2 ^ 16) := by unfold OneWindow; decide +kernel
theorem wit_HostAccess_bar0 : (bar0Registers (sDev .none served0)).length = 7 := by decide +kernel
theorem wit_HostAccess : (mapFind served0.bar2 ((3 * 2 ^ 16 + 0xFFF8) / 2 ^ 16) = some 0x50000 ∧
      (3 * 2 ^ 16 + 0xFFF8) % 2 ^ 16 + 8 ≤ 2 ^ 16 ∧ physWin (0x50000 + (3 * 2 ^ 16 + 0xFFF8) % 2 ^ 16 + 7) = some .gddr) ∧
    (({ dev0 with trained := true } : Device).stage = 0 ∧ 2 ^ 36 - 1 < 2 ^ 36 ∧ State.reset.marks = []) ∧
    (bar2Place (sDev .none served0) (4 * 2 ^ 16) 1 = none ∧ bar2Place (sDev .none served0) (3 * 2 ^ 16 + 8) 8 = some 0x50008) ∧
    (served0.evTail < served0.evHead + served0.evSize ∧ served0.held = [] ∧ served0.handover = none ∧
      ({ served0 with evTail := 16 } : Device).evHead + 16 ≤ 16 ∧
      (List.replicate 4096 (⟨0x80, 0, 0, 0, []⟩ : HostEvent)).length = 4096) ∧
    (let v := { served0 with evTail := 16, held := [⟨0x80, 0, 0, 0, []⟩] }
     v.evHead ≤ 1 ∧ 1 ≤ v.evTail ∧ v.held = [⟨0x80, 0, 0, 0, []⟩] ∧ v.dropped = 0 ∧ v.evTail < 1 + v.evSize) := by decide +kernel

/-- A command as its entry of the ring holds it, at byte 65,536 of host memory. -/
def ringHas (op ctx : Nat) (args : List Nat) (m : List Host.Cell) : List Host.Cell :=
  memSetBytes m (hostBase + 0x10000) (leBytes 2 op ++ leBytes 2 ctx ++ leBytes 4 9 ++ leBytes 8 0 ++ args.flatMap (leBytes 8))
/-- A device whose command ring has 16 places, with one command in it. -/
def ringed (v : Device) : Device := { v with cmdBase := 0x10000, cmdSize := 16, cmdTail := 1 }
/-- A context that a kernel serves; its tables, its launch port and a launch record lie as in the launches' witnesses. -/
def sServe (e : Event) (x : Context) (m : List Host.Cell) : State := { sDev e (ringed served0) with contexts := [(0, x)], mem := m }
/-- Minimal mode. -/
def sMinimal (e : Event) (m : List Host.Cell) : State := { sDev e (ringed { dev0 with stage := 3, reason := 7 }) with mem := m }

theorem taken_of {s : State} {op ctx : Nat} {tag : BitVec 32} {args : List Nat} (h : (ringFind s op ctx tag args).isSome = true) :
    ∃ u, Taken s op ctx tag args u := by
  obtain ⟨i, hi⟩ := Option.isSome_iff_exists.1 h
  exact ⟨_, i, hi, rfl⟩

/-- Every command with arguments as the statements have them: opcode, context and arguments. -/
def commands : List (Nat × Nat × List Nat) :=
  [(1, 0, [0, 196]), (2, 0xFFFF, [3, 4, 0]), (3, 0, []), (4, 0, [0]), (5, 0, [0x40000, 0x50000, 2, 0, 3]), (5, 0, [0x40000, 0x50000, 2, 3, 3]),
   (5, 0, [0x40000, 0x50000, 2, 0, 8]), (5, 0, [8, 0, 1, 0, 3]), (6, 0, [0x40000, 1, 0]), (7, 0xFFFF, nonceWords (List.replicate 32 1) ++ [0]),
   (8, 0xFFFF, [0, 0, 260]), (8, 0xFFFF, [1, 0, 260]), (9, 0xFFFF, [0]), (0, 0, []), (10, 0, [])]
theorem wit_Commands_taken : ∀ c ∈ commands,
    (ringFind (sServe .none ctx0 (ringHas c.1 c.2.1 c.2.2 [])) c.1 c.2.1 9 c.2.2).isSome = true ∧
    (ringFind (sMinimal .none (ringHas c.1 c.2.1 c.2.2 [])) c.1 c.2.1 9 c.2.2).isSome = true ∧
    Serving (sServe .none ctx0 (ringHas c.1 c.2.1 c.2.2 [])) ∧ MinimalMode (sMinimal .none (ringHas c.1 c.2.1 c.2.2 [])) := by
  unfold Serving MinimalMode; exact all_of (by decide +kernel)
theorem takenAny_of {s : State} {op : Nat} {tag : BitVec 32} {args : List Nat} (h : (ringFindAny s op tag args).isSome = true) :
    ∃ u, TakenAny s op tag args u := by
  obtain ⟨i, hi⟩ := Option.isSome_iff_exists.1 h
  exact ⟨_, i, hi, rfl⟩
/-- The commands that need no context, with none in their entry or with one. -/
theorem wit_Commands_any : ∀ c ∈ commands.filter (fun c => [2, 7, 8, 9].contains c.1), ∀ ctx ∈ [0xFFFF, 0],
    (ringFindAny (sServe .none ctx0 (ringHas c.1 ctx c.2.2 [])) c.1 9 c.2.2).isSome = true ∧
    (ringFindAny (sMinimal .none (ringHas c.1 ctx c.2.2 [])) c.1 9 c.2.2).isSome = true :=
  all_of (by decide +kernel)
/-- A command that the ring does not hold; and one whose context has an earlier one before it, at once in the next place. -/
theorem wit_Commands_waiting : ringFind (sServe (.unknownCommand 9 10 0) ctx0 []) 10 0 9 [] = none ∧
    (let m := memSetBytes (ringHas 3 0 [] []) (hostBase + 0x10040) (leBytes 2 10 ++ leBytes 2 0 ++ leBytes 4 9)
     let s := { sServe .none ctx0 m with dev := { (ringed served0) with cmdTail := 2 } }
     ringFind s 10 0 9 [] = none ∧ ringFind s 3 0 9 [] = some 0 ∧ ringFind (ringTake s 0) 10 0 9 [] = some 1) := by decide +kernel
/-- A file in image format with one overlay, of 196 bytes. -/
def nki : List Byte := leBytes 196 0x4030201000000000000000000000000000000006a806a9be8776c6e35c5b39fe701026f9b6c2947b4b6ab1f137fb9e147a7649f00000000000000c000000004000000090000000000000000000000000000000000000000000000000000000000000000116bbf7893a0fb03eeac43adfdcb043feffbc4db7870dc6e3f32c0788dbc93520000000000000000000000000000000000000000000000c00000000000000080000000000000000100000000000000c400000080000000000000000131494b4e
theorem nki_good : nkiBad nki = none ∧ (nkiBad (memBytes [] hostBase 0)).isSome = true := by decide +kernel
/-- The file with its overlay at the start of host memory, its command in the ring. -/
def sLoad9 (x : Context) : State := sServe (.loadImage 9 0 0 196 []) x (memSetBytes (ringHas 1 0 [0, 196] []) hostBase nki)
theorem wit_Commands_image : (ringFind (sLoad9 ctx0) 1 0 9 [0, 196]).isSome = true ∧ getCtx (sLoad9 ctx0) 0 = some ctx0 ∧
    Serving (sLoad9 ctx0) ∧ memBytes (sLoad9 ctx0).mem (hostBase + 0) 196 = nki ∧ noMemory nki [] = false ∧
    (loadNki (ringTake (sLoad9 ctx0) 0) 0 ctx0 nki []).isSome = true ∧
    layoutBad { ctx0 with scratch := [⟨1, 0, []⟩] } nki = true := by unfold Serving; decide +kernel
theorem mapFind_numbered {α : Type} (x : α) (l : List Nat) (n : Nat) (h : n ∈ l) : mapFind (l.map (fun i => (i, x))) n ≠ none := by
  induction l with
  | nil => cases h
  | cons a r ih =>
    rw [List.map_cons, mapFind]
    split
    · simp
    · rename_i hne
      exact ih ((List.mem_cons.1 h).resolve_left (fun e => hne e.symm))
theorem wit_Commands_full : let s := { sDev .none served0 with contexts := (List.range 512).map (fun n => (n, ctx0)) }
    ∀ n, n < 512 → getCtx s n ≠ none := by
  intro s n hn
  simp only [s, getCtx]
  exact mapFind_numbered ctx0 _ n (List.mem_range.2 hn)
theorem wit_Commands_new : let s := sServe .none ctx0 []
    getCtx s 1 = none ∧ getCtx s 0 ≠ none ∧
      (makeContext s 1 3 4 0 [0x110000, 0x20000000400, 0x10400, 0x210000, 0x310000, 0x410000]).isSome = true := by decide +kernel
theorem wit_Commands_end : (let s := { sServe (.endContext 9 0) ctx0 [] with launches := [launchOf .running []] }
      ∃ l ∈ s.launches, l.ctx = 0 ∧ (l.state = .running ∨ l.state = .preempted)) ∧
    (let s := { sServe (.endContext 9 0) ctx0 [] with launches := [launchOf .ended [], launchOf .queued []] }
      ∀ l ∈ s.launches, l.ctx = 0 → (l.state = .queued ∨ l.state = .ended) ∧ l.closing = none) ∧
    (let s := { sServe (.endContext 9 0) ctx0 [] with launches := [{ launchOf .ended [] with closing := some 2 }] }
      ∃ l ∈ s.launches, l.ctx = 0 ∧ l.closing ≠ none) :=
  ⟨⟨_, List.mem_cons_self, by decide⟩, by decide, ⟨_, List.mem_cons_self, by decide⟩⟩
/-- A record that passes, one of no live context, and one that is not 64-byte aligned. -/
theorem wit_Commands_submit : ∀ p ∈ [(0, 0, (0 : Nat)), (1, 0, 3), (0, 8, 1)],
    let x := { ctx0 with portKey := 2 ^ 41 + 0x400, coreTbl := 0x20000000800 }
    let s := sServe (.submitLaunch 9 0 p.2.1) x
      (memWrite (ringHas 4 0 [p.2.1] urnMem) (hostBase + p.2.1) 24 (p.1 + 2 ^ 33 + 0x10040 * 2 ^ 64 + 0x10000 * 2 ^ 128))
    let d := leValue (memBytes s.mem (hostBase + p.2.1) 256)
    p.2.1 + 256 ≤ 2 ^ 46 ∧ (ringFind s 4 0 9 [p.2.1]).isSome = true ∧
    recordStatus (ringTake s 0) p.2.1 (some d) 0 0 (fun n => (getCtx s n).isSome) = p.2.2 := by decide +kernel
theorem wit_Commands_pages : let m := ringHas 5 0 [0x40000, 0x50000, 2, 0, 3] []
    let s := sServe (.mapPages 9 0 0x40000 0x50000 2 0 3 [0x210000, 0x310000, 0x410000]) ctx0 m
    pageSizeOf 3 = none ∧ pageSizeOf 0 = some .p64K ∧ rangeOk 8 0 1 .p64K = false ∧
    mapOk (ringTake s 0) ctx0.troot.toNat 0x40000 0x50000 2 .p64K = true ∧
    (mapRange ctx0.troot.toNat .p64K true true false 2 0x40000 0x50000 (ringTake s 0) [0x210000, 0x310000, 0x410000]).isSome = true ∧
    getCtx s 0 = some ctx0 ∧ (3 : Nat).testBit 0 = true ∧ (3 : Nat).testBit 1 = true ∧ (3 : Nat).testBit 2 = false := by decide +kernel

/-- A handover table of a kernel with a first generation, as words of the urn's start. -/
def tableHead : List Byte := leBytes 4 0x31544856 ++ leBytes 2 1 ++ List.replicate 58 0
def sOver (e : Event) (v : Device) : State :=
  { sDev e { (ringed v) with handover := some (0, 9) } with mem := memSetBytes (ringHas 9 0xFFFF [0] []) urnBase (tableHead ++ beBytes 32 (sha256 tableHead)) }
theorem wit_Kernel : (Serving (sDev .none served0) ∧ MinimalMode (sDev .none { dev0 with stage := 3 }) ∧
      (reportBytes served0 (List.replicate 32 1)).length = 256 ∧ (List.replicate 32 (1 : Byte)).length = 32) ∧
    memBytes [] hostBase 256 = zeros ∧ tableOk (sOver .handoverTimeout served0) = true ∧
    (sOver .handoverTimeout served0).dev.handover = some (0, 9) := by unfold Serving MinimalMode; decide +kernel
theorem wit_Kernel_slot (hk : Config.vendorKeyHash = imgKey) (hr : Config.rollbackCounter ≤ 7) :
    imageReason (memBytes (memSetBytes (ringHas 8 0xFFFF [0, 0, 260] []) hostBase img) (hostBase + 0) 260) = 0 := by
  have h := memBytes_setBytes (ringHas 8 0xFFFF [0, 0, 260] []) hostBase img
  rw [show img.length = 260 from leBytes_length _ _] at h
  rw [Nat.add_zero, h]
  exact img_good hk hr
theorem wit_Kernel_ring : ∀ slot ∈ [(0 : Nat), 1], (ringFind (sServe .none ctx0 (memSetBytes (ringHas 8 0xFFFF [slot, 0, 260] []) hostBase img))
    8 0xFFFF 9 [slot, 0, 260]).isSome = true := by decide +kernel
theorem wit_Kernel_adopts (hk : Config.vendorKeyHash = imgKey) (hr : Config.rollbackCounter ≤ 7) :
    let s := sOver (.restartKernel 9 0) { served0 with slotA := img }
    s.dev.handover = some (0, 9) ∧ imageReason s.dev.slotA = 0 := ⟨rfl, img_good hk hr⟩
theorem wit_Kernel_table : tableOk (sOver (.restartKernel 9 0) { served0 with slotA := img }) = true := by decide +kernel

/-! ### Witnesses: the machine as a whole -/

/-- Something holds of the state in which the chosen thread's instruction is fetched, at the head of this agenda. -/
def issueCheck (s : State) (p : Nat → State → Bool) : Bool :=
  match s.agenda with
  | .issue c e :: rest =>
    let s0 := { s with agenda := rest }
    !(getCore s c).killed && !(getCore s c).halted &&
      (match pickSlot (if e then (getCore s c).lastEngine else (getCore s c).lastScalar) (readyList s0 c e) with
       | some t => p t { noteIssue (settle s0 c e) c e (readyList s0 c e) t with core := c, slot := t }
       | none => false)
  | _ => false

theorem issueFalls_of {s : State} {p : Nat → State → Bool} (h : issueCheck s p = true) :
    ∃ c e rest t s2, IssueFalls s c e rest t s2 ∧ p t s2 = true := by
  unfold issueCheck at h
  split at h
  · rename_i c e rest he
    simp only [Bool.and_eq_true, Bool.not_eq_true'] at h
    obtain ⟨⟨h1, h2⟩, h3⟩ := h
    split at h3
    · rename_i t ht
      exact ⟨c, e, rest, t, _, ⟨he, h1, h2, _, _, rfl, rfl, ht, rfl⟩, h3⟩
    · cases h3
  · cases h

/-- A thread at 0x100 on a core with this instruction memory, and a turn of that core in a class. -/
def sTurn (engine : Bool) (im : ImemSlot) : State :=
  { sInt with agenda := [.issue 0 engine, .tick 3], cores := [(0, { core0 with im0 := im })] }
/-- Neither a trap is due nor held, and the thread stands at no home. -/
def freeTo (s : State) : Bool := (pendingDue s (cur s)).isNone && !trapHeld s (cur s) && !standing s (cur s)

theorem wit_Step_word : ∃ c e rest t s2, IssueFalls (sTurn false (imOf (.add 8 1 2))) c e rest t s2 ∧
    (freeTo s2 && decide (fetchAt (getCore s2 0) (cur s2).pc = .word (encode (.add 8 1 2))) &&
      (decodeWord (encode (.add 8 1 2))).toOption.isSome) = true :=
  issueFalls_of (p := fun _ s2 => freeTo s2 && decide (fetchAt (getCore s2 0) (cur s2).pc = .word (encode (.add 8 1 2))) &&
    (decodeWord (encode (.add 8 1 2))).toOption.isSome) (by decide +kernel)
theorem wit_Step_engine : ∃ c e rest t s2, IssueFalls (sTurn true (imOf (.rnd 8))) c e rest t s2 ∧
    (freeTo s2 && decide (fetchAt (getCore s2 0) (cur s2).pc = .word (encode (.rnd 8)))) = true :=
  issueFalls_of (p := fun _ s2 => freeTo s2 && decide (fetchAt (getCore s2 0) (cur s2).pc = .word (encode (.rnd 8)))) (by decide +kernel)
theorem wit_Step_illegal : ∃ c e rest t s2, IssueFalls (sTurn false { imOf .exit with bytes := [] }) c e rest t s2 ∧
    (freeTo s2 && decide (fetchAt (getCore s2 0) (cur s2).pc = .word 0) && !(decodeWord 0).toOption.isSome) = true :=
  issueFalls_of (p := fun _ s2 => freeTo s2 && decide (fetchAt (getCore s2 0) (cur s2).pc = .word 0) && !(decodeWord 0).toOption.isSome)
    (by decide +kernel)
theorem wit_Step_miss : ∃ c e rest t s2, IssueFalls (sTurn false ImemSlot.init) c e rest t s2 ∧
    (freeTo s2 && decide (fetchAt (getCore s2 0) (cur s2).pc = .miss)) = true :=
  issueFalls_of (p := fun _ s2 => freeTo s2 && decide (fetchAt (getCore s2 0) (cur s2).pc = .miss)) (by decide +kernel)
theorem wit_Step_invalid : ∃ c e rest t s2, IssueFalls (sTurn false { imOf .exit with state := .invalid }) c e rest t s2 ∧
    (freeTo s2 && decide (fetchAt (getCore s2 0) (cur s2).pc = .invalid)) = true :=
  issueFalls_of (p := fun _ s2 => freeTo s2 && decide (fetchAt (getCore s2 0) (cur s2).pc = .invalid)) (by decide +kernel)
theorem wit_Step_loading : let s := sTurn false { imOf .exit with state := .loading }
    inClass s 0 false 0 = true ∧ freeTo { s with core := 0, slot := 0 } = true ∧
    fetchAt (getCore s 0) (cur s).pc = .wait ∧ readyList s 0 false = [] ∧ (getCore s 0).killed = false ∧ (getCore s 0).halted = false := by
  decide +kernel
/-- A thread with a trap that is due, of its next instruction or of a fence. -/
def sDue (fen : Option CodeAddr) : State :=
  { sTurn false (imOf .exit) with threads := [(0, { thr [] with pending := some ⟨0x15, 7, 0x100, fen⟩ })] }
theorem wit_Step_due : ∃ c e rest t s2, IssueFalls (sDue none) c e rest t s2 ∧ (pendingDue s2 (cur s2)).isSome = true :=
  issueFalls_of (p := fun _ s2 => (pendingDue s2 (cur s2)).isSome) (by decide +kernel)
theorem wit_Step_due_fence : ∃ c e rest t s2, IssueFalls (sDue (some 0x80)) c e rest t s2 ∧ (pendingDue s2 (cur s2)).isSome = true :=
  issueFalls_of (p := fun _ s2 => (pendingDue s2 (cur s2)).isSome) (by decide +kernel)
/-- Two threads that have each yielded to the other: neither may use the opportunity. -/
theorem wit_Step_unused : let y := fun (uid other : Nat) => { thr [] with uid := uid, yielded := true, yieldFor := [other] }
    let s := { sTurn false (imOf .exit) with threads := [(0, y 5 6), (1, y 6 5)] }
    (readyList s 0 false).length = 2 ∧ pickSlot (getCore s 0).lastScalar (readyList s 0 false) = none ∧
    (getCore s 0).killed = false ∧ (getCore s 0).halted = false := by decide +kernel
theorem wit_Step_others : ({ sInt with agenda := [.event .retryTimeout (.retryTimeout 4)] } : State).agenda =
      .event .retryTimeout (.retryTimeout 4) :: [] ∧ sInt.agenda = [] ∧ (imOf .exit).state = .valid ∧
    (imOf .exit).overlay = (0x100 : CodeAddr).toNat / 2 ^ 16 := by decide

theorem wit_DecodeAndEncode : Instr.wf (.vldg 1 2 3 0) = true ∧ decodeTableWord 32 0x00618701 = some (.add 6 6 7) := by decide +kernel
theorem wit_Storage : State.storageWf State.reset = true ∧ isNext (step State.reset) = true := by decide +kernel

/-! ### Ill-formed terms, one for each check -/

theorem test_events_are_no_words : Instr.wf .resultArrival = false ∧ Instr.wf .gangStartTick = false := by decide
theorem test_amo_without_destination : Instr.wf (.amo 0 1 2 .add 0) = false := by decide
theorem test_estimates_take_three_codes : Instr.wf (.frcp 1 2 .rtz .f32) = false ∧ Instr.wf (.frsq 1 2 .rsr .f32) = false ∧
    Instr.wf (.vexp2 1 2 0 0 .rup) = false ∧ Instr.wf (.vlog2 1 2 0 0 .rdn) = false ∧ Instr.wf (.vrcp 1 2 0 0 .rmm) = false ∧
    Instr.wf (.vrsq 1 2 0 0 .rtz) = false := by decide
theorem test_family_registers_end_at_62 : Instr.wf (.fput 63 1 2) = false ∧ Instr.wf (.fputS 63 1 2) = false ∧
    Instr.wf (.fget 1 2 63) = false ∧ Instr.wf (.fgetS 1 2 63) = false := by decide
theorem test_selectors_end_at_14 : Instr.wf (.qry 1 15) = false := by decide
theorem test_engine_registers_end_at_31 : Instr.wf (.ewr 32 1) = false ∧ Instr.wf (.erd 1 32) = false := by decide
theorem test_tiles_end_at_15 : Instr.wf (.macc 16 1 2 .f32) = false := by decide

/-- A word that no instruction has is refused. -/
def refusedWord (w : Nat) : Bool := decide (decodeTableWord 32 w = none)
/-- Reserved majors, the first code past each group's last, a field that must be zero, a reserved scope (R51, R55, R56, R60). -/
theorem test_reserved_words : ([0x0d, 0x0e, 0x0f, 0x1e, 0x1f, 0x3c, 0x3d, 0x3e, 0x3f].map (· * 2 ^ 26)).all refusedWord = true := by
  decide +kernel
theorem test_unallocated_codes : [0x21, 0x09 * 2 ^ 26 + 8, 0x0a * 2 ^ 26 + 11, 0x0b * 2 ^ 26 + 0x0d * 2 ^ 8 + 7, 0x17 * 2 ^ 26 + 15,
    0x17 * 2 ^ 26 + 38, 0x1c * 2 ^ 26 + 0xf6, 0x1d * 2 ^ 26 + 4, 0x28 * 2 ^ 26 + 12, 0x29 * 2 ^ 26 + 4, 0x2a * 2 ^ 26 + 13,
    0x2b * 2 ^ 26 + 6, 0x2c * 2 ^ 26 + 5, 0x2d * 2 ^ 26 + 2, 0x2e * 2 ^ 26 + 0xa0, 0x2f * 2 ^ 26 + 15, 0x30 * 2 ^ 26 + 13,
    0x31 * 2 ^ 26 + 88, 0x32 * 2 ^ 26 + 13, 0x33 * 2 ^ 26 + 12, 0x34 * 2 ^ 26 + 5, 0x35 * 2 ^ 26 + 88, 0x36 * 2 ^ 26 + 5,
    0x36 * 2 ^ 26 + 0x13 * 2 ^ 7 + 1, 0x37 * 2 ^ 26 + 72].all refusedWord = true := by decide +kernel
theorem test_zero_fields : [0x1a + 2 ^ 8, 0x05 * 2 ^ 26 + 2 ^ 6, 0x1d * 2 ^ 26 + 2 ^ 8 + 1, 0x1d * 2 ^ 26 + 2 ^ 20 + 3, 0x28 * 2 ^ 26 + 2 ^ 14 + 9,
    0x33 * 2 ^ 26 + 2 ^ 8 + 5, 0x2f * 2 ^ 26 + 2 ^ 20 + 2, 0x1d * 2 ^ 26 + 6 * 2 ^ 11 + 1].all refusedWord = true := by decide +kernel

/-! ### One step each -/

/-- Window register n after the instruction, from these registers; the spec's rule gives the expected value. -/
def after (i : Instr) (regs : List (Nat × Word)) (n : RegNo) : Word := (getReg (cur (nextOf State.reset (exec i (sr regs)))) n).val
/-- R131: saturation, and the least signed value stays itself. -/
theorem test_qadd : after (.qadd 8 1 2) [(1, 0x7FFFFFFFFFFFFFFF), (2, 1)] 8 = 0x7FFFFFFFFFFFFFFF := by decide +kernel
theorem test_qsubz : after (.qsubz 8 1 2) [(1, 1), (2, 2)] 8 = 0 := by decide +kernel
theorem test_abs : after (.abs 8 1) [(1, 0x8000000000000000)] 8 = 0x8000000000000000 := by decide +kernel
theorem test_sar : after (.sar 8 1 2) [(1, 0x8000000000000000), (2, 64 + 63)] 8 = 0xFFFFFFFFFFFFFFFF := by decide +kernel
theorem test_slt : after (.slt 8 1 2) [(1, 0xFFFFFFFFFFFFFFFF), (2, 0)] 8 = 1 := by decide +kernel
theorem test_sltz : after (.sltz 8 1 2) [(1, 0xFFFFFFFFFFFFFFFF), (2, 0)] 8 = 0 := by decide +kernel
theorem test_sub_same : after (.sub 1 1 1) [(1, 7)] 1 = 0 := by decide +kernel
theorem test_zero_register : after (.add 0 1 1) [(1, 7)] 0 = 0 := by decide +kernel
theorem test_rori : after (.rori 8 1 1) [(1, 3)] 8 = 0x8000000000000001 := by decide +kernel
theorem test_xori : after (.xori 8 1 0x3FFF) [(1, 0)] 8 = 0x3FFF := by decide +kernel
theorem test_addi : after (.addi 8 1 0x3FFF) [(1, 0)] 8 = 0xFFFFFFFFFFFFFFFF := by decide +kernel
/-- R88, R133: code addresses wrap within their overlay. -/
theorem test_jal : ((cur (nextOf State.reset (exec (.jal 8 0xFFFED) (sr [])))).pc, after (.jal 8 0xFFFED) [] 8) = (0xB4, 0x104) := by decide +kernel
theorem test_bltz : (cur (nextOf State.reset (exec (.bltz 1 2 4) (sr [(1, 1), (2, 0xFFFFFFFFFFFFFFFF)])))).pc = 0x110 := by decide +kernel

/-! ### Words of the spec's encoding tables, one for every instruction -/

/-- The words of R48's formats, field by field. -/
def wR (maj d a b fn : Nat) : Nat := maj * 2 ^ 26 + d * 2 ^ 20 + a * 2 ^ 14 + b * 2 ^ 8 + fn
def wI (maj d a imm : Nat) : Nat := maj * 2 ^ 26 + d * 2 ^ 20 + a * 2 ^ 14 + imm
def wL (maj d imm : Nat) : Nat := maj * 2 ^ 26 + d * 2 ^ 20 + imm
def wF (maj d a b c op : Nat) : Nat := maj * 2 ^ 26 + d * 2 ^ 20 + a * 2 ^ 14 + b * 2 ^ 8 + c * 2 ^ 2 + op
def wT (maj td ta tb sh mask fn : Nat) : Nat := maj * 2 ^ 26 + td * 2 ^ 22 + ta * 2 ^ 18 + tb * 2 ^ 14 + sh * 2 ^ 12 + mask * 2 ^ 8 + fn
def wX (maj td ta sb sh fn : Nat) : Nat := maj * 2 ^ 26 + td * 2 ^ 22 + ta * 2 ^ 18 + sb * 2 ^ 12 + sh * 2 ^ 10 + fn
def wS (d a sh fmt sel : Nat) : Nat := 0x36 * 2 ^ 26 + d * 2 ^ 20 + a * 2 ^ 14 + sh * 2 ^ 12 + fmt * 2 ^ 7 + sel

/-- The word decodes to the instruction, and is the one the encoder gives it. -/
def reads (p : Nat × Instr) : Bool :=
  decide (decodeTableWord 32 p.1 = some p.2) && decide (encode p.2 = BitVec.ofNat 32 p.1) && p.2.wf

/-- R63. -/
def registerAluWords1 : List (Nat × Instr) :=
  [(wR 0x0 33 34 35 0x1, .add 33 34 35), (wR 0x0 33 34 35 0x2, .sub 33 34 35), (wR 0x0 33 34 35 0x3, .and 33 34 35),
    (wR 0x0 33 34 35 0x4, .or 33 34 35), (wR 0x0 33 34 35 0x5, .xor 33 34 35), (wR 0x0 33 34 35 0x6, .andn 33 34 35),
    (wR 0x0 33 34 35 0x7, .orn 33 34 35), (wR 0x0 33 34 35 0x8, .xnor 33 34 35), (wR 0x0 33 34 35 0x9, .shl 33 34 35),
    (wR 0x0 33 34 35 0xa, .shr 33 34 35), (wR 0x0 33 34 35 0xb, .sar 33 34 35), (wR 0x0 33 34 35 0xc, .rol 33 34 35),
    (wR 0x0 33 34 35 0xd, .ror 33 34 35), (wR 0x0 33 34 35 0xe, .slt 33 34 35), (wR 0x0 33 34 35 0xf, .sltz 33 34 35),
    (wR 0x0 33 34 35 0x10, .seq 33 34 35)]
/-- R63. -/
def registerAluWords2 : List (Nat × Instr) :=
  [(wR 0x0 33 34 35 0x11, .sne 33 34 35), (wR 0x0 33 34 35 0x12, .min 33 34 35), (wR 0x0 33 34 35 0x13, .max 33 34 35),
    (wR 0x0 33 34 35 0x14, .minz 33 34 35), (wR 0x0 33 34 35 0x15, .maxz 33 34 35), (wR 0x0 33 34 35 0x16, .qadd 33 34 35),
    (wR 0x0 33 34 35 0x17, .qaddz 33 34 35), (wR 0x0 33 34 35 0x18, .qsub 33 34 35), (wR 0x0 33 34 35 0x19, .qsubz 33 34 35),
    (wR 0x0 33 34 0 0x1a, .abs 33 34), (wR 0x0 33 34 0 0x1b, .sextI8 33 34), (wR 0x0 33 34 0 0x1c, .sextI16 33 34),
    (wR 0x0 33 34 0 0x1d, .sextI32 33 34), (wR 0x0 33 34 0 0x1e, .zextZ8 33 34), (wR 0x0 33 34 0 0x1f, .zextZ16 33 34),
    (wR 0x0 33 34 0 0x20, .zextZ32 33 34)]
theorem test_registerAluWords1 : registerAluWords1.all reads = true := by decide +kernel
theorem test_registerAluWords2 : registerAluWords2.all reads = true := by decide +kernel

/-- R64. -/
def immediatesWords : List (Nat × Instr) :=
  [(wI 0x1 33 34 0x2001, .addi 33 34 0x2001), (wI 0x2 33 34 0x3001, .andi 33 34 0x3001), (wI 0x3 33 34 0x3001, .ori 33 34 0x3001),
    (wI 0x4 33 34 0x3001, .xori 33 34 0x3001), (wI 0x5 33 34 0x23, .shli 33 34 35), (wI 0x5 33 34 0x1023, .shri 33 34 35),
    (wI 0x5 33 34 0x2023, .sari 33 34 35), (wI 0x5 33 34 0x3023, .rori 33 34 35), (wI 0x6 33 34 0x2001, .slti 33 34 0x2001),
    (wL 0x7 33 0x80001, .lih 33 0x80001), (wL 0x8 33 0x80001, .pcadd 33 0x80001)]
theorem test_immediatesWords : immediatesWords.all reads = true := by decide +kernel

/-- R65, R66. -/
def multiplyAndBitsWords1 : List (Nat × Instr) :=
  [(wR 0x9 33 34 35 0x1, .mul 33 34 35), (wR 0x9 33 34 35 0x2, .mulh 33 34 35), (wR 0x9 33 34 35 0x3, .mulhz 33 34 35),
    (wR 0x9 33 34 35 0x4, .div 33 34 35), (wR 0x9 33 34 35 0x5, .divz 33 34 35), (wR 0x9 33 34 35 0x6, .rem 33 34 35),
    (wR 0x9 33 34 35 0x7, .remz 33 34 35), (wR 0xa 33 34 35 0x1, .clmul 33 34 35), (wR 0xa 33 34 35 0x2, .clmulh 33 34 35),
    (wR 0xa 33 34 35 0x6, .bext 33 34 35), (wR 0xa 33 34 35 0x7, .bins 33 34 35), (wR 0xa 33 34 35 0x8, .sel 33 34 35),
    (wR 0xa 33 34 0 0x3, .pop 33 34), (wR 0xa 33 34 0 0x4, .clz 33 34), (wR 0xa 33 34 0 0x5, .ctz 33 34),
    (wR 0xa 33 34 0 0x9, .brev 33 34)]
/-- R65, R66. -/
def multiplyAndBitsWords2 : List (Nat × Instr) :=
  [(wR 0xa 33 34 0 0xa, .bswap 33 34)]
theorem test_multiplyAndBitsWords1 : multiplyAndBitsWords1.all reads = true := by decide +kernel
theorem test_multiplyAndBitsWords2 : multiplyAndBitsWords2.all reads = true := by decide +kernel

/-- R67, R68. -/
def scalarFloatWords1 : List (Nat × Instr) :=
  [(wR 0xb 33 34 35 0xa0, .fadd 33 34 35 .rsr .f64), (wR 0xb 33 34 35 0xa9, .fsub 33 34 35 .rsr .f32),
    (wR 0xb 33 34 35 0xb2, .fmul 33 34 35 .rsr .f16), (wR 0xb 33 34 35 0xbb, .fdiv 33 34 35 .rsr .bf16),
    (wR 0xb 33 34 35 0xa4, .frcps 33 34 35 .rsr .f64), (wR 0xb 33 34 35 0xad, .frsqs 33 34 35 .rsr .f32),
    (wR 0xb 33 34 35 0x16, .fmin 33 34 35 .f16), (wR 0xb 33 34 35 0x36, .fmax 33 34 35 .f16),
    (wR 0xb 33 34 35 0x56, .fsgnj 33 34 35 .f16), (wR 0xb 33 34 35 0x76, .fsgnjn 33 34 35 .f16),
    (wR 0xb 33 34 35 0x96, .fsgnjx 33 34 35 .f16), (wR 0xb 33 34 35 0xb6, .feq 33 34 35 .f16),
    (wR 0xb 33 34 35 0xd6, .flt 33 34 35 .f16), (wR 0xb 33 34 35 0xf6, .fle 33 34 35 .f16),
    (wR 0xb 33 34 0 0x8f, .fsqrt 33 34 .rmm .f32), (wR 0xb 33 34 1 0xcf, .frcp 33 34 .fz .f32)]
/-- R67, R68. -/
def scalarFloatWords2 : List (Nat × Instr) :=
  [(wR 0xb 33 34 2 0xff, .frsq 33 34 .nf .bf16), (wR 0xb 33 34 3 0xf, .fclass 33 34 .f32),
    (wR 0xb 33 34 4 0x2f, .fcvt 33 34 .f64 .rtz .f32), (wR 0xb 33 34 5 0x27, .fcvt 33 34 .f32 .rtz .f64),
    (wR 0xb 33 34 6 0x27, .fcvt 33 34 .f16 .rtz .f64), (wR 0xb 33 34 7 0x27, .fcvt 33 34 .bf16 .rtz .f64),
    (wR 0xb 33 34 8 0x27, .fcvt 33 34 .e4m3 .rtz .f64), (wR 0xb 33 34 9 0x27, .fcvt 33 34 .e5m2 .rtz .f64),
    (wR 0xb 33 34 10 0x27, .fcvt 33 34 .e3m2 .rtz .f64), (wR 0xb 33 34 11 0x27, .fcvt 33 34 .e2m3 .rtz .f64),
    (wR 0xb 33 34 12 0x27, .fcvt 33 34 .e2m1 .rtz .f64), (wR 0xb 33 34 16 0x4f, .fcvti 33 34 .i32 .rup .f32),
    (wR 0xb 33 34 20 0x6f, .icvtf 33 34 .i32 .rdn .f32), (wR 0xb 33 34 17 0x4f, .fcvti 33 34 .i64 .rup .f32),
    (wR 0xb 33 34 21 0x6f, .icvtf 33 34 .i64 .rdn .f32), (wR 0xb 33 34 18 0x4f, .fcvti 33 34 .z32 .rup .f32)]
/-- R67, R68. -/
def scalarFloatWords3 : List (Nat × Instr) :=
  [(wR 0xb 33 34 22 0x6f, .icvtf 33 34 .z32 .rdn .f32), (wR 0xb 33 34 19 0x4f, .fcvti 33 34 .z64 .rup .f32),
    (wR 0xb 33 34 23 0x6f, .icvtf 33 34 .z64 .rdn .f32)]
theorem test_scalarFloatWords1 : scalarFloatWords1.all reads = true := by decide +kernel
theorem test_scalarFloatWords2 : scalarFloatWords2.all reads = true := by decide +kernel
theorem test_scalarFloatWords3 : scalarFloatWords3.all reads = true := by decide +kernel

/-- R69. -/
def fusedWords : List (Nat × Instr) :=
  [(wF 0xc 33 34 35 36 0, .fmaF64 33 34 35 36), (wF 0xc 33 34 35 36 1, .fmsF64 33 34 35 36),
    (wF 0xc 33 34 35 36 2, .fmaF32 33 34 35 36), (wF 0xc 33 34 35 36 3, .fmsF32 33 34 35 36)]
theorem test_fusedWords : fusedWords.all reads = true := by decide +kernel

/-- R70, R71. -/
def loadsAndStoresWords1 : List (Nat × Instr) :=
  [(wI 0x10 33 34 0x2001, .ldI8 33 34 0x2001), (wI 0x11 33 34 0x2001, .ldZ8 33 34 0x2001),
    (wI 0x12 33 34 0x2001, .ldI16 33 34 0x2001), (wI 0x13 33 34 0x2001, .ldZ16 33 34 0x2001),
    (wI 0x14 33 34 0x2001, .ldI32 33 34 0x2001), (wI 0x15 33 34 0x2001, .ldZ32 33 34 0x2001),
    (wI 0x16 33 34 0x2001, .ldI64 33 34 0x2001), (wI 0x18 33 34 0x2001, .stI8 33 34 0x2001),
    (wI 0x19 33 34 0x2001, .stI16 33 34 0x2001), (wI 0x1a 33 34 0x2001, .stI32 33 34 0x2001),
    (wI 0x1b 33 34 0x2001, .stI64 33 34 0x2001), (wR 0x17 33 34 35 0x8, .ldx 33 34 35 .i8),
    (wR 0x17 33 34 35 0x9, .ldx 33 34 35 .z8), (wR 0x17 33 34 35 0xa, .ldx 33 34 35 .i16),
    (wR 0x17 33 34 35 0xb, .ldx 33 34 35 .z16), (wR 0x17 33 34 35 0xc, .ldx 33 34 35 .i32)]
/-- R70, R71. -/
def loadsAndStoresWords2 : List (Nat × Instr) :=
  [(wR 0x17 33 34 35 0xd, .ldx 33 34 35 .z32), (wR 0x17 33 34 35 0xe, .ldx 33 34 35 .i64),
    (wR 0x17 33 34 35 0x18, .lde 33 34 35 .thread), (wR 0x17 33 34 35 0x11, .ldf 33 34 35 .core),
    (wR 0x17 33 34 35 0x1a, .lde 33 34 35 .clus), (wR 0x17 33 34 35 0x13, .ldf 33 34 35 .die),
    (wR 0x17 33 34 35 0x1c, .lde 33 34 35 .pkg), (wR 0x17 33 34 35 0x15, .ldf 33 34 35 .fab),
    (wR 0x17 33 34 35 0x20, .ldrd 33 34 35 .addI64), (wR 0x17 33 34 35 0x21, .ldrd 33 34 35 .minI64),
    (wR 0x17 33 34 35 0x22, .ldrd 33 34 35 .maxI64), (wR 0x17 33 34 35 0x23, .ldrd 33 34 35 .addF64),
    (wR 0x17 33 34 35 0x24, .ldrd 33 34 35 .minF64), (wR 0x17 33 34 35 0x25, .ldrd 33 34 35 .maxF64),
    (wR 0x17 33 34 35 0x28, .fstat 33 34 35)]
theorem test_loadsAndStoresWords1 : loadsAndStoresWords1.all reads = true := by decide +kernel
theorem test_loadsAndStoresWords2 : loadsAndStoresWords2.all reads = true := by decide +kernel

/-- R72, R61. -/
def atomicsWords1 : List (Nat × Instr) :=
  [(wR 0x1c 33 34 35 0x0, .amo 33 34 35 .add 0), (wR 0x1c 0 34 35 0xf, .red 34 35 .add 15),
    (wR 0x1c 33 34 35 0x11, .amo 33 34 35 .and 1), (wR 0x1c 0 34 35 0x1f, .red 34 35 .and 15),
    (wR 0x1c 33 34 35 0x22, .amo 33 34 35 .or 2), (wR 0x1c 0 34 35 0x2f, .red 34 35 .or 15),
    (wR 0x1c 33 34 35 0x33, .amo 33 34 35 .xor 3), (wR 0x1c 0 34 35 0x3f, .red 34 35 .xor 15),
    (wR 0x1c 33 34 35 0x44, .amo 33 34 35 .min 4), (wR 0x1c 0 34 35 0x4f, .red 34 35 .min 15),
    (wR 0x1c 33 34 35 0x55, .amo 33 34 35 .max 5), (wR 0x1c 0 34 35 0x5f, .red 34 35 .max 15),
    (wR 0x1c 33 34 35 0x66, .amo 33 34 35 .minz 6), (wR 0x1c 0 34 35 0x6f, .red 34 35 .minz 15),
    (wR 0x1c 33 34 35 0x77, .amo 33 34 35 .maxz 7), (wR 0x1c 0 34 35 0x7f, .red 34 35 .maxz 15)]
/-- R72, R61. -/
def atomicsWords2 : List (Nat × Instr) :=
  [(wR 0x1c 33 34 35 0x88, .amo 33 34 35 .swap 8), (wR 0x1c 0 34 35 0x8f, .red 34 35 .swap 15),
    (wR 0x1c 33 34 35 0x99, .amo 33 34 35 .fadd32 9), (wR 0x1c 0 34 35 0x9f, .red 34 35 .fadd32 15),
    (wR 0x1c 33 34 35 0xaa, .amo 33 34 35 .fadd64 10), (wR 0x1c 0 34 35 0xaf, .red 34 35 .fadd64 15),
    (wR 0x1c 33 34 35 0xbb, .amo 33 34 35 .badd16 11), (wR 0x1c 0 34 35 0xbf, .red 34 35 .badd16 15),
    (wR 0x1c 33 34 35 0xcc, .amo 33 34 35 .fmin 12), (wR 0x1c 0 34 35 0xcf, .red 34 35 .fmin 15),
    (wR 0x1c 33 34 35 0xdd, .amo 33 34 35 .fmax 13), (wR 0x1c 0 34 35 0xdf, .red 34 35 .fmax 15),
    (wR 0x1c 33 34 35 0xe7, .cas 33 34 35 7), (wR 0x1c 0 34 35 0xf5, .stf 34 35 .fab), (wR 0x1c 33 34 35 0xfb, .ste 33 34 35 .die)]
theorem test_atomicsWords1 : atomicsWords1.all reads = true := by decide +kernel
theorem test_atomicsWords2 : atomicsWords2.all reads = true := by decide +kernel

/-- R73, R74. -/
def orderingAndControlWords : List (Nat × Instr) :=
  [(0x1d * 2 ^ 26 + 0x21 * 2 ^ 20 + 0x12 * 2 ^ 14 + 4 * 2 ^ 11 + 1, .fen 0x21 0x12 .pkg),
    (0x1d * 2 ^ 26 + 9 * 2 ^ 22 + 10 * 2 ^ 18 + 19 * 2 ^ 13 + 11 * 2 ^ 9 + 2, .wait 9 10 19 11), (wR 0x1d 0 34 0 0x3, .bar 34),
    (wI 0x20 33 34 0x2001, .beq 33 34 0x2001), (wI 0x21 33 34 0x2001, .bne 33 34 0x2001), (wI 0x22 33 34 0x2001, .blt 33 34 0x2001),
    (wI 0x23 33 34 0x2001, .bge 33 34 0x2001), (wI 0x24 33 34 0x2001, .bltz 33 34 0x2001),
    (wI 0x25 33 34 0x2001, .bgez 33 34 0x2001), (wL 0x26 33 0x80001, .jal 33 0x80001), (wI 0x27 33 34 0x2001, .jalr 33 34 0x2001)]
theorem test_orderingAndControlWords : orderingAndControlWords.all reads = true := by decide +kernel

/-- R75 to R77. -/
def familiesTasksAndMessagesWords1 : List (Nat × Instr) :=
  [(wR 0x28 33 34 0 0x1, .crt 33 34), (wR 0x28 33 34 0 0x2, .sync 33 34), (wR 0x28 0 34 0 0x3, .brk 34),
    (wR 0x28 62 34 35 0x4, .fput 62 34 35), (wR 0x28 62 34 35 0x5, .fputS 62 34 35), (wR 0x28 33 34 62 0x6, .fget 33 34 62),
    (wR 0x28 33 34 62 0x7, .fgetS 33 34 62), (wR 0x28 33 34 0 0x8, .fgetBrk 33 34), (wR 0x28 0 0 0 0x9, .exit),
    (wR 0x28 0 0 0 0xa, .yield), (wR 0x28 33 0 14 0xb, .qry 33 14), (wR 0x29 0 34 35 0x1, .tenq 34 35), (wR 0x29 0 0 0 0x2, .texit),
    (wR 0x29 0 0 0 0x3, .tirr), (wR 0x2a 0 34 35 0x1, .ksendB0 34 35), (wR 0x2a 0 34 0 0x9, .rxaB0 34)]
/-- R75 to R77. -/
def familiesTasksAndMessagesWords2 : List (Nat × Instr) :=
  [(wR 0x2a 0 34 35 0x2, .ksendB1 34 35), (wR 0x2a 0 34 0 0xa, .rxaB1 34), (wR 0x2a 0 34 35 0x3, .ksendB2 34 35),
    (wR 0x2a 0 34 0 0xb, .rxaB2 34), (wR 0x2a 0 34 35 0x4, .ksendB3 34 35), (wR 0x2a 0 34 0 0xc, .rxaB3 34),
    (wR 0x2a 33 34 0 0x5, .wta 33 34), (wR 0x2a 33 0 0 0x6, .wtw 33), (wR 0x2a 0 34 0 0x7, .wtd 34),
    (wR 0x2a 0 34 35 0x8, .stm 34 35)]
theorem test_familiesTasksAndMessagesWords1 : familiesTasksAndMessagesWords1.all reads = true := by decide +kernel
theorem test_familiesTasksAndMessagesWords2 : familiesTasksAndMessagesWords2.all reads = true := by decide +kernel

/-- R78 to R81. -/
def enginesAndMatrixWords1 : List (Nat × Instr) :=
  [(wR 0x2b 31 34 0 0x1, .ewr 31 34), (wR 0x2b 33 31 0 0x2, .erd 33 31), (wR 0x2b 33 34 0 0x3, .sbind 33 34),
    (wR 0x2b 33 0 0 0x4, .sunb 33), (wR 0x2b 33 0 0 0x5, .rnd 33), (wR 0x2c 0 34 35 0x1, .cpy 34 35),
    (wR 0x2c 0 34 35 0x2, .chn 34 35), (wR 0x2c 33 34 35 0x3, .ovl 33 34 35), (wR 0x2c 0 34 0 0x4, .coll 34),
    (wR 0x2d 0 34 35 0xd, .mma 34 35 .bf16), (wR 0x2d 0 34 35 0xc, .mma 34 35 .f16), (wR 0x2d 0 34 35 0xe, .mma 34 35 .e4m3),
    (wR 0x2d 0 34 35 0xf, .mma 34 35 .e5m2), (wR 0x2d 0 34 35 0x10, .mma 34 35 .e3m2), (wR 0x2d 0 34 35 0x11, .mma 34 35 .e2m3),
    (wR 0x2d 0 34 35 0x12, .mma 34 35 .e2m1)]
/-- R78 to R81. -/
def enginesAndMatrixWords2 : List (Nat × Instr) :=
  [(wR 0x2d 0 34 35 0x0, .mma 34 35 .i8), (wR 0x2d 0 34 35 0x1, .mma 34 35 .z8), (wR 0x2d 15 34 35 0xab, .macc 15 34 35 .f32),
    (wR 0x2d 15 34 35 0xac, .macc 15 34 35 .f16), (wR 0x2d 15 34 35 0xad, .macc 15 34 35 .bf16),
    (wR 0x2d 15 34 35 0xae, .macc 15 34 35 .e4m3), (wR 0x2d 15 34 35 0xaf, .macc 15 34 35 .e5m2),
    (wR 0x2d 15 34 35 0xa4, .macc 15 34 35 .i32), (wR 0x2d 15 34 35 0xa0, .macc 15 34 35 .i8),
    (wR 0x2d 15 34 35 0xa1, .macc 15 34 35 .z8), (wR 0x2d 0 34 35 0x2d, .mmasS24 34 35 .bf16),
    (wR 0x2d 0 34 35 0x4e, .mmasS48 34 35 .e4m3), (wR 0x2d 0 34 35 0x61, .mmag 34 35 .z8),
    (wR 0x2d 33 34 35 0x92, .mrc 33 34 35 .e2m1), (wR 0x2d 0 34 0 0xc0, .mclr 34), (wR 0x2d 0 34 35 0xe4, .mdrn 34 35 .i32)]
/-- R78 to R81. -/
def enginesAndMatrixWords3 : List (Nat × Instr) :=
  [(wR 0x2e 0 34 0 0x20, .edge 34), (wR 0x2e 0 34 35 0x4c, .mbs 34 35 .f16), (wR 0x2e 0 34 35 0x60, .mss 34 35 .i8),
    (wR 0x2e 0 34 35 0x80, .dpf 34 35)]
theorem test_enginesAndMatrixWords1 : enginesAndMatrixWords1.all reads = true := by decide +kernel
theorem test_enginesAndMatrixWords2 : enginesAndMatrixWords2.all reads = true := by decide +kernel
theorem test_enginesAndMatrixWords3 : enginesAndMatrixWords3.all reads = true := by decide +kernel

/-- R82, R57. -/
def systemAndHintsWords1 : List (Nat × Instr) :=
  [(wR 0x2f 0 0 63 0x1, .trap 63), (wR 0x2f 0 0 0 0x2, .eret), (0x2f * 2 ^ 26 + 33 * 2 ^ 20 + 0x801 * 2 ^ 8 + 3, .sysr 33 0x801),
    (0x2f * 2 ^ 26 + 33 * 2 ^ 20 + 0x801 * 2 ^ 8 + 4, .sysw 33 0x801), (wR 0x2f 0 34 35 0x5, .tlbi 34 35),
    (wR 0x2f 0 0 0 0x6, .halt), (wR 0x2f 0 34 0 0x7, .ctxs 34), (wR 0x2f 33 34 0 0x8, .ctxr 33 34), (wR 0x2f 0 34 0 0x9, .seal 34),
    (wR 0x2f 0 34 35 0xa, .capw 34 35), (wR 0x2f 33 34 0 0xb, .capr 33 34), (wR 0x2f 33 0 0 0xc, .tbr 33),
    (wR 0x2f 0 0 0 0xd, .idle), (wR 0x2f 0 34 0 0xe, .ovli 34), (0x38 * 2 ^ 26 + 0x2000001, .nop 0x2000001),
    (0x39 * 2 ^ 26 + 0x8001, .ovlh 0x8001)]
/-- R82, R57. -/
def systemAndHintsWords2 : List (Nat × Instr) :=
  [(0x3a * 2 ^ 26 + 33 * 2 ^ 20 + 0x80001, .hintDest 0 33 0x80001),
    (0x3b * 2 ^ 26 + 33 * 2 ^ 20 + 0x80001, .hintDest 1 33 0x80001)]
theorem test_systemAndHintsWords1 : systemAndHintsWords1.all reads = true := by decide +kernel
theorem test_systemAndHintsWords2 : systemAndHintsWords2.all reads = true := by decide +kernel

/-- R83. -/
def tileArithmeticWords1 : List (Nat × Instr) :=
  [(wT 0x30 9 10 11 2 13 0x1, .vaddInt 9 10 11 2 13), (wT 0x30 9 10 11 2 13 0x2, .vsubInt 9 10 11 2 13),
    (wT 0x30 9 10 11 2 13 0x3, .vmulInt 9 10 11 2 13), (wT 0x30 9 10 11 2 13 0x4, .vmulh 9 10 11 2 13),
    (wT 0x30 9 10 11 2 13 0x5, .vmacInt 9 10 11 2 13), (wT 0x30 9 10 11 2 13 0x6, .vqadd 9 10 11 2 13),
    (wT 0x30 9 10 11 2 13 0x7, .vqsub 9 10 11 2 13), (wT 0x30 9 10 11 2 13 0x8, .vminInt 9 10 11 2 13),
    (wT 0x30 9 10 11 2 13 0x9, .vmaxInt 9 10 11 2 13), (wT 0x30 9 10 0 2 13 0xa, .vabsInt 9 10 2 13),
    (wT 0x30 9 10 0 2 13 0xb, .vnegInt 9 10 2 13), (wT 0x30 9 10 11 2 13 0xc, .vavg 9 10 11 2 13),
    (wT 0x31 9 10 11 2 13 0xd, .vaddFp 9 10 11 2 13 .rsr), (wT 0x31 9 10 11 2 13 0x15, .vsubFp 9 10 11 2 13 .rsr),
    (wT 0x31 9 10 11 2 13 0x1d, .vmulFp 9 10 11 2 13 .rsr), (wT 0x31 9 10 11 2 13 0x25, .vdiv 9 10 11 2 13 .rsr)]
/-- R83. -/
def tileArithmeticWords2 : List (Nat × Instr) :=
  [(wT 0x31 9 10 11 2 13 0x2d, .vmacFp 9 10 11 2 13 .rsr), (wT 0x31 9 10 11 2 13 0x35, .vminFp 9 10 11 2 13 .rsr),
    (wT 0x31 9 10 11 2 13 0x3d, .vmaxFp 9 10 11 2 13 .rsr), (wT 0x31 9 10 0 2 13 0x40, .vabsFp 9 10 2 13),
    (wT 0x31 9 10 0 2 13 0x48, .vnegFp 9 10 2 13), (wT 0x31 9 10 0 2 13 0x55, .vsqrt 9 10 2 13 .rsr),
    (wT 0x32 9 10 11 2 13 0x1, .vand 9 10 11 2 13), (wT 0x32 9 10 11 2 13 0x2, .vor 9 10 11 2 13),
    (wT 0x32 9 10 11 2 13 0x3, .vxor 9 10 11 2 13), (wT 0x32 9 10 11 2 13 0x4, .vandn 9 10 11 2 13),
    (wT 0x32 9 10 0 2 13 0x5, .vnot 9 10 2 13), (wT 0x32 9 10 11 2 13 0x6, .vshl 9 10 11 2 13),
    (wT 0x32 9 10 11 2 13 0x7, .vshr 9 10 11 2 13), (wT 0x32 9 10 11 2 13 0x8, .vsar 9 10 11 2 13),
    (wT 0x32 9 10 11 2 13 0x9, .vclmul 9 10 11 2 13), (wT 0x32 9 10 11 2 13 0xa, .vceq 9 10 11 2 13)]
/-- R83. -/
def tileArithmeticWords3 : List (Nat × Instr) :=
  [(wT 0x32 9 10 11 2 13 0xb, .vclt 9 10 11 2 13), (wT 0x32 9 10 11 2 13 0xc, .vcle 9 10 11 2 13)]
theorem test_tileArithmeticWords1 : tileArithmeticWords1.all reads = true := by decide +kernel
theorem test_tileArithmeticWords2 : tileArithmeticWords2.all reads = true := by decide +kernel
theorem test_tileArithmeticWords3 : tileArithmeticWords3.all reads = true := by decide +kernel

/-- R83 to R86. -/
def tileMovementWords1 : List (Nat × Instr) :=
  [(wT 0x33 9 10 0 2 13 0x1, .vmov 9 10 2 13), (wT 0x33 9 10 0 2 13 0x2, .vbcast 9 10 2 13),
    (wT 0x33 9 10 0 2 13 0x3, .vtrn 9 10 2 13), (wT 0x33 9 10 11 2 13 0x4, .vperm 9 10 11 2 13),
    (wT 0x33 9 10 11 2 0 0x5, .vcpr 9 10 11 2), (wT 0x33 9 10 11 2 0 0x6, .vexd 9 10 11 2),
    (wT 0x33 9 10 0 2 13 0x7, .vscan 9 10 2 13), (wT 0x33 9 10 0 2 13 0x8, .vrsum 9 10 2 13),
    (wT 0x33 9 10 0 2 13 0x9, .vrmin 9 10 2 13), (wT 0x33 9 10 0 2 13 0xa, .vrmax 9 10 2 13),
    (wT 0x33 9 10 11 2 13 0xb, .vrot 9 10 11 2 13), (wT 0x35 9 10 3 2 13 0x9, .vcvt 9 10 3 2 13 .rtz),
    (wT 0x35 9 10 0 2 13 0x16, .vexp2 9 10 2 13 .fz), (wT 0x35 9 10 0 2 13 0x1f, .vlog2 9 10 2 13 .nf),
    (wT 0x35 9 10 0 2 13 0x20, .vrcp 9 10 2 13 .rne), (wT 0x35 9 10 0 2 13 0x2e, .vrsq 9 10 2 13 .fz)]
/-- R83 to R86. -/
def tileMovementWords2 : List (Nat × Instr) :=
  [(wT 0x35 9 10 11 2 13 0x34, .vrcps 9 10 11 2 13 .rmm), (wT 0x35 9 10 11 2 13 0x3a, .vrsqs 9 10 11 2 13 .rup),
    (wT 0x35 9 0 0 2 13 0x40, .vrnd 9 2 13), (wT 0x35 9 0 0 2 13 0x48, .vclr 9 2 13), (wT 0x35 9 10 0 2 13 0x50, .vpop 9 10 2 13),
    (wX 0x34 9 0 35 2 0x1, .vld 9 35 2), (wX 0x34 9 0 35 2 0x2, .vst 9 35 2), (wX 0x34 9 10 35 2 0x3, .vldg 9 10 35 2),
    (wX 0x34 9 10 35 2 0x4, .vstg 9 10 35 2), (wS 33 34 2 0 1, .vsh 33 34 2 .i8), (wS 33 34 2 1 1, .vsh 33 34 2 .z8),
    (wS 33 34 2 2 1, .vsh 33 34 2 .i16), (wS 33 34 2 3 1, .vsh 33 34 2 .z16), (wS 33 34 2 4 1, .vsh 33 34 2 .i32),
    (wS 33 34 2 5 1, .vsh 33 34 2 .z32), (wS 33 34 2 6 1, .vsh 33 34 2 .i64)]
/-- R83 to R86. -/
def tileMovementWords3 : List (Nat × Instr) :=
  [(wS 33 34 2 7 1, .vsh 33 34 2 .z64), (wS 33 34 2 8 1, .vsh 33 34 2 .i4), (wS 33 34 2 9 1, .vsh 33 34 2 .z4),
    (wS 33 34 2 10 1, .vsh 33 34 2 .f64), (wS 33 34 2 11 1, .vsh 33 34 2 .f32), (wS 33 34 2 12 1, .vsh 33 34 2 .f16),
    (wS 33 34 2 13 1, .vsh 33 34 2 .bf16), (wS 33 34 2 14 1, .vsh 33 34 2 .e4m3), (wS 33 34 2 15 1, .vsh 33 34 2 .e5m2),
    (wS 33 34 2 16 1, .vsh 33 34 2 .e3m2), (wS 33 34 2 17 1, .vsh 33 34 2 .e2m3), (wS 33 34 2 18 1, .vsh 33 34 2 .e2m1),
    (wS 0 0 0 0 2, .vsp), (wS 33 0 2 0 3, .vshq 33 2), (wX 0x36 9 0 35 2 0x4, .vmsk 9 35 2),
    (wX 0x37 9 10 35 2 0xd, .vadds 9 10 35 2 .rsr)]
/-- R83 to R86. -/
def tileMovementWords4 : List (Nat × Instr) :=
  [(wX 0x37 9 10 35 2 0x15, .vsubs 9 10 35 2 .rsr), (wX 0x37 9 10 35 2 0x1d, .vmuls 9 10 35 2 .rsr),
    (wX 0x37 9 10 35 2 0x25, .vmins 9 10 35 2 .rsr), (wX 0x37 9 10 35 2 0x2d, .vmaxs 9 10 35 2 .rsr),
    (wX 0x37 9 0 35 2 0x30, .vsplat 9 35 2), (wX 0x37 0 10 35 2 0x38, .vext 10 35 2), (wX 0x37 9 0 35 2 0x40, .vins 9 35 2)]
theorem test_tileMovementWords1 : tileMovementWords1.all reads = true := by decide +kernel
theorem test_tileMovementWords2 : tileMovementWords2.all reads = true := by decide +kernel
theorem test_tileMovementWords3 : tileMovementWords3.all reads = true := by decide +kernel
theorem test_tileMovementWords4 : tileMovementWords4.all reads = true := by decide +kernel


/-! ### Witnesses: the forms that the statements name by a table -/

theorem wit_Tabled_scalars : Ready sInt [1, 2] 8 [(getReg (cur sInt) 1).val, (getReg (cur sInt) 2).val] (cur sInt) ∧
    Ready sInt [1, 2, 3] 8 [(getReg (cur sInt) 1).val, (getReg (cur sInt) 2).val, (getReg (cur sInt) 3).val] (cur sInt) ∧
    ReadyFor sInt [1, 2] [(getReg (cur sInt) 1).val, (getReg (cur sInt) 2).val] (cur sInt) ∧ NoFpTraps sInt :=
  ⟨ready_of (by decide +kernel), ready_of (by decide +kernel), readyFor_of (by decide +kernel), by unfold NoFpTraps; decide +kernel⟩
theorem wit_Tabled_accesses : ∀ n ∈ [(1 : Nat), 2, 4, 8],
    (∃ l s1, LoadGoes sMem (cur sMem) ((0xF000000000400 : Word) + (8 : BitVec 14).signExtend 64) n l s1 ∧ l.drop = false) ∧
    (∃ l s1, StoreGoes sMem (cur sMem) ((0xF000000000400 : Word) + (8 : BitVec 14).signExtend 64) n l s1 ∧ l.drop = false) := by
  intro n hn
  simp only [List.mem_cons, List.not_mem_nil, or_false] at hn
  rcases hn with rfl | rfl | rfl | rfl <;> exact ⟨loadGoes_of (by decide +kernel), storeGoes_of (by decide +kernel)⟩
theorem wit_Tabled_tiles : TileReady (sTile .i16) 0 .ints [2, 3] [1] 5 [] ∧ TileReady (sTile .z8) 0 .ints [2] [1] 0 [] ∧
    TileReady (sTile .f32) 0 .floats [2, 3] [1] 0 [] ∧ TileReady (sTile .e4m3) 0 .any [2, 3] [1] 0 [] ∧
    TileReady (sTile .i32) 0 .both [2, 3] [1] 0 [] ∧ TileReady (sTile .f16) 0 .special [2] [1] 0 [] ∧
    TileReady (sTile .f64) 0 .floats [2] [1] 0 [] ∧ TileReady (sTile .i8) 0 .both [2] [1] 0 [] ∧
    (∀ f, NoFpTraps (sTile f)) :=
  ⟨tileReady_of (by decide +kernel), tileReady_of (by decide +kernel), tileReady_of (by decide +kernel), tileReady_of (by decide +kernel),
    tileReady_of (by decide +kernel), tileReady_of (by decide +kernel), tileReady_of (by decide +kernel), tileReady_of (by decide +kernel),
    fun f => by unfold NoFpTraps; cases f <;> decide +kernel⟩
theorem wit_Tabled_tileScalar : ∀ f ∈ [Fmt.i32, .f32], (tileCheck (sTile f) 0 .both [2] [1] 0 [2] &&
    (okVal (tileSources (sTile f) 0 [2])).any (fun v => decide (v = ([7], cur (sTile f))))) = true := all_of (by decide +kernel)

/-! ### Witnesses: answers of another device, and what came beside -/

/-- A word of the next device's window. -/
def kNext : Nat := 2 ^ 47 + (State.reset.dev.devNum + 1) * 2 ^ 33 + 8
/-- A request for that word, and the state in which it is answered. -/
def rNext (kind : ReqKind) (scope : Nat) : Request :=
  { req kind kNext 8 3 with scope := scope, rel := kind == .ste, arrived := if kind = .ste then 1 else 0 }
def sNext (kind : ReqKind) (v : Word) (bad : Bool) (scope : Nat) : State := home (.resultArrival 4 v bad) [rNext kind scope] []

theorem wit_ResultsArrive_far : ∀ kind ∈ [ReqKind.load false, .fstat], ∀ bad, let s := sNext kind 7 bad 0
    getRequest s 4 = some (rNext kind 0) ∧ (getThread s 0 0).uid = (rNext kind 0).uid ∧ (getThread s 0 0).status ≠ .free ∧
    portOf (getThread s 0 0) 8 = none ∧ isShared (getThread s 0 0).hdr 8 = false ∧ (rNext kind 0).d = 8 ∧
    mayPerform s (rNext kind 0) = true ∧ (rNext kind 0).rel = false ∧ homeFaults s 0 kNext = false ∧
    farKey s (hereKey s 0 kNext) = true := by decide +kernel
/-- A `ste` that has failed, whose word held an error, or that has succeeded where nothing earlier of its thread is in flight. -/
theorem wit_FullEmptyAtHome_farSte : ∀ p ∈ [((0 : Word), false, (2 : Nat)), (1, true, 2), (1, false, 4)],
    let s := sNext .ste p.1 p.2.1 p.2.2; let r := rNext .ste p.2.2
    Awaited s 4 r ∧ r.resp = none ∧ farKey s r.key = true ∧ 0 < r.arrived ∧ r.tag = 0 ∧
    (p.2.1 = true ∨ p.1.getLsbD 0 = false ∨ (4 ≤ r.scope ∧ earlierDone s r = true)) := by
  unfold Awaited; exact all_of (by decide +kernel)

/-- A store is owed; a guard touch, or a lost operation, waits to be raised. -/
def sSync (f : Thread → Thread) : State :=
  let s := sHandle famTwo []
  setCur s (f (cur s))
theorem wit_SyncReturns_waits :
    HandleReady (sSync (fun th => { th with cntS := 1 })) 8 1 77 (cur (sSync (fun th => { th with cntS := 1 }))) ∧
    0 < (cur (sSync (fun th => { th with cntS := 1 }))).cntS := ⟨handleReady_of (by decide +kernel), by decide +kernel⟩
theorem wit_SyncReturns_guard :
    HandleReady (sSync (fun th => { th with guard0 := 2 ^ 47 })) 8 1 77 (cur (sSync (fun th => { th with guard0 := 2 ^ 47 }))) ∧
    (cur (sSync (fun th => { th with guard0 := 2 ^ 47 }))).guard0.getLsbD 47 = true ∧
    (cur (sSync (fun th => { th with guard0 := 2 ^ 47 }))).cntS = 0 := ⟨handleReady_of (by decide +kernel), by decide +kernel⟩
theorem wit_SyncReturns_lost : ∀ cause ∈ [(0x14 : Nat), 0x15],
    let s := sSync (fun th => { th with indetOps := some ⟨cause, 0x8000, 0x40, none⟩ })
    HandleReady s 8 1 77 (cur s) ∧ (cur s).cntS = 0 ∧ (cur s).guard0.getLsbD 47 = false ∧
    (cur s).indetOps = some ⟨cause, 0x8000, 0x40, none⟩ := by
  intro cause h
  simp only [List.mem_cons, List.not_mem_nil, or_false] at h
  rcases h with rfl | rfl <;> exact ⟨handleReady_of (by decide +kernel), by decide +kernel⟩

/-- A load's result is owed to a name that an output port is bound to. -/
theorem wit_Fences_appends : let s := { home .none [{ req (.load false) k0 8 0 with d := 7 }] [] with threads := [(0, thOut)] }
    Live s ∧ (cur s).indetOps = none ∧ (8 : BitVec 6).getLsbD 3 = true ∧
    (∃ r ∈ s.flights, ∃ o ∈ (cur s).ports, r.uid = (cur s).uid ∧ r.d = o.reg ∧ r.d ≠ 0 ∧ o.output = true ∧ r.kind = .load false) := by
  unfold Live; decide +kernel

/-- With PREEMPTY: the destination's words can be emptied, or a store that a fence holds before them is still to be performed. -/
def sCopyE (held : Bool) : State :=
  { sCopy 0 with
    threads := [(0, { cur (sCopy 0) with eng := [(16, 64)] })]
    flights := if held then [{ req .store (k0 + 0x200) 8 0 with shields := [(2, 0)] }] else [] }
theorem wit_CopiesIssue_preempty : ∀ held,
    (∃ src dst yr s3, CopyReady (sCopyE held) false 1 2 0xF000000000400 0xF000000000440 (cur (sCopyE held)) src dst yr s3 ∧
      recCount dst = 4) ∧ (cur (sCopyE held)).cntC < 31 ∧ (mapGet 0 (cur (sCopyE held)).eng 16).getLsbD 6 = true ∧
    (match readRecord (sCopyE held) 0xF000000000440 1 0 true (copyDst false) with
      | .ok v => (match runEng v.2 (emptyWords ⟨0, 0, 5, 0, 0x100, 1, v.2.nextId, 0⟩ v.1) with | .ok _ => !held | .error _ => held)
      | .error _ => false) = true := by
  intro held
  refine ⟨?_, ?_⟩
  · cases held <;> exact copyReady_of (by decide +kernel) (by intro h; cases h)
  · revert held; decide +kernel

/-- A read of operand rows, as data. -/
def readsAs (s : State) (ag : Agent) (va : Word) (n v : Nat) : Bool :=
  match engRead ag va n s with
  | .ok r => decide (r = ((v, false), s))
  | .error _ => false
theorem reads_of {s : State} {ag : Agent} {va : Word} {n v : Nat} (h : readsAs s ag va n v = true) :
    engRead ag va n s = .ok ((v, false), s) := by
  unfold readsAs at h
  split at h
  · next r hr => rw [hr, of_decide_eq_true h]
  · simp at h
/-- Two rows of 32 one-byte operands on core 0: the first of A begins with 3, the first of B with 4. -/
def denseCmd (f : ProductFmt) : MatCmd := { matCmd .mma (matRegs 1) with fmt := f.code.toNat, ents := some ([], []) }
def denseState (f : ProductFmt) : State := sQueue (.matrixRowCommit 0) (denseCmd f)
def denseXa (t : Nat) : Nat := if t = 0 then 3 else 0
def denseXb (j t : Nat) : Nat := if j = 0 ∧ t = 0 then 4 else 0
theorem wit_MatrixRowSums : ∀ f ∈ [ProductFmt.i8, .e4m3], DenseRow (denseState f) 0 (denseCmd f) denseXa denseXb ∧
    (denseCmd f).intPath = (f == .i8) ∧ (denseCmd f).cols = 2 ∧ (denseCmd f).depth = 32 := by
  intro f hf
  have h : ∀ f ∈ [ProductFmt.i8, .e4m3],
      ((denseCmd f).op = .mma ∧ bits ((denseCmd f).eng 5) 9 8 = 0 ∧ bits ((denseCmd f).eng 5) 11 10 = 0 ∧ (denseCmd f).ascaled = false ∧
        (denseCmd f).bscaled = false ∧ fmtPacked (denseCmd f).fmtA = false ∧ fmtPacked (denseCmd f).fmtB = false ∧
        (denseCmd f).row < (denseCmd f).rows) ∧
      (∀ t, t < 32 → readsAs (denseState f) (matAgent 0 (denseCmd f)) (denseA (denseCmd f) t) (elemBytes (denseCmd f).fmtA) (denseXa t) = true) ∧
      (∀ j, j < 2 → ∀ t, t < 32 →
        readsAs (denseState f) (matAgent 0 (denseCmd f)) (denseB (denseCmd f) j t) (elemBytes (denseCmd f).fmtB) (denseXb j t) = true) ∧
      (denseCmd f).intPath = (f == .i8) ∧ (denseCmd f).cols = 2 ∧ (denseCmd f).depth = 32 := all_of (by decide +kernel)
  obtain ⟨h1, ha, hb, hi, hc, hd⟩ := h f hf
  exact ⟨⟨.inl h1.1, h1.2.1, h1.2.2.1, h1.2.2.2.1, h1.2.2.2.2.1, h1.2.2.2.2.2.1, h1.2.2.2.2.2.2.1, h1.2.2.2.2.2.2.2,
    fun t ht => reads_of (ha t (hd ▸ ht)), fun j t hj ht => reads_of (hb j (hc ▸ hj) t (hd ▸ ht))⟩, hi, hc, hd⟩

end Sys2Proof.Tests
end

section
/-! Floating-point forms: what the scalar and the tile form answer, with the flags let pass and with an enabled trap met; the
formats' encodings and NaN arithmetic. Then the two statements of 07 that rest on them. -/
namespace Sys2Proof.Machine

/-! ### Stopping with a changed thread, and the check of the flags (R112) -/

/-- A body that traps with a changed thread leaves the trap taken on that thread. -/
theorem runBody_trapAs {s : State} {b : Except Stop State} {th : Thread} {c : Nat} {v : Word} (hl : Live s)
    (h : b = .error (.trapAs th c v)) : runBody s b = .next (takeTrap (setCur s th) s.core s.slot c v th.pc th.pc) := by
  subst h
  unfold Live at hl
  simp [runBody, finish, hl]

theorem checkFlags_pass {s : State} {fl : Nat} (h : flagsTrap (curCfg s) fl = false) : checkFlags s fl = .ok () := by
  simp [checkFlags, h]

theorem checkFlags_trap {s : State} {fl : Nat} (h : flagsTrap (curCfg s) fl = true) :
    checkFlags s fl = .error (.trapAs (orStatus (cur s) fl) 0x13 (word fl)) := by
  simp [checkFlags, h]

@[simp] theorem orStatus_pc (th : Thread) (fl : Nat) : (orStatus th fl).pc = th.pc := rfl

theorem retire_setCur (s : State) (th : Thread) : retire (setCur s th) = stepped s th := by
  simp [retire, retireTo, stepped]

/-! ### The scalar floating-point form -/

section
variable {s : State} {srcs : List RegNo} {d : RegNo} {vs : List Word} {th : Thread} {f : Word → List Word → FResult} {r : FResult}

/-- An operation whose flags meet no enabled trap writes its value, ORs its flags and takes its draw. -/
theorem fpForm_retires (h : Ready s srcs d vs th) (hr : f (nextDraw (cur s)) vs = r)
    (hf : flagsTrap (curCfg s) r.flags = false) :
    runBody s (fpForm s srcs d f) = .next (wrote s (afterFp th r) d r.val) := by
  obtain ⟨hl, hread⟩ := h
  refine runBody_ok hl ?_
  simp only [fpForm, hread, Except.ok_bind, hr, checkFlags_pass hf]
  rfl

/-- An operation whose flags meet an enabled trap sets the flags and traps with 0x13. -/
theorem fpForm_traps (h : Ready s srcs d vs th) (hr : f (nextDraw (cur s)) vs = r)
    (hf : flagsTrap (curCfg s) r.flags = true) :
    runBody s (fpForm s srcs d f) = .next (takeTrap (setCur s (orStatus (cur s) r.flags)) s.core s.slot 0x13 (word r.flags)
      (cur s).pc (cur s).pc) := by
  obtain ⟨hl, hread⟩ := h
  rw [runBody_trapAs hl (th := orStatus (cur s) r.flags) (c := 0x13) (v := word r.flags), orStatus_pc]
  simp only [fpForm, hread, Except.ok_bind, hr, checkFlags_trap hf, Except.error_bind]

end

end Sys2Proof.Machine

namespace Sys2Proof.Claims
open Sys2Proof.Machine

section
variable {i : Instr} {s : State} {d : RegNo} {th : Thread}

/-- An instruction of the scalar form whose operation answers these bits, flags and draw retires with them or traps for them. -/
theorem fpForm_result {srcs : List RegNo} {vs : List Word} {f : Word → List Word → FResult} {bits flags : Nat} {used : Bool}
    (h : Ready s srcs d vs th) (hi : exec i s = runBody s (fpForm s srcs d f))
    (hr : f (nextDraw (cur s)) vs = ⟨word bits, flags, used⟩) :
    FpRetires i s th d bits flags used ∧ FpTraps i s flags :=
  ⟨fun hf => by rw [hi, fpForm_retires h hr hf], fun hf => by rw [hi, fpForm_traps h hr hf]⟩

theorem fpUnary_result {a : RegNo} {rf : Rf} {fm : Fmt2} {op : Fmt → Env → Word → Nat → FOut} {x : Word}
    (h : Ready s [a] d [x] th) (hi : exec i s = runBody s (fpUnary s d a rf fm op)) :
    let o := op (Fmt2.fmt fm) (curEnv s rf) (nextDraw (cur s)) (lowBits (Fmt2.fmt fm) x)
    FpRetires i s th d o.bits o.flags o.used ∧ FpTraps i s o.flags :=
  fpForm_result h hi rfl

theorem fpBinary_result {a b : RegNo} {rf : Rf} {fm : Fmt2} {op : Fmt → Env → Word → Nat → Nat → FOut} {x y : Word}
    (h : Ready s [a, b] d [x, y] th) (hi : exec i s = runBody s (fpBinary s d a b rf fm op)) :
    let o := op (Fmt2.fmt fm) (curEnv s rf) (nextDraw (cur s)) (lowBits (Fmt2.fmt fm) x) (lowBits (Fmt2.fmt fm) y)
    FpRetires i s th d o.bits o.flags o.used ∧ FpTraps i s o.flags :=
  fpForm_result h hi rfl

theorem fpTest_result {a b : RegNo} {fm : Fmt2} {quiet : Bool} {test : Int → Bool} {x y : Word}
    (h : Ready s [a, b] d [x, y] th) (hi : exec i s = runBody s (fpTest s d a b fm quiet test)) :
    let o := fpCompare (Fmt2.fmt fm) (curEnv s .rne) quiet test (lowBits (Fmt2.fmt fm) x) (lowBits (Fmt2.fmt fm) y)
    FpRetires i s th d (if o.1 then 1 else 0) o.2 false ∧ FpTraps i s o.2 := by
  intro o
  refine fpForm_result h hi ?_
  have hword : boolWord o.1 = word (if o.1 then 1 else 0) := by cases o.1 <;> rfl
  rw [← hword]
  rfl

end

/-! ### The scalar tables: each instruction is its form -/

section
variable (s : State) (d a b c : RegNo) (rf : Rf) (fm : Fmt2)

theorem exec_fpTable : ∀ p ∈ fpTable, exec (p.1 d a b rf fm) s = runBody s (fpBinary s d a b rf fm p.2) := by
  intro p hp
  simp only [fpTable, List.mem_cons, List.not_mem_nil, or_false] at hp
  rcases hp with rfl | rfl | rfl | rfl | rfl <;> rfl

theorem exec_fpPickTable : ∀ p ∈ fpPickTable,
    exec (p.1 d a b fm) s = runBody s (fpBinary s d a b .rne fm (fun f e _ x y => p.2 f e x y)) := by
  intro p hp
  simp only [fpPickTable, List.mem_cons, List.not_mem_nil, or_false] at hp
  rcases hp with rfl | rfl <;> rfl

theorem exec_fpCompareTable : ∀ p ∈ fpCompareTable,
    exec (p.1 d a b fm) s = runBody s (fpTest s d a b fm p.2.1 p.2.2) := by
  intro p hp
  simp only [fpCompareTable, List.mem_cons, List.not_mem_nil, or_false] at hp
  rcases hp with rfl | rfl | rfl <;> rfl

theorem exec_fpFusedTable : ∀ p ∈ fpFusedTable, exec (p.1 d a b c) s = runBody s (fpFused s d a b c p.2.1 p.2.2) := by
  intro p hp
  simp only [fpFusedTable, List.mem_cons, List.not_mem_nil, or_false] at hp
  rcases hp with rfl | rfl | rfl | rfl <;> rfl

theorem exec_fpSignTable : ∀ p ∈ fpSignTable,
    exec (p.1 d a b fm) s = binary s d a b (signInject (Fmt2.fmt fm) p.2) := by
  intro p hp
  simp only [fpSignTable, List.mem_cons, List.not_mem_nil, or_false] at hp
  rcases hp with rfl | rfl | rfl <;> rfl

end

theorem scalarFloatResults : ScalarFloatResults := by
  refine ⟨?tables, ?picks, ?compares, ?unary, ?fused⟩
  case tables => exact fun p hp s d a b rf fm x y th h => fpBinary_result h (exec_fpTable s d a b rf fm p hp)
  case picks => exact fun p hp s d a b fm x y th h => fpBinary_result h (exec_fpPickTable s d a b fm p hp)
  case compares => exact fun p hp s d a b fm x y th h => fpTest_result h (exec_fpCompareTable s d a b fm p hp)
  case unary =>
    intro s d a rf fm x th h
    refine ⟨?rcp, ?rsq, fun dst => ?cvt, fun src => fpForm_result h rfl rfl⟩
    case rcp => exact fpUnary_result (op := fun f e _ x => fpRcp f e x) h rfl
    case rsq => exact fpUnary_result (op := fun f e _ x => fpRsq f e x) h rfl
    case cvt => exact fpUnary_result (op := fun f e w x => convertFmt (FcvtTo.fmt dst) f e w x) h rfl
  case fused => exact fun p hp s d a b c x y z th h => fpForm_result h (exec_fpFusedTable s d a b c p hp) rfl

end Sys2Proof.Claims

namespace Sys2Proof

/-! ### Encodings: the sign bit and the magnitude (R96 to R98) -/

theorem Fmt.magBits_lt_width (f : Fmt) : f.magBits < f.width := by cases f <;> decide

theorem Fmt.frac_pos_of_hasInf {f : Fmt} (h : f.hasInf = true) : 0 < f.frac := by
  revert h; cases f <;> decide

end Sys2Proof

namespace Sys2Proof.Machine

theorem Fmt2.fmt_hasInf (fm : Fmt2) : (Fmt2.fmt fm).hasInf = true := by cases fm <;> rfl

/-- The sign of an operand is the register's bit above the magnitude. -/
theorem testBit_lowBits_magBits (f : Fmt) (x : Word) : (lowBits f x).testBit f.magBits = x.getLsbD f.magBits := by
  simp [lowBits, Nat.testBit_mod_two_pow, f.magBits_lt_width, BitVec.testBit_toNat]

theorem signInject_eq (f : Fmt) (sign : Bool → Bool → Bool) (x y : Word) :
    signInject f sign x y = word (lowBits f x % 2 ^ f.magBits +
      if sign (x.getLsbD f.magBits) (y.getLsbD f.magBits) then 2 ^ f.magBits else 0) := by
  simp only [signInject, Fmt.signBit, testBit_lowBits_magBits]

theorem word_two_pow (k : Nat) : word (2 ^ k) = BitVec.twoPow 64 k := by
  apply BitVec.eq_of_toNat_eq
  simp [word, BitVec.toNat_twoPow]

section
variable {f : Fmt} {b : Nat}

/-- In a format with infinities the magnitude alone decides what an encoding is. -/
theorem decodeFloat_of_hasInf (hinf : f.hasInf = true) :
    let neg := b.testBit f.magBits
    let mag := b % 2 ^ f.magBits
    decodeFloat f b = if mag = f.infBits then .inf neg
      else if f.infBits < mag then .nan (!(mag % 2 ^ f.frac).testBit (f.frac - 1))
      else if mag / 2 ^ f.frac = 0 then .fin neg (mag % 2 ^ f.frac) (1 - (f.bias : Int) - f.frac) false
      else .fin neg (2 ^ f.frac + mag % 2 ^ f.frac) ((mag / 2 ^ f.frac : Nat) - (f.bias : Int) - f.frac) false := by
  have he : (f == .e4m3) = false := by revert hinf; cases f <;> decide
  simp only [decodeFloat, hinf, he, Bool.true_and, Bool.false_and, beq_iff_eq, decide_eq_true_eq, Bool.false_eq_true, if_false]

/-! The four ranges of a magnitude. -/

theorem decodeFloat_nan (hinf : f.hasInf = true) (h : f.infBits < b % 2 ^ f.magBits) :
    decodeFloat f b = .nan (!(b % 2 ^ f.magBits).testBit (f.frac - 1)) := by
  have hfrac : f.frac - 1 < f.frac := Nat.sub_lt (Fmt.frac_pos_of_hasInf hinf) Nat.one_pos
  have hbit : (b % 2 ^ f.magBits % 2 ^ f.frac).testBit (f.frac - 1) = (b % 2 ^ f.magBits).testBit (f.frac - 1) := by
    rw [Nat.testBit_mod_two_pow, decide_eq_true hfrac, Bool.true_and]
  rw [decodeFloat_of_hasInf hinf, if_neg (Nat.ne_of_gt h), if_pos h, hbit]

theorem decodeFloat_inf (hinf : f.hasInf = true) (h : b % 2 ^ f.magBits = f.infBits) :
    decodeFloat f b = .inf (b.testBit f.magBits) := by
  rw [decodeFloat_of_hasInf hinf, if_pos h]

theorem decodeFloat_fraction (hinf : f.hasInf = true) (h : b % 2 ^ f.magBits < f.infBits) (hs : b % 2 ^ f.magBits < 2 ^ f.frac) :
    decodeFloat f b = .fin (b.testBit f.magBits) (b % 2 ^ f.magBits) (1 - (f.bias : Int) - f.frac) false := by
  rw [decodeFloat_of_hasInf hinf, if_neg (Nat.ne_of_lt h), if_neg (Nat.lt_asymm h), if_pos (Nat.div_eq_of_lt hs),
    Nat.mod_eq_of_lt hs]

theorem decodeFloat_normal (hinf : f.hasInf = true) (h : b % 2 ^ f.magBits < f.infBits) (hs : 2 ^ f.frac ≤ b % 2 ^ f.magBits) :
    decodeFloat f b = .fin (b.testBit f.magBits) (2 ^ f.frac + b % 2 ^ f.magBits % 2 ^ f.frac)
      ((b % 2 ^ f.magBits / 2 ^ f.frac : Nat) - (f.bias : Int) - f.frac) false := by
  have hexp : b % 2 ^ f.magBits / 2 ^ f.frac ≠ 0 := Nat.ne_of_gt (Nat.div_pos hs (Nat.two_pow_pos _))
  rw [decodeFloat_of_hasInf hinf, if_neg (Nat.ne_of_lt h), if_neg (Nat.lt_asymm h), if_neg hexp]

/-- The class of an encoding, by the range of its magnitude (R140). -/
theorem fpClass_eq (hinf : f.hasInf = true) (b : Nat) :
    let neg := b.testBit f.magBits
    let mag := b % 2 ^ f.magBits
    fpClass f b = if f.infBits < mag then (if mag.testBit (f.frac - 1) then 9 else 8)
      else if mag = f.infBits then (if neg then 0 else 7)
      else if 2 ^ f.frac ≤ mag then (if neg then 1 else 6)
      else if 0 < mag then (if neg then 2 else 5)
      else if neg then 3 else 4 := by
  intro neg mag
  rcases Nat.lt_trichotomy mag f.infBits with hlt | heq | hgt
  · rw [if_neg (Nat.lt_asymm hlt), if_neg (Nat.ne_of_lt hlt)]
    by_cases hs : 2 ^ f.frac ≤ mag
    · have hsub : ¬ isSubnormal f b = true := fun h => Nat.not_lt.2 hs (of_decide_eq_true h).2
      have hpos : ¬ 2 ^ f.frac + mag % 2 ^ f.frac = 0 := by have := Nat.two_pow_pos f.frac; omega
      simp only [fpClass, decodeFloat_normal hinf hlt hs]
      rw [if_neg hpos, if_pos hs, if_neg hsub]
    · simp only [fpClass, decodeFloat_fraction hinf hlt (Nat.not_le.1 hs)]
      rw [if_neg hs]
      by_cases h0 : 0 < mag
      · have hsub : isSubnormal f b = true := decide_eq_true ⟨h0, Nat.not_le.1 hs⟩
        rw [if_pos h0, if_neg (Nat.ne_of_gt h0), if_pos hsub]
      · rw [if_neg h0, if_pos (Nat.eq_zero_of_not_pos h0)]
  · simp only [fpClass, decodeFloat_inf hinf heq]
    rw [if_neg (Nat.not_lt.2 (Nat.le_of_eq heq)), if_pos heq]
  · simp only [fpClass, decodeFloat_nan hinf hgt]
    rw [if_pos hgt]
    cases mag.testBit (f.frac - 1) <;> rfl

end

/-! ### NaN operands (R98, R113) -/

@[simp] theorem Val.isNan_neg (x : Val) : x.neg.isNan = x.isNan := by cases x <;> rfl
@[simp] theorem Val.isSig_neg (x : Val) : x.neg.isSig = x.isSig := by cases x <;> rfl

theorem Val.eq_nan_of_isNan {x : Val} (h : x.isNan = true) : ∃ sig, x = .nan sig := by
  cases x with
  | nan sig => exact ⟨sig, rfl⟩
  | inf _ => exact absurd h Bool.false_ne_true
  | fin _ _ _ _ => exact absurd h Bool.false_ne_true

theorem roundWith_nan {f : Fmt} (h : f.hasNan = true) (e : Env) (w : Word) (fl : Nat) :
    roundWith f e w (.nan false, fl) = ⟨f.nanBits, fl, false⟩ := by
  simp [roundWith, roundFmt, h, FOut.exact]

section
variable {x y : Val}

/-- A sum of two values one of which is a NaN never meets two opposed infinities. -/
theorem sumVals_nan (rf : Rf) (h : x.isNan = true ∨ y.isNan = true) :
    sumVals rf [x, y] = (.nan false, if x.isSig || y.isSig then flagNV else 0) := by
  rcases h with hx | hy
  · obtain ⟨sig, rfl⟩ := Val.eq_nan_of_isNan hx
    cases y <;> simp [sumVals, Val.isNan, Val.isSig]
  · obtain ⟨sig, rfl⟩ := Val.eq_nan_of_isNan hy
    cases x <;> simp [sumVals, Val.isNan, Val.isSig]

theorem mulVals_nan (h : x.isNan = true ∨ y.isNan = true) :
    mulVals x y = (.nan false, if x.isSig || y.isSig then flagNV else 0) := by
  rcases h with hx | hy
  · obtain ⟨sig, rfl⟩ := Val.eq_nan_of_isNan hx
    simp [mulVals, Val.isNan]
  · obtain ⟨sig, rfl⟩ := Val.eq_nan_of_isNan hy
    simp [mulVals, Val.isNan]

end

section
variable {f : Fmt} {e : Env} {a b : Nat}

theorem fpAdd_nan (hf : f.hasNan = true) (w : Word) (h : (operand f e a).isNan = true ∨ (operand f e b).isNan = true) :
    fpAdd f e w a b = ⟨f.nanBits, if (operand f e a).isSig || (operand f e b).isSig then flagNV else 0, false⟩ := by
  rw [fpAdd, sumVals_nan _ h, roundWith_nan hf]

theorem fpSub_nan (hf : f.hasNan = true) (w : Word) (h : (operand f e a).isNan = true ∨ (operand f e b).isNan = true) :
    fpSub f e w a b = ⟨f.nanBits, if (operand f e a).isSig || (operand f e b).isSig then flagNV else 0, false⟩ := by
  rw [fpSub, sumVals_nan _ (by simpa using h), roundWith_nan hf, Val.isSig_neg]

theorem fpMul_nan (hf : f.hasNan = true) (w : Word) (h : (operand f e a).isNan = true ∨ (operand f e b).isNan = true) :
    fpMul f e w a b = ⟨f.nanBits, if (operand f e a).isSig || (operand f e b).isSig then flagNV else 0, false⟩ := by
  rw [fpMul, mulVals_nan h, roundWith_nan hf]

end

end Sys2Proof.Machine

namespace Sys2Proof.Claims
open Sys2Proof.Machine

theorem floatBitsAndIntegers : FloatBitsAndIntegers := by
  refine ⟨?signs, ?classes, ?integers⟩
  case signs =>
    intro p hp s d a b fm x y th h
    rw [exec_fpSignTable s d a b fm p hp, binary_next h, signInject_eq]
  case classes =>
    intro s d a fm x th h f neg mag k
    have hclass : fpClass f (lowBits f x) = k := by
      rw [fpClass_eq (Fmt2.fmt_hasInf fm), testBit_lowBits_magBits]
    have hexec : exec (.fclass d a fm) s = .next (wrote s th d (word (2 ^ fpClass f (lowBits f x)))) := unary_next h
    rw [hexec, hclass, word_two_pow]
  case integers =>
    intro s d a dst rf fm x th h r
    exact ⟨fun hf => fpForm_retires (r := ⟨BitVec.ofInt 64 r.1, r.2.1, r.2.2⟩) h rfl hf,
      fun hf => fpForm_traps (r := ⟨BitVec.ofInt 64 r.1, r.2.1, r.2.2⟩) h rfl hf⟩

theorem nanOperandsGiveTheCanonicalNan : NanOperandsGiveTheCanonicalNan := by
  intro op hop f hf e w a b h
  have hnan : f.hasNan = true := by
    simp only [List.mem_cons, List.not_mem_nil, or_false] at hf
    rcases hf with rfl | rfl | rfl | rfl <;> rfl
  have hval : op f e w a b = ⟨f.nanBits, if (operand f e a).isSig || (operand f e b).isSig then flagNV else 0, false⟩ := by
    simp only [List.mem_cons, List.not_mem_nil, or_false] at hop
    rcases hop with rfl | rfl | rfl
    · exact fpAdd_nan hnan w h
    · exact fpSub_nan hnan w h
    · exact fpMul_nan hnan w h
  rw [hval]
  exact ⟨rfl, rfl, rfl⟩

/-- Settles O6, from its three claims: every table's instruction is the scalar form of its operation; the ranges of a magnitude
give the class; a NaN among two operands decides sum and product. -/
theorem floatResults : Obligations.FloatResults :=
  ⟨scalarFloatResults, floatBitsAndIntegers, nanOperandsGiveTheCanonicalNan⟩

/-! ### The tile floating-point form (R219) -/

/-- The common end of the tile instructions (R107, R219): all elements are formed, then the union of their flags decides whether
any is written. `vcvt` ends so too, in another format than it reads. -/
theorem formedElems_result {i : Instr} {s : State} {td : TileNo} {g : Fmt} {els : List (Nat × Nat)} {f : Word → Nat → Nat → FOut}
    {checks : Except Stop Unit} (hl : Live s) (hc : checks = .ok ())
    (hi : exec i s = runBody s (do
      checks
      checkFlags s (formElems (cur s) els f).2.1
      .ok (retire (setCur s (orStatus (writeElems (formElems (cur s) els f).2.2 td g (formElems (cur s) els f).1)
        (formElems (cur s) els f).2.1))))) :
    TileFpRetires i s td g els f := by
  subst hc
  refine ⟨fun hf => ?_, fun hf => ?_⟩
  · rw [hi, Except.ok_bind, checkFlags_pass hf, Except.ok_bind, runBody_ok hl rfl, retire_setCur]
  · rw [hi, Except.ok_bind, checkFlags_trap hf, Except.error_bind, runBody_trapAs hl rfl, orStatus_pc]

theorem tileForm_result {i : Instr} {s : State} {td : TileNo} {sh : ShapeNo} {acc : Accepts} {rfOk : Bool} {srcs : List TileNo}
    {mask : TileNo} {f : Thread → Fmt → Word → Nat → Nat → FOut} (h : TileReady s sh acc srcs [td] mask []) (hrf : rfOk = true)
    (hi : exec i s = runBody s (tileForm s td sh acc rfOk srcs mask f)) :
    TileFpRetires i s td (shapeFmt (cur s) sh) (liveElems (cur s) sh mask) (f (cur s) (shapeFmt (cur s) sh)) := by
  subst hrf
  exact formedElems_result h.1 h.2 hi

theorem tileFp2_result {i : Instr} {s : State} {td ta tb : TileNo} {sh : ShapeNo} {mask : TileNo} {rf : Rf}
    {op : Fmt → Env → Word → Nat → Nat → FOut} (h : TileReady s sh .floats [ta, tb] [td] mask [])
    (hi : exec i s = tileFp2 s td ta tb sh mask rf op) :
    TileFpRetires i s td (shapeFmt (cur s) sh) (liveElems (cur s) sh mask) (fun w r c =>
      op (shapeFmt (cur s) sh) (curEnv s rf) w (tileElem (cur s) ta (shapeFmt (cur s) sh) r c)
        (tileElem (cur s) tb (shapeFmt (cur s) sh) r c)) := by
  rw [tileFp2] at hi
  exact tileForm_result h rfl hi

theorem tileSpecial_result {i : Instr} {s : State} {acc : Accepts} {td ta : TileNo} {sh : ShapeNo} {mask : TileNo} {rf : Rf}
    {op : Fmt → Env → Nat → FOut} (h : TileReady s sh acc [ta] [td] mask []) (hrf : flushRf rf = true)
    (hi : exec i s = tileSpecial s acc td ta sh mask rf op) :
    TileFpRetires i s td (shapeFmt (cur s) sh) (liveElems (cur s) sh mask) (fun _ r c =>
      op (shapeFmt (cur s) sh) (curEnv s rf) (tileElem (cur s) ta (shapeFmt (cur s) sh) r c)) := by
  rw [tileSpecial] at hi
  exact tileForm_result h hrf hi

section
variable (s : State) (td ta tb : TileNo) (sh : ShapeNo) (mask : TileNo) (rf : Rf)

theorem exec_tileFpTable : ∀ p ∈ tileFpTable, exec (p.1 td ta tb sh mask rf) s = tileFp2 s td ta tb sh mask rf p.2 := by
  intro p hp
  simp only [tileFpTable, List.mem_cons, List.not_mem_nil, or_false] at hp
  rcases hp with rfl | rfl | rfl | rfl | rfl | rfl | rfl | rfl <;> rfl

theorem exec_vmacFp : exec (.vmacFp td ta tb sh mask rf) s = runBody s (tileForm s td sh .floats true [ta, tb, td] mask
    (fun th f w r c => fpFma f (curEnv s rf) w false (tileElem th ta f r c) (tileElem th tb f r c) (tileElem th td f r c))) := rfl

theorem exec_vsqrt : exec (.vsqrt td ta sh mask rf) s = runBody s (tileForm s td sh .floats true [ta] mask
    (fun th f w r c => fpSqrt f (curEnv s rf) w (tileElem th ta f r c))) := rfl

theorem exec_vcvt (shx : ShapeNo) : exec (.vcvt td ta shx sh mask rf) s = runBody s (do
    tileChecks s sh .any true [ta] [td] mask []
    let r := formElems (cur s) ((liveElems (cur s) sh mask).filter (fun q => decide (q.2 < capOf (shapeFmt (cur s) shx))))
      (fun w r c => convertFmt (shapeFmt (cur s) shx) (shapeFmt (cur s) sh) (curEnv s rf) w
        (tileElem (cur s) ta (shapeFmt (cur s) sh) r c))
    checkFlags s r.2.1
    .ok (retire (setCur s (orStatus (writeElems r.2.2 td (shapeFmt (cur s) shx) r.1) r.2.1)))) := rfl

theorem exec_tileSpecialTable : ∀ p ∈ tileSpecialTable,
    exec (p.1 td ta sh mask rf) s = tileSpecial s p.2.1 td ta sh mask rf p.2.2 := by
  intro p hp
  simp only [tileSpecialTable, List.mem_cons, List.not_mem_nil, or_false] at hp
  rcases hp with rfl | rfl | rfl | rfl <;> rfl

end

theorem flushRf_of_mem {rf : Rf} (h : rf = .rne ∨ rf = .fz ∨ rf = .nf) : flushRf rf = true := by
  rcases h with rfl | rfl | rfl <;> rfl

/-- Settles O16: every instruction is the tile form, which forms all elements, checks the union of their flags, and then writes. -/
theorem tileFloatResults : Obligations.TileFloatResults := by
  refine ⟨?tables, ?vmac, ?vsqrt, ?special, ?vcvt⟩
  case tables => exact fun p hp s td ta tb sh mask rf h => tileFp2_result h (exec_tileFpTable s td ta tb sh mask rf p hp)
  case vmac =>
    intro s td ta tb sh mask rf h
    have hres := tileForm_result h rfl (exec_vmacFp s td ta tb sh mask rf)
    exact hres
  case vsqrt =>
    intro s td ta sh mask rf h
    have hres := tileForm_result h rfl (exec_vsqrt s td ta sh mask rf)
    exact hres
  case special =>
    exact fun p hp s td ta sh mask rf h hrf =>
      tileSpecial_result h (flushRf_of_mem hrf) (exec_tileSpecialTable s td ta sh mask rf p hp)
  case vcvt => exact fun s td ta shx sh mask rf h => formedElems_result h.1 h.2 (exec_vcvt s td ta sh mask rf shx)

end Sys2Proof.Claims
end
